-- ==== Sys2Proof/Word.lean ====
section
/-! DEFINITION. The word types of the package: bytes, and the widths its registers, records and packets use. -/

namespace Sys2Proof

/-- One byte (R7: the byte at the lowest address holds bits [7:0]). -/
abbrev Byte := BitVec 8
/-- A 16-bit value: status codes (R13), job tags, endpoint IDs. -/
abbrev Half := BitVec 16
/-- A 32-bit value: an instruction word, an FP32 encoding. -/
abbrev Word32 := BitVec 32
/-- A 64-bit value: a register (R10), a global address (R65), an FP64 encoding. -/
abbrev Word64 := BitVec 64
/-- One vector register: VLEN = 256 (R59). -/
abbrev Word256 := BitVec 256

end Sys2Proof
end

