-- ==== Sys2Proof/Syntax.lean ====
section
/-! DEFINITION. The commands of the block: one constructor of Instr for each row of spec/opcode_table.json, with the
operands this model gives the row (the table lists none: DESIGN CHOICE, log entry 4), and the plain operand types. -/

namespace Sys2Proof

/-- A thread state that issues instructions: a context of a cluster core (R61) or a PX application core (R82). -/
inductive Hart where
  | ctx (core : BitVec 8) (c : BitVec 7)
  | px (p : BitVec 6)
  deriving DecidableEq, Repr

/-- Who makes a register access: the SOURCE codes of ERR_LAST_REFUSED (R308, R411). -/
inductive Source where
  | host
  | mgmt
  | bmc
  | hart (h : Hart)
  deriving DecidableEq, Repr

/-- A packet of the fabric (Table 09-7): the header's fields, the 8 bytes after it, and the LEN data bytes. -/
structure Packet where
  tag    : Half
  dest   : Half
  src    : Half
  type   : BitVec 6
  cls    : BitVec 3
  hops   : BitVec 4
  pool   : Bool
  detour : BitVec 2
  via    : Half
  txn    : BitVec 20
  sub    : BitVec 6
  word   : Word64
  data   : List Byte
  deriving DecidableEq, Repr

/-- A row of a stack's memory: where the controller counts and spares it (Table 07-16). -/
structure RowAddr where
  stack   : BitVec 4
  die     : BitVec 4
  channel : BitVec 5
  bank    : BitVec 6
  row     : BitVec 18
  deriving DecidableEq, Repr

/-- Who met an uncorrectable line or word (R301). A core reader is named with its pc in State. -/
inductive Reader where
  | hart (h : Hart)
  | engine (eng : BitVec 10) (xfer : Bool)
  | heat (unit : BitVec 5)
  | update (unit : BitVec 4)
  | digest (unit : BitVec 4)
  | transfer (id : Nat)
  | split
  | remote (port : BitVec 5) (pkt : Packet)
  | hostRead
  | hostPartialWrite
  | scrub
  | record
  deriving DecidableEq, Repr

/-- A line or word whose error was corrected, on a read or by the patrol scrub: in a stack's row, in a tier unit, in SRAM (R167, R175,
R302). -/
inductive Corrected where
  | row (r : RowAddr)
  | tier (u : BitVec 4)
  | sram
  deriving DecidableEq, Repr

/-- A transfer block as its receiver got it (R166): the line's offset, the command, the data and the CRC. -/
structure TransferBlock where
  addr    : BitVec 48
  command : Byte
  data    : List Byte
  crc     : Word32
  deriving DecidableEq, Repr

/-- A mailbox line as RdShared returned it, and the host address it was read at (R332). -/
structure MailboxLine where
  addr  : Word64
  bytes : List Byte
  deriving DecidableEq, Repr

/-- The units whose utilisation is updated together (R181, R240). -/
inductive UtilGroup where
  | stack
  | tier
  | link
  deriving DecidableEq, Repr

/-- What the device finds on a tier unit at boot (R174 to R177): nothing; on a channel a DIMM with its type (1 RDIMM, 2 MRDIMM, else
another), ranks, device width, capacity in GiB and the rates in MT/s that it and the channel pass; on a root port a device with its
kind (0 Type 3, 1 another, 2 a switch, 3 a multi-logical device), the rate in GT/s and width its link trained at, and its capacity in
GiB. -/
inductive TierFound where
  | empty (unit : BitVec 4)
  | dimm (unit : BitVec 4) (type : BitVec 2) (ranks width : Nat) (capacity : Half) (passed : List Half)
  | device (unit : BitVec 4) (kind : BitVec 2) (link : Option (BitVec 6 × BitVec 5)) (capacity : Word32)
  deriving DecidableEq, Repr

/-- A host configuration-space write the rules give an effect (R320, R331, R335, R338). -/
inductive CfgWrite where
  | cacheEnable (on : Bool)
  | memEnable (on : Bool)
  | msixEnable (on : Bool)
  | deviceControl2 (v : Half)
  | deviceControl (v : Half)
  /-- AER: uncorrectable status, mask, severity, correctable status, mask, by number 0 to 4. -/
  | aer (reg : BitVec 3) (v : Word32)
  deriving DecidableEq, Repr

/-- The filtered inputs whose rejected pulses are counted (R396, R397). -/
inductive FilteredPin where
  | pwrGood
  | coldRst
  | pkgRst
  | perst
  | syncIn
  deriving DecidableEq, Repr

/-- Integer register, FP register or vector register number. -/
abbrev Rg := BitVec 5

/-- The commands. -/
inductive Instr where
  /-- R9 to R11: a register write of 1 to 8 bytes at a register-space offset. -/
  | registerWrite (src : Source) (off : Word32) (size : Nat) (value : Word64)
  /-- R59: a context issues a standard instruction; the word is the one its fetch returned. -/
  | standardInstruction (h : Hart) (word : Word32)
  /-- R195: a standard scalar load or store that names another endpoint. -/
  | standardRemoteAccess (h : Hart) (word : Word32)
  /-- R70. -/
  | fenceI (h : Hart)
  /-- R76, Table 03-7: size code 0 to 3 for 1, 2, 4, 8 bytes. -/
  | xld (h : Hart) (size : BitVec 2) (rd rs1 : Rg)
  | xldu (h : Hart) (size : BitVec 2) (rd rs1 : Rg)
  | xldv (h : Hart) (size : BitVec 2) (vd rs1 : Rg)
  | xst (h : Hart) (size : BitVec 2) (rs1 rs2 : Rg)
  | xstv (h : Hart) (size : BitVec 2) (rs1 vs : Rg)
  | xput (h : Hart) (rd rs1 : Rg)
  | xget (h : Hart) (rd rs1 : Rg)
  | xamoAdd (h : Hart) (rd rs1 rs2 : Rg)
  | xamoMin (h : Hart) (rd rs1 rs2 : Rg)
  | xamoMax (h : Hart) (rd rs1 rs2 : Rg)
  | xamoAnd (h : Hart) (rd rs1 rs2 : Rg)
  | xamoOr (h : Hart) (rd rs1 rs2 : Rg)
  | xamoSwap (h : Hart) (rd rs1 rs2 : Rg)
  | xcasD (h : Hart) (rd rs1 rs2 : Rg)
  | xcasQ (h : Hart) (rd rs1 rs2 : Rg)
  | xfadd (h : Hart) (rd rs1 fs2 : Rg)
  | xfence (h : Hart) (rd : Rg)
  | xhand (h : Hart) (rd rs1 rs2 : Rg)
  | xyield (h : Hart)
  | xbwait (h : Hart) (rd rs1 rs2 : Rg)
  /-- R79: a write to the baton line satisfied the waiting context's comparison. -/
  | xbwaitSatisfied (h : Hart)
  | xsleep (h : Hart) (rd rs1 : Rg)
  | xsleepTickReached (h : Hart)
  | xfinish (h : Hart) (rd rs1 rs2 : Rg)
  | xdsu (h : Hart) (w : Bool) (rd rs1 : Rg)
  | xpuu (h : Hart) (w : Bool) (rd rs1 rs2 : Rg)
  | xexit (h : Hart)
  /-- R206: the reply of the context's remote operation number op reaches the core. -/
  | remoteReply (h : Hart) (op : Nat)
  | remoteStopwatchExpiry (h : Hart) (op : Nat)
  | waitStopwatchExpiry (h : Hart)
  | quotaEntryFreed (h : Hart)
  | unitQueueEntryFreed (h : Hart)
  | contextAbortComplete (h : Hart)
  | xtmma (h : Hart) (passes : BitVec 2) (rd rs1 rs2 : Rg)
  | xtcvt (h : Hart) (scale ovf : Bool) (rd rs1 rs2 : Rg)
  | xtrd (h : Hart) (scale ovf : Bool) (rd rs1 rs2 : Rg)
  | xtzero (h : Hart) (rd rs2 : Rg)
  | xtfill (h : Hart) (rd rs1 rs2 : Rg)
  | xtspill (h : Hart) (rd rs1 rs2 : Rg)
  | xtwait (h : Hart) (rd rs2 : Rg)
  | xtstat (h : Hart) (rd rs1 rs2 : Rg)
  /-- R99: the head of the queue for the array lane (xfer = false) or the transfer lane starts. -/
  | engineInstructionStart (eng : BitVec 10) (xfer : Bool)
  /-- R114: the lane's instruction completes after stall waiting cycles (R112). -/
  | engineInstructionComplete (eng : BitVec 10) (xfer : Bool) (stall : Nat)
  | relayHandover (eng : BitVec 10)
  /-- R113: a column of the lane's running instruction failed its residue check. -/
  | engineColumnFault (eng : BitVec 10)
  | heatStart (unit : BitVec 5)
  /-- R125: the lane runs its problem, with stall waiting cycles (R138). -/
  | fk (unit : BitVec 5) (lane : BitVec 6) (stall : Nat)
  | id (unit : BitVec 5) (lane : BitVec 6) (stall : Nat)
  | fd (unit : BitVec 5) (lane : BitVec 6) (stall : Nat)
  | mass (unit : BitVec 5) (lane : BitVec 6) (stall : Nat)
  | step (unit : BitVec 5) (lane : BitVec 6) (stall : Nat)
  | heatComplete (unit : BitVec 5)
  | dsuLaneFault (unit : BitVec 5)
  | norm (unit : BitVec 4)
  | begin (unit : BitVec 4)
  /-- R153: the running APPLY goes on for at most groups further commit groups. -/
  | apply (unit : BitVec 4) (groups : Nat)
  | repair (unit : BitVec 4) (groups : Nat)
  | puuCommandComplete (unit : BitVec 4) (stall parkWait : Nat)
  | puuCommit (src : Source) (value : Word64)
  | puuPendingCommitTaken (unit : BitVec 4)
  | puuUnitFault (unit : BitVec 4)
  | stackCrcResend (block : TransferBlock)
  /-- R166: the channel retrains; ok says whether the block then passes, addr is its offset. -/
  | stackChannelRetrain (stack : BitVec 4) (ok : Bool) (addr : BitVec 48) (reader : Reader)
  | memUe (addr : BitVec 48) (reader : Reader)
  | rowSpareComplete (row : RowAddr)
  /-- R167: a line or word was corrected, by the scrub or on a read. -/
  | patrolScrub (what : Corrected)
  /-- R170: the four sensors' readings in 0.25 degree steps, under their fused trims (R374), none for a sensor that gave none. -/
  | stackThermalSample (stack : BitVec 4) (readings : List (Option (BitVec 10)))
  | memCommit (src : Source) (value : Word64)
  /-- R177: the port's link goes down with these accesses in flight: their offsets and readers. -/
  | farTierLinkDown (port : BitVec 1) (inFlight : List (BitVec 48 × Reader))
  | tierZeroingDone (unit : BitVec 4)
  /-- R181, R240: a group's window of 65,536 ticks has passed. -/
  | utilUpdate (group : UtilGroup)
  | loadReq (port : BitVec 5) (pkt : Packet)
  | storeReq (port : BitVec 5) (pkt : Packet)
  | putReq (port : BitVec 5) (pkt : Packet)
  | getReq (port : BitVec 5) (pkt : Packet)
  | amoReq (port : BitVec 5) (pkt : Packet)
  | casReq (port : BitVec 5) (pkt : Packet)
  | faddReq (port : BitVec 5) (pkt : Packet)
  | handReq (port : BitVec 5) (pkt : Packet)
  | dataRsp (port : BitVec 5) (pkt : Packet)
  | ackRsp (port : BitVec 5) (pkt : Packet)
  | packetTransit (port : BitVec 5) (pkt : Packet)
  | regionClear (src : Source) (value : Word64)
  | regionClearDone
  /-- R216: some false: up at Remal Link 2, some true: at Remal Link 1, none: no allowed generation trains. -/
  | portTrainingDone (port : BitVec 5) (gen1 : Option Bool)
  | portTrainingRetry (port : BitVec 5)
  | retrain (src : Source) (value : Word64)
  /-- R217: the flit's bytes, and whether the FEC layer marked it bad (R214). -/
  | dataFlit (port : BitVec 5) (flit : List Byte) (marked : Bool)
  | nak (port : BitVec 5) (flit : List Byte) (marked : Bool)
  | idleFlit (port : BitVec 5) (flit : List Byte) (marked : Bool)
  | param (port : BitVec 5) (flit : List Byte) (marked : Bool)
  | paramPeriodicSend (port : BitVec 5)
  | replayTimeout (port : BitVec 5)
  | fastRetrainDone (port : BitVec 5) (ok : Bool)
  | lnkCommit (src : Source) (value : Word64)
  | tagDrainEnd (entry : BitVec 6)
  | routeEntryWrite (src : Source) (value : Word64)
  | send (src : Source) (unit : BitVec 5) (addr : Word64)
  | recv (src : Source) (unit : BitVec 5) (addr : Word64)
  | round (src : Source) (unit : BitVec 5) (addr : Word64)
  | rts (port : BitVec 5) (pkt : Packet)
  | cts (port : BitVec 5) (pkt : Packet)
  | busy (port : BitVec 5) (pkt : Packet)
  | mismatch (port : BitVec 5) (pkt : Packet)
  | cancel (port : BitVec 5) (pkt : Packet)
  | colData (port : BitVec 5) (pkt : Packet)
  | rtsRetry (transfer : Nat)
  | transferTimeout (transfer : Nat)
  | relayOrphanTimeout (unit : BitVec 5)
  | arrive (port : BitVec 5) (pkt : Packet)
  | release (port : BitVec 5) (pkt : Packet)
  /-- R267: frac is the fraction of t1 in 1/16 tick. -/
  | syncExchange (frac : BitVec 4)
  | syncReq (port : BitVec 5) (pkt : Packet) (frac : BitVec 4) (turnaround : Word32)
  | syncRsp (port : BitVec 5) (pkt : Packet) (frac : BitVec 4)
  | holdoverLimit
  | timCfgWrite (src : Source) (value : Word64)
  | syncInEdge (frac : BitVec 4)
  | syncOutPulse
  | launchPost (src : Source) (addr : Word64)
  | launchCancel (src : Source) (value : Word64)
  | refuse (port : BitVec 5) (pkt : Packet)
  | refuseKeyRetentionEnd (tag : Half) (start : Word64)
  | startCount
  | leaves (src : Source) (unit : BitVec 4) (addr : Word64)
  | root (src : Source) (unit : BitVec 4) (addr : Word64)
  | full (src : Source) (unit : BitVec 4) (addr : Word64)
  | bind (src : Source) (unit : BitVec 4) (addr : Word64)
  | digestCommandComplete (unit : BitVec 4)
  | digEngineFault (unit : BitVec 4)
  | start (src : Source) (addr : Word64)
  | seal (src : Source) (addr : Word64)
  | check (src : Source) (addr : Word64)
  | restore (src : Source) (addr : Word64)
  | abandon (src : Source) (addr : Word64)
  /-- R290: the background copy finishes its current granule; ok = false is a failed image write (R293). -/
  | granuleCopyDone (ok : Bool)
  | priorityCopyDone (ok : Bool)
  | priorityRequestRetry (granule : Nat)
  | splitStartComplete
  | splEngineFault
  | poison (port : BitVec 5) (pkt : Packet)
  | contextAbort (src : Source) (target : BitVec 15)
  | coreReset (src : Source) (core : BitVec 8)
  | clusterReset (src : Source) (cluster : BitVec 5)
  | computeReset (src : Source)
  | packageReset (src : Source)
  | coldReset (src : Source)
  | resetComplete
  | d2dPathFail
  | memControllerFail (stack : BitVec 4)
  | colUnitFault (unit : BitVec 5)
  | bar2Write (off : Word32) (data : List Byte)
  | eventRingConsWrite (value : Word32)
  | eventRecordForward
  /-- R326, R327: none reads len bytes at the device physical address, some data writes. -/
  | hostCxlMemAccess (addr : Word64) (len : Nat) (data : Option (List Byte))
  | hdmDecoderCommit (ways : Nat) (base size : Word64)
  | biasFlip (src : Source) (value : Word64)
  | biasFlipDone
  | hifCommit (src : Source) (value : Word64)
  /-- R329: the stopwatch of a host-window request expires, or the host returns poison. -/
  | hostWindowTimeout (addr : BitVec 48) (expired : Bool) (reader : Reader)
  | mboxAddrWrite (src : Source) (value : Word64)
  | mailboxSnoop (line : MailboxLine)
  | mailboxPoll (line : Option (List Byte))
  | mboxNop
  | mboxLaunch
  | mboxCancel
  | load
  | unload
  | mboxReset
  | mailboxReply
  | configReadDone (bytes : List Byte)
  | upstreamLinkTrained (cxl : Bool) (width : BitVec 5) (rate : BitVec 8)
  | bootGo (src : Source) (value : Word64)
  | firmwareVerifyDone
  /-- R344: training ends; what was found on the tiers' units. -/
  | bootReady (tiers : List TierFound)
  | doeDiscovery (inst : BitVec 1) (index : Byte)
  | cdatTableAccess (handle : Half)
  | doeAbort (inst : BitVec 1)
  | getCert (payload : List Byte)
  | quote (payload : List Byte)
  | quoteSigned (ok : Bool)
  | extend (payload : List Byte)
  | fuseRevoke (src : Source) (slot : BitVec 7)
  | fuseAdvance (src : Source) (svn : BitVec 7)
  | fuseProgramDone
  /-- R368: the input voltage in mV, the current over the last 1,000 ticks and over the last 200 ticks in 0.1 A. -/
  | inputSample (vinMv iin iin200 : Half)
  | powerOffComplete
  /-- R373: none is a stage-1 fault, some r the rail that left its band; R370's overheat is KIND 5. -/
  | railFault (rail : Option (BitVec 6)) (overheat : Bool)
  | powerEvaluation (watts : BitVec 13) (pairWatts : List (BitVec 10))
  /-- R380: the junctions of the 32 clusters in 0.25 degree steps, under their fused trims (R374). -/
  | thermalPacingSample (junctions : List (BitVec 10))
  | pwrCommit (src : Source) (value : Word64)
  | restEntry (cluster : BitVec 5)
  | forceAwake (src : Source) (value : Word64)
  | pllLocked (cluster : BitVec 5)
  | mgtUtilWindow (percent : BitVec 7)
  | telemetrySnapshot
  | mgtTelCommit (src : Source) (value : Word64)
  | watchdogKick (src : Source) (value : Word64)
  | watchdogExpiry
  | mgtRestartDone
  | i3cReadRequest (bytes : List Byte)
  | i3cRegisterWrite (bytes : List Byte)
  | i3cPrivateRead
  | entdaa (addr : BitVec 7)
  | setdasa (static addr : BitVec 7)
  | setnewda (addr : BitVec 7)
  | rstdaa
  | enec (events : Byte)
  | disec (events : Byte)
  | getpid
  | getbcr
  | getdcr
  | getstatus
  | getmwl
  | getmrl
  | pwrGoodRise (pos : BitVec 2) (testen disagree : Bool)
  | pwrGoodFall
  | coldRstNAssert
  | coldRstNDeassert (pos : BitVec 2) (testen disagree : Bool)
  | pkgRstNAssert
  | pkgRstNDeassert
  | perstNAssert
  | perstNDeassert
  | refclkLoss
  | refclkRestored (pos : BitVec 2) (testen disagree : Bool)
  | pinPulseRejected (pin : FilteredPin)
  | registerRead (src : Source) (off : Word32) (size : Nat)
  | configWrite (w : CfgWrite)
  | alwaysOnPowerUp
  | alwaysOnPowerLoss
  | transferComplete (transfer : Nat)
  | splitCommandComplete
  deriving DecidableEq, Repr

end Sys2Proof
end

