-- ==== Sys2Proof/Config.lean ====
section
/-! DEFINITION. What the spec leaves to each part or does not state: free values. Each is opaque, so nothing can be
proved of its value (DESIGN CHOICE); log entries 8 to 11 name them. -/

namespace Sys2Proof.Config

/-- A value the spec leaves open each time it arises: the n-th one (State.fresh counts them, DESIGN CHOICE, log entry 9). -/
opaque freeWord : Nat → Word64

/-- The cosine and sine of half a revolute joint's angle as a solver lane forms them, by the angle's FP64 or FP32
encoding: the spec does not state them for an angle that is not zero (DEDUCED, log entry 10). -/
opaque halfCos : (prec64 : Bool) → Nat → Nat
opaque halfSin : (prec64 : Bool) → Nat → Nat

/-- ML-DSA-87 of FIPS 204, not restated by the spec (DESIGN CHOICE, log entry 11): verification of a signature over a message under a
public key, and the signature made from the identity seed and 32 bytes of randomness. -/
opaque mlDsaVerify : (key message signature : List Byte) → Bool
opaque mlDsaSign : (seed message randomness : List Byte) → List Byte
/-- The identity public key of a 32-byte seed. -/
opaque mlDsaPublic : (seed : List Byte) → List Byte

/-- The fuses set at manufacture (Table 15-1, DESIGN CHOICE, log entry 8): the 64-byte hash of each key slot and the 32-byte identity seed;
the physical units the fuse map marks defective, as KIND of MGT_RESERVE_SEL, the parent's number and the physical unit
(R21, R22). -/
opaque fuseKey : (slot : Nat) → List Byte
opaque fuseSeed : List Byte
opaque fuseDefects : List (Nat × Nat × Nat)

/-- What MASS writes in D and L once its factorisation has ended, by the problem's descriptor, its thresholds and the word's place: no rule
states it, and R118 says what it may depend on (DESIGN CHOICE, log entry 9). -/
opaque endedFactor : (desc : List Byte) → (tau64 tau32 i : Nat) → Word64

/-- The ticks in which a logical fuse bit of a command is programmed, less one, taken modulo 1,000,000 (R358: at most that many; DESIGN
CHOICE, log entry 8). -/
opaque fuseTicks : (op arg svn : Nat) → Nat

/-- The fused trim of a rail (KIND 0, in mV) or sensor (KIND 1, in 0.25 degree steps), which an entry of TRIMS replaces (R374). -/
opaque fusedTrim : (kind index : Nat) → Int

/-- The next estimate of a counter's drift, from the estimate and the offset just measured: R267 says what it tends to and not how it
is formed (DESIGN CHOICE, log entry 25). -/
opaque driftEstimate : (rate offset : Int) → Int

/-- Whether a declared memory range of a run image, by the image's header and the range's number, is a collective buffer range
(R26, R242): no field of Table 14-10 marks one (DESIGN CHOICE, log entry 54). -/
opaque collRange : (header : List Byte) → (range : Nat) → Bool

/-- The i-th of the 30 check symbols of RS(544,514) over a message of 514 symbols, given as one number (R213, R214): the spec does not state
the code (DESIGN CHOICE, log entry 15). -/
opaque fecCheck : (message i : Nat) → Nat

/-- The die, the bank and the row in which a stack keeps the line at an offset within the stack (Table 07-3 gives its channel and not these;
DESIGN CHOICE, log entry 61). -/
opaque lineDie : (stack off : Nat) → BitVec 4
opaque lineBank : (stack off : Nat) → BitVec 6
opaque lineRow : (stack off : Nat) → BitVec 18

/-- The vendor ID that the configuration header reports, under which attestation objects are framed (R330). -/
opaque vendorId : Half

/-- The I3C provisional ID made from the part's serial, BCR and DCR (R386): the spec gives no values (PRESUMED, log entry 26). -/
opaque i3cPid : List Byte
opaque i3cBcr : Byte
opaque i3cDcr : Byte

end Sys2Proof.Config
end

