-- ==== Sys2Proof/Machine/Data.lean ====
section
/-! DEFINITION. Plain data the machine is built from: sparse maps in one canonical form, little-endian bytes (R7),
fields of a word (R6), saturating counters, ordered sets. -/

namespace Sys2Proof.Machine

/-- What a sparse map holds at a key: its entry, or the default of an unlisted key. -/
def mapGet {α : Type} (d : Nat → α) (k : Nat) : List (Nat × α) → α
  | [] => d k
  | (k', v) :: m => if k = k' then v else if k < k' then d k else mapGet d k m

/-- A sparse map with one key changed: keys stay strictly rising and no entry equals its key's default. -/
def mapSet {α : Type} [DecidableEq α] (d : Nat → α) (k : Nat) (v : α) : List (Nat × α) → List (Nat × α)
  | [] => if v = d k then [] else [(k, v)]
  | (k', v') :: m =>
    if k = k' then (if v = d k then m else (k, v) :: m)
    else if k < k' then (if v = d k then (k', v') :: m else (k, v) :: (k', v') :: m)
    else (k', v') :: mapSet d k v m

/-- Every key of the map lies above lo. -/
def keysAbove {α : Type} (lo : Nat) (m : List (Nat × α)) : Bool := m.all fun e => lo < e.1

/-- The canonical form: keys strictly rising, no entry equal to its default. -/
def mapWf {α : Type} [DecidableEq α] (d : Nat → α) : List (Nat × α) → Bool
  | [] => true
  | (k, v) :: m => decide (v ≠ d k) && keysAbove k m && mapWf d m

/-- The map without its entries at keys lo to lo + n - 1. -/
def mapErase {α : Type} (lo n : Nat) (m : List (Nat × α)) : List (Nat × α) :=
  m.filter fun e => e.1 < lo || lo + n ≤ e.1

/-- The entry of an association list, if it has one. -/
def assocGet {α : Type} (k : Nat) : List (Nat × α) → Option α
  | [] => none
  | (k', v) :: m => if k = k' then some v else assocGet k m

/-- An association list with a key set, keys kept rising. -/
def assocSet {α : Type} (k : Nat) (v : α) : List (Nat × α) → List (Nat × α)
  | [] => [(k, v)]
  | (k', v') :: m =>
    if k = k' then (k, v) :: m else if k < k' then (k, v) :: (k', v') :: m else (k', v') :: assocSet k v m

/-- The n low bytes of a number, least significant first (R7). -/
def leBytes : Nat → Nat → List Byte
  | 0, _ => []
  | n + 1, v => BitVec.ofNat 8 v :: leBytes n (v / 256)

/-- The number a little-endian byte string spells. -/
def ofLe : List Byte → Nat
  | [] => 0
  | b :: bs => b.toNat + 256 * ofLe bs

/-- The number a big-endian byte string spells. -/
def ofBe (bs : List Byte) : Nat := bs.foldl (fun a b => a * 256 + b.toNat) 0

/-- Bits [hi:lo] of a number (R6). -/
def bitsOf (v hi lo : Nat) : Nat := v / 2 ^ lo % 2 ^ (hi + 1 - lo)

/-- Bit i of a number. -/
def bitOf (v i : Nat) : Bool := v / 2 ^ i % 2 == 1

/-- Bits [hi:lo] of a register word. -/
def wordGet (w : Word64) (hi lo : Nat) : Nat := bitsOf w.toNat hi lo

/-- The word with ones in bits [hi:lo]. -/
def wordMask (hi lo : Nat) : Word64 := BitVec.ofNat 64 ((2 ^ (hi + 1 - lo) - 1) * 2 ^ lo)

/-- The word with bits [hi:lo] replaced by v. -/
def wordPut (w : Word64) (hi lo v : Nat) : Word64 :=
  (w &&& ~~~ wordMask hi lo) ||| (BitVec.ofNat 64 (v * 2 ^ lo) &&& wordMask hi lo)

/-- 0 or 1. -/
def b2n (b : Bool) : Nat := if b then 1 else 0

/-- Sign extension of an n-bit number to 64 bits. -/
def sext64 (n v : Nat) : Nat :=
  let u := v % 2 ^ n
  if u < 2 ^ (n - 1) then u else u + 2 ^ 64 - 2 ^ n

/-- The two's complement value of the n low bits. -/
def toSigned (n v : Nat) : Int :=
  let u := v % 2 ^ n
  if u < 2 ^ (n - 1) then (u : Int) else (u : Int) - (2 ^ n : Nat)

/-- The n low bits of an integer. -/
def ofSigned (n : Nat) (v : Int) : Nat := (v % (2 ^ n : Nat)).toNat

/-- A number put into an ascending list without repeats. -/
def setInsert (x : Nat) : List Nat → List Nat
  | [] => [x]
  | y :: ys => if x = y then y :: ys else if x < y then x :: y :: ys else y :: setInsert x ys

/-- The union of two ascending lists. -/
def setUnion (xs ys : List Nat) : List Nat := xs.foldl (fun a x => setInsert x a) ys

/-- n bytes from place i of a byte string, zero beyond its end. -/
def slice (bs : List Byte) (i n : Nat) : List Byte :=
  let t := (bs.drop i).take n
  t ++ List.replicate (n - t.length) 0

/-- The n-byte little-endian number at place i of a byte string. -/
def fieldAt (bs : List Byte) (i n : Nat) : Nat := ofLe (slice bs i n)

/-- All bytes of a string from place i on, n of them, are zero. -/
def zeroAt (bs : List Byte) (i n : Nat) : Bool := (slice bs i n).all (· == 0)

/-- bs written over a byte string at place i. -/
def splice (base : List Byte) (i : Nat) (bs : List Byte) : List Byte :=
  base.take i ++ bs ++ base.drop (i + bs.length)

/-- The first index at which a test holds. -/
def firstIdx {α : Type} (p : α → Bool) : List α → Option Nat
  | [] => none
  | x :: xs => if p x then some 0 else (firstIdx p xs).map (· + 1)

/-- The least number of a list, if it has one. -/
def minOf : List Nat → Option Nat
  | [] => none
  | x :: xs => some ((minOf xs).elim x (Nat.min x))

/-- The greatest number of a list, 0 if empty. -/
def maxOf (xs : List Nat) : Nat := xs.foldl Nat.max 0

/-- The number of units of size u that the extent [a, a + n) touches. -/
def unitsTouched (u a n : Nat) : Nat := if n = 0 then 0 else (a + n - 1) / u - a / u + 1

/-- Left fold over 0 .. n - 1. -/
def foldRange {α : Type} (n : Nat) (f : α → Nat → α) (a : α) : α := (List.range n).foldl f a

end Sys2Proof.Machine
end

