-- ==== Sys2Proof/Machine/Fp.lean ====
section
/-! DEFINITION. Binary floating point exactly: values as signed dyadic numbers, one rounding to a format (R31, R38 to
R41), and the operations of IEEE 754-2019 built from them. -/

namespace Sys2Proof.Machine

/-- A format with IEEE semantics: exponent and fraction bits (Table 02-1). -/
structure Fmt where
  ebits : Nat
  fbits : Nat
  deriving DecidableEq, Repr

abbrev fp64 : Fmt := ⟨11, 52⟩
abbrev fp32 : Fmt := ⟨8, 23⟩
abbrev bf16 : Fmt := ⟨8, 7⟩
abbrev fp16 : Fmt := ⟨5, 10⟩

def Fmt.width (f : Fmt) : Nat := 1 + f.ebits + f.fbits
def Fmt.bias (f : Fmt) : Nat := 2 ^ (f.ebits - 1) - 1
/-- The exponent of the smallest normal, and the weight exponent of the last subnormal bit. -/
def Fmt.emin (f : Fmt) : Int := 1 - (f.bias : Int)
def Fmt.ulp0 (f : Fmt) : Int := f.emin - f.fbits
def Fmt.infBits (f : Fmt) : Nat := (2 ^ f.ebits - 1) * 2 ^ f.fbits
/-- The canonical NaN (Table 02-1). -/
def Fmt.nan (f : Fmt) : Nat := f.infBits + 2 ^ (f.fbits - 1)
def Fmt.signBit (f : Fmt) (neg : Bool) : Nat := if neg then 2 ^ (f.ebits + f.fbits) else 0
def Fmt.maxFinite (f : Fmt) : Nat := f.infBits - 1

/-- A value: NaN, an infinity, or ± m × 2^e; zeros keep their sign. -/
inductive Num where
  | nan
  | inf (neg : Bool)
  | fin (neg : Bool) (m : Nat) (e : Int)
  deriving DecidableEq, Repr

/-- What an encoding means (R31). -/
def decodeFp (f : Fmt) (b : Nat) : Num :=
  let neg := bitOf b (f.ebits + f.fbits)
  let ex := b / 2 ^ f.fbits % 2 ^ f.ebits
  let fr := b % 2 ^ f.fbits
  if ex = 2 ^ f.ebits - 1 then (if fr = 0 then .inf neg else .nan)
  else if ex = 0 then .fin neg fr f.ulp0
  else .fin neg (fr + 2 ^ f.fbits) (f.ulp0 + (ex : Int) - 1)

/-- A signalling NaN encoding. -/
def isSnan (f : Fmt) (b : Nat) : Bool :=
  b / 2 ^ f.fbits % 2 ^ f.ebits == 2 ^ f.ebits - 1 && b % 2 ^ f.fbits != 0 && !bitOf b (f.fbits - 1)

/-- The kept part of m / 2^d rounded to an integer under a mode (Table 02-4; 4 is RISC-V's RMM). -/
def roundShift (rm : Nat) (neg : Bool) (m d : Nat) : Nat :=
  let q := m / 2 ^ d
  let r := m % 2 ^ d
  let up : Bool :=
    if r = 0 then false
    else match rm with
      | 0 => 2 ^ d < 2 * r || (2 * r == 2 ^ d && q % 2 == 1)
      | 1 => false
      | 2 => neg
      | 3 => !neg
      | _ => 2 ^ d ≤ 2 * r
  if up then q + 1 else q

/-- The magnitude an overflow gives (R40). -/
def overflowTo (f : Fmt) (rm : Nat) (neg : Bool) : Nat :=
  match rm with
  | 1 => f.maxFinite
  | 2 => if neg then f.infBits else f.maxFinite
  | 3 => if neg then f.maxFinite else f.infBits
  | _ => f.infBits

/-- Accrued-exception bits of RISC-V: NX 1, UF 2, OF 4, DZ 8, NV 16. -/
abbrev Flags := Nat

/-- ± m × 2^e rounded once to a format, with the flags; m = 0 is a zero of that sign. Tininess is detected after
rounding (R39). -/
def roundFin (f : Fmt) (rm : Nat) (neg : Bool) (m : Nat) (e : Int) : Nat × Flags :=
  if m = 0 then (f.signBit neg, 0)
  else
    let top : Int := e + Nat.log2 m
    let lsb : Int := max top f.emin - f.fbits
    let shift (w : Int) : Nat × Bool :=
      if w ≤ e then (m * 2 ^ (e - w).toNat, true)
      else (roundShift rm neg m (w - e).toNat, m % 2 ^ (w - e).toNat == 0)
    let (q, exact) := shift lsb
    let enc := (lsb - f.ulp0).toNat * 2 ^ f.fbits + q
    if f.infBits ≤ enc then (f.signBit neg + overflowTo f rm neg, 5)
    else
      -- tiny: with the exponent unbounded, the rounded magnitude stays below the smallest normal
      let (u, _) := shift (top - f.fbits)
      let tiny := top < f.emin && !(top == f.emin - 1 && u == 2 ^ (f.fbits + 1))
      (f.signBit neg + enc, if exact then 0 else if tiny then 3 else 1)

/-- A value rounded to a format. -/
def encodeFp (f : Fmt) (rm : Nat) : Num → Nat × Flags
  | .nan => (f.nan, 0)
  | .inf neg => (f.signBit neg + f.infBits, 0)
  | .fin neg m e => roundFin f rm neg m e

def Num.isNan : Num → Bool
  | .nan => true
  | _ => false
def Num.isInf : Num → Bool
  | .inf _ => true
  | _ => false
def Num.isZero : Num → Bool
  | .fin _ m _ => m == 0
  | _ => false
def Num.neg : Num → Bool
  | .nan => false
  | .inf n => n
  | .fin n _ _ => n
def Num.negate : Num → Num
  | .nan => .nan
  | .inf n => .inf (!n)
  | .fin n m e => .fin (!n) m e

/-- The signed integer of a finite value in units of 2^w, w at most its exponent. -/
def Num.units (w : Int) : Num → Int
  | .fin n m e => (if n then -1 else 1) * ((m * 2 ^ (e - w).toNat : Nat) : Int)
  | _ => 0
def Num.exp : Num → Int
  | .fin _ _ e => e
  | _ => 0

/-- A signed dyadic as a value; an exact zero takes the given sign. -/
def ofUnits (v : Int) (w : Int) (zeroNeg : Bool) : Num :=
  if v = 0 then .fin zeroNeg 0 0 else .fin (v < 0) v.natAbs w

/-- The exact sum under a mode, which decides only the sign of an exact zero. -/
def numAdd (rm : Nat) (a b : Num) : Num :=
  match a, b with
  | .nan, _ | _, .nan => .nan
  | .inf x, .inf y => if x = y then .inf x else .nan
  | .inf x, _ | _, .inf x => .inf x
  | .fin x 0 _, .fin y 0 _ => .fin (if x = y then x else rm == 2) 0 0
  | .fin x m e, .fin y n g =>
    let w := min e g
    ofUnits ((Num.fin x m e).units w + (Num.fin y n g).units w) w (rm == 2)

/-- The exact product. -/
def numMul (a b : Num) : Num :=
  match a, b with
  | .nan, _ | _, .nan => .nan
  | .inf x, y => if y.isZero then .nan else .inf (x != y.neg)
  | x, .inf y => if x.isZero then .nan else .inf (x.neg != y)
  | .fin x m e, .fin y n g => .fin (x != y) (m * n) (e + g)

/-- A quotient with enough bits below any format's last for one correct rounding: a remainder shows in the last bit. -/
def numDiv (a b : Num) : Num :=
  match a, b with
  | .nan, _ | _, .nan => .nan
  | .inf _, .inf _ => .nan
  | .inf x, y => .inf (x != y.neg)
  | x, .inf y => .fin (x.neg != y) 0 0
  | .fin x m e, .fin y n g =>
    if n = 0 then (if m = 0 then .nan else .inf (x != y))
    else
      let k := Nat.log2 n + 70
      let q := m * 2 ^ k / n
      let r := m * 2 ^ k % n
      .fin (x != y) (2 * q + b2n (r != 0)) (e - g - k - 1)

/-- The integer square root, bit by bit from bit n - 1 of the root. -/
def isqrtN : Nat → Nat → Nat → Nat
  | 0, _, r => r
  | n + 1, v, r =>
    let t := r + 2 ^ n
    isqrtN n v (if t * t ≤ v then t else r)
def isqrt (v : Nat) : Nat := isqrtN (Nat.log2 v / 2 + 1) v 0

/-- A square root with the remainder in the last bit. -/
def numSqrt (a : Num) : Num :=
  match a with
  | .nan => .nan
  | .inf n => if n then .nan else .inf false
  | .fin n m e =>
    if m = 0 then .fin n 0 0
    else if n then .nan
    else
      let k : Nat := 140 + (if (e - 140) % 2 = 0 then 0 else 1)
      let v := m * 2 ^ k
      let r := isqrt v
      .fin false (2 * r + b2n (r * r != v)) ((e - k) / 2 - 1)

/-- A comparison of two values that are not NaN. -/
def numLt (a b : Num) : Bool :=
  match a, b with
  | .nan, _ | _, .nan => false
  | .inf x, .inf y => x && !y
  | .inf x, _ => x
  | _, .inf y => !y
  | .fin x m e, .fin y n g => let w := min e g; (Num.fin x m e).units w < (Num.fin y n g).units w
def numEq (a b : Num) : Bool :=
  match a, b with
  | .nan, _ | _, .nan => false
  | .inf x, .inf y => x == y
  | .inf _, _ | _, .inf _ => false
  | .fin x m e, .fin y n g => let w := min e g; (Num.fin x m e).units w == (Num.fin y n g).units w

/-! ### One operation, one rounding: on encodings -/

/-- Flags of an operation whose value came out NaN from operands that were not. -/
def invalidIf (b : Bool) : Flags := if b then 16 else 0

def fpAdd (f : Fmt) (rm a b : Nat) : Nat × Flags :=
  let x := decodeFp f a
  let y := decodeFp f b
  let z := numAdd rm x y
  let (r, fl) := encodeFp f rm z
  (r, fl ||| invalidIf (isSnan f a || isSnan f b || (z.isNan && !x.isNan && !y.isNan)))

/-- The encoding with its sign turned (a NaN too: only used on operands). -/
def fpNeg (f : Fmt) (a : Nat) : Nat := a.xor (2 ^ (f.ebits + f.fbits))

def fpSub (f : Fmt) (rm a b : Nat) : Nat × Flags := fpAdd f rm a (fpNeg f b)

def fpMul (f : Fmt) (rm a b : Nat) : Nat × Flags :=
  let x := decodeFp f a
  let y := decodeFp f b
  let z := numMul x y
  let (r, fl) := encodeFp f rm z
  (r, fl ||| invalidIf (isSnan f a || isSnan f b || (z.isNan && !x.isNan && !y.isNan)))

def fpDiv (f : Fmt) (rm a b : Nat) : Nat × Flags :=
  let x := decodeFp f a
  let y := decodeFp f b
  let z := numDiv x y
  let (r, fl) := encodeFp f rm z
  let dz : Flags := if y.isZero && !x.isZero && !x.isNan && !x.isInf then 8 else 0
  (r, fl ||| dz ||| invalidIf (isSnan f a || isSnan f b || (z.isNan && !x.isNan && !y.isNan)))

def fpSqrt (f : Fmt) (rm a : Nat) : Nat × Flags :=
  let x := decodeFp f a
  let z := numSqrt x
  let (r, fl) := encodeFp f rm z
  (r, fl ||| invalidIf (isSnan f a || (z.isNan && !x.isNan)))

/-- a × b + c, rounded once. -/
def fpFma (f : Fmt) (rm a b c : Nat) : Nat × Flags :=
  let x := decodeFp f a
  let y := decodeFp f b
  let w := decodeFp f c
  let p := numMul x y
  let z := numAdd rm p w
  let (r, fl) := encodeFp f rm z
  let nv := isSnan f a || isSnan f b || isSnan f c || (p.isNan && !x.isNan && !y.isNan)
    || (z.isNan && !p.isNan && !w.isNan)
  (r, fl ||| invalidIf nv)

/-- Conversion between formats (R41). -/
def fpCvt (from_ to_ : Fmt) (rm a : Nat) : Nat × Flags :=
  let (r, fl) := encodeFp to_ rm (decodeFp from_ a)
  (r, fl ||| invalidIf (isSnan from_ a))

/-- An integer as a value. -/
def numOfInt (v : Int) : Num := .fin (v < 0) v.natAbs 0
def fpOfInt (f : Fmt) (rm : Nat) (v : Int) : Nat × Flags := encodeFp f rm (numOfInt v)

/-- A value rounded to an integer under a mode, and whether that was inexact. -/
def numToInt (rm : Nat) : Num → Int × Bool
  | .fin neg m e =>
    if 0 ≤ e then ((if neg then -1 else 1) * ((m * 2 ^ e.toNat : Nat) : Int), false)
    else
      let d := (-e).toNat
      ((if neg then -1 else 1) * (roundShift rm neg m d : Int), m % 2 ^ d != 0)
  | _ => (0, false)

/-- RISC-V's conversion to an integer of n bits: saturating, NaN to the largest. -/
def fpToInt (f : Fmt) (rm n : Nat) (signed : Bool) (a : Nat) : Nat × Flags :=
  let lo : Int := if signed then -(2 ^ (n - 1) : Nat) else 0
  let hi : Int := if signed then (2 ^ (n - 1) : Nat) - 1 else (2 ^ n : Nat) - 1
  match decodeFp f a with
  | .nan => (ofSigned n hi, 16)
  | .inf neg => (ofSigned n (if neg then lo else hi), 16)
  | x =>
    let (v, inexact) := numToInt rm x
    if v < lo then (ofSigned n lo, 16)
    else if hi < v then (ofSigned n hi, 16)
    else (ofSigned n v, b2n inexact)

/-- Less than, at most, equal on encodings, with the invalid flag of a signalling comparison or a quiet one. -/
def fpLt (f : Fmt) (a b : Nat) : Bool × Flags :=
  let x := decodeFp f a
  let y := decodeFp f b
  (numLt x y, invalidIf (x.isNan || y.isNan))
def fpLe (f : Fmt) (a b : Nat) : Bool × Flags :=
  let x := decodeFp f a
  let y := decodeFp f b
  (numLt x y || numEq x y, invalidIf (x.isNan || y.isNan))
def fpEq (f : Fmt) (a b : Nat) : Bool × Flags :=
  (numEq (decodeFp f a) (decodeFp f b), invalidIf (isSnan f a || isSnan f b))

/-- minimumNumber and maximumNumber of RISC-V: −0 below +0, a NaN operand ignored. -/
def fpMinMax (f : Fmt) (max_ : Bool) (a b : Nat) : Nat × Flags :=
  let x := decodeFp f a
  let y := decodeFp f b
  let fl := invalidIf (isSnan f a || isSnan f b)
  if x.isNan && y.isNan then (f.nan, fl)
  else if x.isNan then (b, fl)
  else if y.isNan then (a, fl)
  else
    let less := numLt x y || (x.isZero && y.isZero && x.neg && !y.neg)
    (if less != max_ then a else b, fl)

/-- RISC-V's fclass mask. -/
def fpClass (f : Fmt) (a : Nat) : Nat :=
  match decodeFp f a with
  | .nan => if isSnan f a then 2 ^ 8 else 2 ^ 9
  | .inf n => if n then 2 ^ 0 else 2 ^ 7
  | .fin n m e =>
    if m = 0 then (if n then 2 ^ 3 else 2 ^ 4)
    else if m < 2 ^ f.fbits then (if n then 2 ^ 2 else 2 ^ 5)
    else if e = e then (if n then 2 ^ 1 else 2 ^ 6) else 0

/-- Non-finite encodings. -/
def isNonFinite (f : Fmt) (a : Nat) : Bool := f.infBits ≤ a % 2 ^ (f.ebits + f.fbits)

end Sys2Proof.Machine
end

