-- ==== Sys2Proof/Machine/Hash.lean ====
section
/-! DEFINITION. CRC-64 (R134), CRC-32C (R166), SHA3-512 of FIPS 202, and the digests D and BIND (R280, R281). -/

namespace Sys2Proof.Machine

/-- One byte into the CRC-64 of R134: polynomial 0x42F0E1EBA9EA3693, no reflection. -/
def crc64Byte (c : Nat) (b : Byte) : Nat :=
  (List.range 8).foldl (fun c _ => if c < 2 ^ 63 then c * 2 else (c * 2 - 2 ^ 64).xor 0x42F0E1EBA9EA3693)
    (c.xor (b.toNat * 2 ^ 56))

/-- CRC-64 of a byte string: initial value 0, no final XOR. -/
def crc64 (bs : List Byte) : Nat := bs.foldl crc64Byte 0

/-- One byte into the reflected CRC-32C (polynomial 0x1EDC6F41). -/
def crc32cByte (c : Nat) (b : Byte) : Nat :=
  (List.range 8).foldl (fun c _ => if c % 2 = 0 then c / 2 else (c / 2).xor 0x82F63B78) (c.xor b.toNat)

/-- CRC-32C of RFC 3720 (R166). -/
def crc32c (bs : List Byte) : Nat := (bs.foldl crc32cByte 0xFFFFFFFF).xor 0xFFFFFFFF

/-- Rotation of a 64-bit lane. -/
def rotl64 (v n : Nat) : Nat := (v * 2 ^ n) % 2 ^ 64 + v / 2 ^ (64 - n)

/-- The rotation offsets of lane x + 5y, and the round constants (FIPS 202). -/
def keccakRot : List Nat :=
  [0, 1, 62, 28, 27, 36, 44, 6, 55, 20, 3, 10, 43, 25, 39, 41, 45, 15, 21, 8, 18, 2, 61, 56, 14]
def keccakRc : List Nat :=
  [0x0000000000000001, 0x0000000000008082, 0x800000000000808A, 0x8000000080008000,
   0x000000000000808B, 0x0000000080000001, 0x8000000080008081, 0x8000000000008009,
   0x000000000000008A, 0x0000000000000088, 0x0000000080008009, 0x000000008000000A,
   0x000000008000808B, 0x800000000000008B, 0x8000000000008089, 0x8000000000008003,
   0x8000000000008002, 0x8000000000000080, 0x000000000000800A, 0x800000008000000A,
   0x8000000080008081, 0x8000000000008080, 0x0000000080000001, 0x8000000080008008]

/-- One round of Keccak-f[1600] on 25 lanes. -/
def keccakRound (a : List Nat) (rc : Nat) : List Nat :=
  let at_ (l : List Nat) (i : Nat) : Nat := l.getD i 0
  let c := (List.range 5).map fun x =>
    ((((at_ a x).xor (at_ a (x + 5))).xor (at_ a (x + 10))).xor (at_ a (x + 15))).xor (at_ a (x + 20))
  let d := (List.range 5).map fun x => (at_ c ((x + 4) % 5)).xor (rotl64 (at_ c ((x + 1) % 5)) 1)
  let t := (List.range 25).map fun i => (at_ a i).xor (at_ d (i % 5))
  -- rho and pi: lane (y, 2x + 3y) takes lane (x, y) rotated; place x' + 5y' reads x = (x' + 3y') mod 5, y = x'
  let b := (List.range 25).map fun j =>
    let x' := j % 5
    let y' := j / 5
    let i := (x' + 3 * y') % 5 + 5 * x'
    rotl64 (at_ t i) (keccakRot.getD i 0)
  let e := (List.range 25).map fun j =>
    let x := j % 5
    let y := j / 5
    (at_ b j).xor (((2 ^ 64 - 1) - at_ b ((x + 1) % 5 + 5 * y)).land (at_ b ((x + 2) % 5 + 5 * y)))
  match e with
  | [] => []
  | h :: t => h.xor rc :: t

/-- Keccak-f[1600]. -/
def keccakF (a : List Nat) : List Nat := keccakRc.foldl keccakRound a

/-- A 72-byte block absorbed. -/
def keccakAbsorb (a : List Nat) (block : List Byte) : List Nat :=
  keccakF ((List.range 25).map fun i => if i < 9 then (a.getD i 0).xor (fieldAt block (8 * i) 8) else a.getD i 0)

/-- The whole blocks of a padded message absorbed. -/
def keccakBlocks : Nat → List Nat → List Byte → List Nat
  | 0, a, _ => a
  | n + 1, a, bs => keccakBlocks n (keccakAbsorb a (bs.take 72)) (bs.drop 72)

/-- SHA3-512. -/
def sha3 (bs : List Byte) : List Byte :=
  let pad := 72 - bs.length % 72
  let tail : List Byte := if pad = 1 then [0x86] else 0x06 :: (List.replicate (pad - 2) 0 ++ [0x80])
  let m := bs ++ tail
  ((keccakBlocks (m.length / 72) (List.replicate 25 0) m).take 8).flatMap (leBytes 8)

/-- The chunks of R280: 2^20 bytes each, one empty chunk of an empty string. -/
def digestChunks (n : Nat) : List Byte → List (List Byte)
  | bs => (List.range n).map fun i => (bs.drop (2 ^ 20 * i)).take (2 ^ 20)

/-- The number of chunks of L bytes (R280). -/
def chunkCount (L : Nat) : Nat := Nat.max 1 ((L + 2 ^ 20 - 1) / 2 ^ 20)

/-- The digest over given leaves and length (R280). -/
def digestRoot (leaves : List Byte) (L : Nat) : List Byte := sha3 (leaves ++ leBytes 8 L)

/-- D of a byte string (R280). -/
def digestOf (bs : List Byte) : List Byte :=
  digestRoot ((digestChunks (chunkCount bs.length) bs).flatMap sha3) bs.length

/-- The result digest of R281 over PROG, WEIGHTS, INPUTS and D(R). -/
def digestBind (lap : Nat) (four : List Byte) : List Byte :=
  sha3 ([0x45, 0x4F, 0x4C, 0x42, 0x49, 0x4E, 0x44, 0x31] ++ leBytes 8 lap ++ four)

end Sys2Proof.Machine
end

