-- ==== Sys2Proof/Machine/Lane.lean ====
section
/-! DEFINITION. The arithmetic of a solver lane (R121 to R134): primitives on encodings, the stages, and one problem as
a function of its descriptor, its warm record and the thresholds. Where Table 05-7 leaves an order open, DEDUCED, log entry 10
says which one this is. -/

namespace Sys2Proof.Machine

/-! ### Primitives (Table 05-7) -/

abbrev Vec := List Nat
abbrev Mat := List Vec

def rAdd (f : Fmt) (a b : Nat) : Nat := (fpAdd f 0 a b).1
def rSub (f : Fmt) (a b : Nat) : Nat := (fpSub f 0 a b).1
def rMul (f : Fmt) (a b : Nat) : Nat := (fpMul f 0 a b).1
def rDiv (f : Fmt) (a b : Nat) : Nat := (fpDiv f 0 a b).1
def rFma (f : Fmt) (a b c : Nat) : Nat := (fpFma f 0 a b c).1
def rSqrt (f : Fmt) (a : Nat) : Nat := (fpSqrt f 0 a).1
/-- The sign turned; a NaN stays the canonical one (R32). -/
def rNeg (f : Fmt) (a : Nat) : Nat := if (decodeFp f a).isNan then f.nan else fpNeg f a
/-- A small integer's encoding. -/
def rInt (f : Fmt) (n : Int) : Nat := (fpOfInt f 0 n).1
/-- 2^-n. -/
def rPow2 (f : Fmt) (n : Nat) : Nat := (encodeFp f 0 (.fin false 1 (-(n : Int)))).1
/-- The larger and the smaller of two values; a NaN operand gives NaN (R130). -/
def rMax (f : Fmt) (a b : Nat) : Nat :=
  if (decodeFp f a).isNan || (decodeFp f b).isNan then f.nan else (fpMinMax f true a b).1
def rMin (f : Fmt) (a b : Nat) : Nat :=
  if (decodeFp f a).isNan || (decodeFp f b).isNan then f.nan else (fpMinMax f false a b).1
def rLt (f : Fmt) (a b : Nat) : Bool := numLt (decodeFp f a) (decodeFp f b)
def rLe (f : Fmt) (a b : Nat) : Bool := rLt f a b || numEq (decodeFp f a) (decodeFp f b)
/-- The magnitude. -/
def rAbs (f : Fmt) (a : Nat) : Nat := a % 2 ^ (f.ebits + f.fbits)

def dot (f : Fmt) (x y : Vec) : Nat :=
  match x.zip y with
  | [] => 0
  | p :: ps => ps.foldl (fun s q => rFma f q.1 q.2 s) (rMul f p.1 p.2)

def vAdd (f : Fmt) (x y : Vec) : Vec := List.zipWith (rAdd f) x y
def vSub (f : Fmt) (x y : Vec) : Vec := List.zipWith (rSub f) x y
def vNeg (f : Fmt) (x : Vec) : Vec := x.map (rNeg f)
def vScale (f : Fmt) (a : Nat) (x : Vec) : Vec := x.map (rMul f a)
/-- The transpose of a matrix of n columns. -/
def matT (n : Nat) (m : Mat) : Mat := (List.range n).map fun j => m.map fun r => r.getD j 0
def matV (f : Fmt) (m : Mat) (x : Vec) : Vec := m.map fun r => dot f r x
/-- A product whose right factor has n columns. -/
def matM (f : Fmt) (n : Nat) (a b : Mat) : Mat := a.map fun r => (matT n b).map (dot f r)
def matAdd (f : Fmt) (a b : Mat) : Mat := List.zipWith (vAdd f) a b
def matSub (f : Fmt) (a b : Mat) : Mat := List.zipWith (vSub f) a b
def matNeg (f : Fmt) (a : Mat) : Mat := a.map (vNeg f)
def zeroVec (n : Nat) : Vec := List.replicate n 0
def zeroMat (r n : Nat) : Mat := List.replicate r (zeroVec n)
def eye (f : Fmt) (n : Nat) : Mat := (List.range n).map fun i => (List.range n).map fun j => if i = j then rInt f 1 else 0

/-- The entries of a vector, by place. -/
def at3 (v : Vec) : Nat × Nat × Nat := (v.getD 0 0, v.getD 1 0, v.getD 2 0)

def cross (f : Fmt) (a b : Vec) : Vec :=
  let (ax, ay, az) := at3 a
  let (bx, by_, bz) := at3 b
  let c (p q r s : Nat) : Nat := rFma f p q (rNeg f (rMul f r s))
  [c ay bz az by_, c az bx ax bz, c ax by_ ay bx]

/-- [v]×. -/
def skew (f : Fmt) (v : Vec) : Mat :=
  let (x, y, z) := at3 v
  [[0, rNeg f z, y], [z, 0, rNeg f x], [rNeg f y, x, 0]]

/-- A quaternion w, x, y, z as the rotation that takes the rotated frame's components to the reference frame's. -/
def quatRot (f : Fmt) (q : Vec) : Mat :=
  let w := q.getD 0 0
  let (x, y, z) := at3 (q.drop 1)
  let n := rNeg f
  let two (v : Nat) : Nat := rMul f (rInt f 2) v
  let diag (a b : Nat) : Nat := rSub f (rInt f 1) (two (dot f [a, b] [a, b]))
  let off (a b c d : Nat) : Nat := two (dot f [a, b] [c, d])
  [[diag y z, off x w y (n z), off x w z y],
   [off x w y z, diag x z, off y w z (n x)],
   [off x w z (n y), off y w z x, diag x y]]

/-- The Hamilton product (R131). -/
def quatMul (f : Fmt) (p q : Vec) : Vec :=
  let w := q.getD 0 0
  let (x, y, z) := at3 (q.drop 1)
  let n := rNeg f
  [dot f p [w, n x, n y, n z], dot f p [x, w, z, n y], dot f p [y, n z, w, x], dot f p [z, y, n x, w]]

/-- The motion transform to a frame turned by e and displaced by r (R122): rotation before translation, in 3 by 3 blocks whose form
Table 05-7 leaves open (DEDUCED, log entry 10). -/
def xform (f : Fmt) (e : Mat) (r : Vec) : Mat :=
  List.zipWith (· ++ ·) e (zeroMat 3 3) ++ List.zipWith (· ++ ·) (matNeg f (matM f 3 e (skew f r))) e

/-- A body's spatial inertia about its frame's origin, in blocks and an order that Table 05-7 leaves open (DEDUCED, log entry 10). -/
def spatialInertia (f : Fmt) (m : Nat) (c inertia : Vec) : Mat :=
  let g (i : Nat) : Nat := inertia.getD i 0
  let ic : Mat := [[g 0, g 3, g 4], [g 3, g 1, g 5], [g 4, g 5, g 2]]
  let mc := skew f (vScale f m c)
  let upper := matAdd f ic (matM f 3 mc (matT 3 (skew f c)))
  List.zipWith (· ++ ·) upper mc ++ List.zipWith (· ++ ·) (matT 3 mc) ((eye f 3).map fun r => r.map fun v => if v = 0 then 0 else m)

/-- crm(v) × m and crf(v) × p; which of two cross products is added to which is left open (DEDUCED, log entry 10). -/
def crm (f : Fmt) (v m : Vec) : Vec :=
  cross f (v.take 3) (m.take 3) ++ vAdd f (cross f (v.drop 3) (m.take 3)) (cross f (v.take 3) (m.drop 3))
def crf (f : Fmt) (v p : Vec) : Vec :=
  vAdd f (cross f (v.take 3) (p.take 3)) (cross f (v.drop 3) (p.drop 3)) ++ cross f (v.take 3) (p.drop 3)

/-! ### Factorisation (R129) -/

/-- D, the strictly lower rows of L (row i has i entries), and the replaced pivots. -/
structure Ldl where
  d    : Vec
  l    : Mat
  pivs : List Nat

def ldlFactor (f : Fmt) (tau : Nat) (m : Mat) (ref : Nat) : Option Ldl :=
  if !rLt f 0 ref || (decodeFp f ref).isInf then none
  else
    let n := m.length
    let el (i j : Nat) : Nat := (m.getD i []).getD j 0
    some (foldRange n (fun (r : Ldl) j =>
      let lj := r.l.getD j []
      let w := List.zipWith (rMul f) lj r.d
      let d := rSub f (el j j) (dot f lj w)
      let least := rMul f tau ref
      let bad := rLe f d 0 || rLt f d least
      let d := if bad then least else d
      { d := r.d ++ [d],
        l := r.l.zipIdx.map fun x =>
          if j < x.2 then x.1 ++ [rDiv f (rSub f (el x.2 j) (dot f x.1 w)) d] else x.1,
        pivs := if bad then r.pivs ++ [j] else r.pivs }) ⟨[], List.replicate n [], []⟩)

def ldlSolve (f : Fmt) (a : Ldl) (b : Vec) : Vec :=
  let n := a.d.length
  let y := foldRange n (fun (y : Vec) i => y ++ [rSub f (b.getD i 0) (dot f (a.l.getD i []) y)]) []
  let y := List.zipWith (rDiv f) y a.d
  foldRange n (fun (x : Vec) k =>
    let i := n - 1 - k
    rSub f (y.getD i 0) (dot f ((a.l.drop (i + 1)).map fun r => r.getD i 0) x) :: x) []

/-! ### The descriptor (Tables 05-2 to 05-6) -/

/-- A problem as a lane sees it. -/
structure Prob where
  op   : Nat
  desc : List Byte
  tau64 : Nat
  tau32 : Nat

namespace Prob

def u (p : Prob) (o n : Nat) : Nat := fieldAt p.desc o n
def nb (p : Prob) : Nat := p.u 0 1
def prec (p : Prob) : Nat := p.u 1 1
def nr (p : Prob) : Nat := p.u 2 2
def iters (p : Prob) : Nat := p.u 4 2
def fmt (p : Prob) : Fmt := if p.prec = 1 then fp32 else fp64
def tau (p : Prob) : Nat := if p.prec = 1 then rPow2 fp32 p.tau32 else rPow2 fp64 p.tau64
/-- A descriptor value in the problem's precision (R124). -/
def real (p : Prob) (o : Nat) : Nat := if p.prec = 1 then (fpCvt fp64 fp32 0 (p.u o 8)).1 else p.u o 8
def reals (p : Prob) (o n : Nat) : Vec := (List.range n).map fun i => p.real (o + 8 * i)
def body (_p : Prob) (i : Nat) : Nat := 64 + 192 * i
def parent (p : Prob) (i : Nat) : Nat := p.u (p.body i) 1
def root (p : Prob) (i : Nat) : Bool := p.parent i == 0xFF
def jtype (p : Prob) (i : Nat) : Nat := p.u (p.body i + 1) 1
/-- Table 05-5. -/
def dof (p : Prob) (i : Nat) : Nat := match p.jtype i with
  | 0 | 1 => 1 | 2 => 3 | 3 => 6 | _ => 0
def qlen (p : Prob) (i : Nat) : Nat := match p.jtype i with
  | 0 | 1 => 1 | 2 => 4 | 3 => 7 | _ => 0
def dofAt (p : Prob) (i : Nat) : Nat := ((List.range i).map p.dof).sum
def qAt (p : Prob) (i : Nat) : Nat := ((List.range i).map p.qlen).sum
def nd (p : Prob) : Nat := p.dofAt p.nb
def nq (p : Prob) : Nat := p.qAt p.nb
def up64 (n : Nat) : Nat := (n + 63) / 64 * 64
def offQ (p : Prob) : Nat := 64 + 192 * p.nb
def offQd (p : Prob) : Nat := p.offQ + up64 (8 * p.nq)
def offU (p : Prob) : Nat := p.offQd + up64 (8 * p.nd)
def offRows (p : Prob) : Nat := p.offU + up64 (8 * p.nd)
def row (p : Prob) (r : Nat) : Nat := p.offRows + 80 * r
def len (p : Prob) : Nat := p.row p.nr
def rowKind (p : Prob) (r : Nat) : Nat := p.u (p.row r) 1
def rowBody (p : Prob) (r : Nat) : Nat := p.u (p.row r + 1) 1
def rowRef (p : Prob) (r : Nat) : Nat := p.u (p.row r + 2) 1
/-- q, qd and u of a body; ARMATURE and DAMPING. -/
def qOf (p : Prob) (i : Nat) : Vec := p.reals (p.offQ + 8 * p.qAt i) (p.qlen i)
def qdOf (p : Prob) (i : Nat) : Vec := p.reals (p.offQd + 8 * p.dofAt i) (p.dof i)
def uOf (p : Prob) (i : Nat) : Vec := p.reals (p.offU + 8 * p.dofAt i) (p.dof i)
def armature (p : Prob) (i : Nat) : Nat := p.real (p.body i + 168)
def damping (p : Prob) (i : Nat) : Nat := p.real (p.body i + 176)

/-- Bytes of the output record (Table 05-11), of the workspace and of the warm record (R123). -/
def outLen (p : Prob) : Nat := match p.op with
  | 0 => 32 + 104 * p.nb
  | 1 | 2 => 32 + 8 * p.nd
  | 3 => 32 + 8 * (p.nd * p.nd + p.nd)
  | _ => 32 + 8 * (p.nq + p.nd + p.nr)
def workBytes (p : Prob) : Nat := (if p.prec = 1 then 4 else 8) * (2 * p.nr * p.nd + p.nr)
def warmLen (p : Prob) : Nat := up64 (16 + 8 * p.nr)

/-- Finite; finite and at least zero; on FP64 encodings. -/
def finite (e : Nat) : Bool := !isNonFinite fp64 e
def nonNeg (e : Nat) : Bool := finite e && !rLt fp64 e 0

/-- R123. -/
def rowOk (p : Prob) (r : Nat) : Bool :=
  let o := p.row r
  let fr := p.rowKind r == 1
  decide (p.rowKind r ≤ 2 ∧ p.rowBody r < p.nb) && zeroAt p.desc (o + 3) 5
    && (if fr then p.rowRef r < r && p.rowKind (p.rowRef r) == 0 else p.rowRef r == 0)
    && (!fr || nonNeg (p.u (o + 56) 8)) && finite (p.u (o + 64) 8) && nonNeg (p.u (o + 72) 8)
def bodyOk (p : Prob) (i : Nat) : Bool :=
  (p.parent i < i || p.root i) && p.jtype i ≤ 4 && zeroAt p.desc (p.body i + 2) 6 && zeroAt p.desc (p.body i + 184) 8
def headerOk (p : Prob) : Bool :=
  decide (1 ≤ p.nb ∧ p.nb ≤ 64 ∧ p.prec ≤ 1 ∧ p.nr ≤ 256 ∧ 1 ≤ p.iters ∧ p.iters ≤ 1024) && (p.op == 4 || p.nr == 0)
    && zeroAt p.desc 6 2 && zeroAt p.desc 48 16 && (p.op != 4 || (finite (p.u 8 8) && rLt fp64 0 (p.u 8 8)))
    && finite (p.u 16 8) && finite (p.u 24 8) && finite (p.u 32 8) && nonNeg (p.u 40 8)
def ok (p : Prob) (probStride outStride workStride warmStride : Nat) (warm : Bool) : Bool :=
  p.headerOk && (List.range p.nb).all p.bodyOk && p.nd ≤ 64 && p.len ≤ probStride && p.outLen ≤ outStride
    && !(p.op == 4 && p.nr != 0 && workStride < up64 p.workBytes) && !(warm && warmStride < p.warmLen)
    && (List.range p.nr).all p.rowOk

end Prob

/-- R134. -/
def Prob.signature (p : Prob) : Nat :=
  crc64 (leBytes 1 p.nb ++ leBytes 1 p.prec ++ leBytes 2 p.nr
    ++ (List.range p.nb).flatMap (fun i => slice p.desc (p.body i) 2)
    ++ (List.range p.nr).flatMap fun r => slice p.desc (p.row r) 3)

/-! ### FK (R126) -/

/-- A body after FK: X, S, the world position and quaternion, v. -/
structure Link where
  x   : Mat
  s   : Mat
  pos : Vec
  rot : Vec
  v   : Vec

def Link.empty : Link := ⟨[], [], [], [], []⟩

/-- The joint's motion: its quaternion, its displacement, S (R122). A revolute joint at zero does not turn (Table
05-19); elsewhere its half-angle functions are free (DEDUCED, log entry 10). -/
def Prob.joint (p : Prob) (i : Nat) : Vec × Vec × Mat :=
  let f := p.fmt
  let q := p.qOf i
  let axis := p.reals (p.body i + 8) 3
  let unit : Vec := [rInt f 1, 0, 0, 0]
  match p.jtype i with
  | 0 =>
    let a := q.getD 0 0
    let quat := if rAbs f a = 0 then unit
      else Config.halfCos (p.prec == 0) a :: vScale f (Config.halfSin (p.prec == 0) a) axis
    (quat, zeroVec 3, (axis ++ zeroVec 3).map ([·]))
  | 1 => (unit, vScale f (q.getD 0 0) axis, (zeroVec 3 ++ axis).map ([·]))
  | 2 => (q, zeroVec 3, eye f 3 ++ zeroMat 3 3)
  | 3 => (q.drop 3, q.take 3, eye f 6)
  | _ => (unit, zeroVec 3, List.replicate 6 [])

/-- FK. T is kept as the world position and quaternion that the record writes (Table 05-11), composed from PLACE and the joint's own by
products of quaternions: R126 gives no form of T or of its inverse (DEDUCED, log entry 10). -/
def Prob.fk (p : Prob) : List Link :=
  let f := p.fmt
  foldRange p.nb (fun (ls : List Link) i =>
    let (jq, jr, s) := p.joint i
    let pt := p.reals (p.body i + 32) 3
    let pq := p.reals (p.body i + 56) 4
    let xt := xform f (matT 3 (quatRot f pq)) pt
    let xj := xform f (matT 3 (quatRot f jq)) jr
    let x := matM f 6 xj xt
    let quat := quatMul f pq jq
    let pos := vAdd f pt (matV f (quatRot f pq) jr)
    let pl := ls.getD (p.parent i) Link.empty
    let vp := if p.root i then zeroVec 6 else pl.v
    let (pos, quat) := if p.root i then (pos, quat)
      else (vAdd f pl.pos (matV f (quatRot f pl.rot) pos), quatMul f pl.rot quat)
    ls ++ [⟨x, s, pos, quat, vAdd f (matV f x vp) (matV f s (p.qdOf i))⟩]) []

/-- X[i]ᵀ, S[i]ᵀ and I[i]. -/
def Link.xt (l : Link) : Mat := matT 6 l.x
def Prob.sT (p : Prob) (l : Link) (i : Nat) : Mat := matT (p.dof i) l.s
def Prob.inertia (p : Prob) (i : Nat) : Mat :=
  let o := p.body i
  spatialInertia p.fmt (p.real (o + 88)) (p.reals (o + 96) 3) (p.reals (o + 120) 6)
/-- −g as the root's acceleration. -/
def Prob.rootAcc (p : Prob) : Vec := zeroVec 3 ++ vNeg p.fmt (p.reals 16 3)

/-! ### RNEA (R126) -/

def Prob.rnea (p : Prob) (ls : List Link) : Vec :=
  let f := p.fmt
  let l (i : Nat) : Link := ls.getD i Link.empty
  let acc := foldRange p.nb (fun (as : List Vec) i =>
    let x := l i
    let ap := matV f x.x (if p.root i then p.rootAcc else as.getD (p.parent i) [])
    as ++ [vAdd f (vAdd f ap (matV f x.s (p.uOf i))) (crm f x.v (matV f x.s (p.qdOf i)))]) []
  let fs := (List.range p.nb).map fun i =>
    let x := l i
    vAdd f (matV f (p.inertia i) (acc.getD i [])) (crf f x.v (matV f (p.inertia i) x.v))
  let r := foldRange p.nb (fun (r : List Vec × List Vec) k =>
    let i := p.nb - 1 - k
    let fi := r.1.getD i []
    let tau := vAdd f (vAdd f (matV f (p.sT (l i) i) fi) (vScale f (p.armature i) (p.uOf i)))
      (vScale f (p.damping i) (p.qdOf i))
    let pi := p.parent i
    (if p.root i then r.1 else r.1.set pi (vAdd f (r.1.getD pi []) (matV f (l i).xt fi)), tau :: r.2)) (fs, [])
  r.2.flatten

/-! ### CRBA (R128) and the reference of R127 -/

/-- Composite inertias, bodies descending. -/
def Prob.composite (p : Prob) (ls : List Link) : List Mat :=
  let f := p.fmt
  foldRange p.nb (fun (ic : List Mat) k =>
    let i := p.nb - 1 - k
    let l := ls.getD i Link.empty
    let pi := p.parent i
    if p.root i then ic
    else ic.set pi (matAdd f (ic.getD pi []) (matM f 6 (matM f 6 l.xt (ic.getD i [])) l.x)))
    ((List.range p.nb).map p.inertia)

/-- The diagonal entries of a square block with a number added. -/
def addDiag (f : Fmt) (a : Nat) (m : Mat) : Mat :=
  m.zipIdx.map fun r => r.1.zipIdx.map fun c => if r.2 = c.2 then rAdd f c.1 a else c.1

/-- M[i, i] and F = IC[i] × S[i]. -/
def Prob.diagBlock (p : Prob) (ls : List Link) (ic : List Mat) (i : Nat) : Mat × Mat :=
  let f := p.fmt
  let l := ls.getD i Link.empty
  let fm := matM f (p.dof i) (ic.getD i []) l.s
  (addDiag f (p.armature i) (matM f (p.dof i) (p.sT l i) fm), fm)

/-- A block written into a matrix. -/
def matSet (m : Mat) (r c : Nat) (b : Mat) : Mat :=
  b.zipIdx.foldl (fun (m : Mat) x =>
    m.set (r + x.2) (x.1.zipIdx.foldl (fun (v : Vec) y => v.set (c + y.2) y.1) (m.getD (r + x.2) []))) m

/-- Up the chain from body j: the blocks M[j, i] and their transposes. -/
def Prob.offBlocks (p : Prob) (ls : List Link) (i : Nat) : Nat → Nat → Mat → Mat → Mat
  | 0, _, _, m => m
  | fuel + 1, j, fm, m =>
    if p.root j then m
    else
      let f := p.fmt
      let fm := matM f (p.dof i) (ls.getD j Link.empty).xt fm
      let k := p.parent j
      let b := matM f (p.dof i) (p.sT (ls.getD k Link.empty) k) fm
      let m := matSet (matSet m (p.dofAt k) (p.dofAt i) b) (p.dofAt i) (p.dofAt k) (matT (p.dof i) b)
      p.offBlocks ls i fuel k fm m

def Prob.crba (p : Prob) (ls : List Link) : Mat :=
  let ic := p.composite ls
  foldRange p.nb (fun (m : Mat) i =>
    let (b, fm) := p.diagBlock ls ic i
    p.offBlocks ls i 64 i fm (matSet m (p.dofAt i) (p.dofAt i) b)) (zeroMat p.nd p.nd)

/-- The largest diagonal entry. -/
def largest (f : Fmt) : Vec → Nat
  | [] => 0
  | x :: xs => xs.foldl (rMax f) x

def matDiag (m : Mat) : Vec := m.zipIdx.map fun r => r.1.getD r.2 0

/-- ref of R127. -/
def Prob.ref (p : Prob) (ls : List Link) : Nat :=
  let ic := p.composite ls
  largest p.fmt ((List.range p.nb).flatMap fun i => matDiag (p.diagBlock ls ic i).1)

/-! ### ABA (R127) -/

/-- What the descending pass keeps for a body: U, u, F. -/
structure AbaBody where
  uu  : Mat
  u   : Vec
  fac : Ldl

/-- The descending pass: IA, pA, the bodies from the last down, the replaced pivots; none once a factorisation ended. -/
structure AbaPass where
  ia : List Mat
  pa : List Vec
  bs : List AbaBody
  pivs : List Nat

def Prob.abaDown (p : Prob) (ls : List Link) (ref : Nat) (c : List Vec) (r : AbaPass) (i : Nat) : Option AbaPass :=
  let f := p.fmt
  let l := ls.getD i Link.empty
  let d := p.dof i
  let ia := r.ia.getD i []
  let pa := r.pa.getD i []
  let pi := p.parent i
  let join (ia' : Mat) (pa' : Vec) (b : AbaBody) (pivs : List Nat) : AbaPass :=
    if p.root i then { r with bs := b :: r.bs, pivs := pivs }
    else { ia := r.ia.set pi (matAdd f (r.ia.getD pi []) (matM f 6 (matM f 6 l.xt ia') l.x)),
           pa := r.pa.set pi (vAdd f (r.pa.getD pi []) (matV f l.xt pa')), bs := b :: r.bs, pivs := pivs }
  if d = 0 then some (join ia pa ⟨List.replicate 6 [], [], ⟨[], [], []⟩⟩ r.pivs)
  else
    let uu := matM f d ia l.s
    let dd := addDiag f (p.armature i) (matM f d (p.sT l i) uu)
    let u := vSub f (vSub f (p.uOf i) (vScale f (p.damping i) (p.qdOf i))) (matV f (p.sT l i) pa)
    match ldlFactor f p.tau dd ref with
    | none => none
    | some fac =>
      -- ldl_solve(F, Uᵀ): one solve for each of the six columns
      let cols := uu.map (ldlSolve f fac)
      let ia' := matSub f ia (uu.map fun r => cols.map (dot f r))
      let pa' := vAdd f (vAdd f pa (matV f ia' (c.getD i []))) (matV f uu (ldlSolve f fac u))
      some (join ia' pa' ⟨uu, u, fac⟩ (r.pivs ++ fac.pivs.map (p.dofAt i + ·)))

/-- qdd and the replaced pivots. -/
def Prob.aba (p : Prob) (ls : List Link) : Option (Vec × List Nat) :=
  let f := p.fmt
  let ref := p.ref ls
  let l (i : Nat) : Link := ls.getD i Link.empty
  let c := (List.range p.nb).map fun i => crm f (l i).v (matV f (l i).s (p.qdOf i))
  let ia := (List.range p.nb).map p.inertia
  let pa := (List.range p.nb).map fun i => crf f (l i).v (matV f (p.inertia i) (l i).v)
  let down := foldRange p.nb (fun (r : Option AbaPass) k => r.bind fun r => p.abaDown ls ref c r (p.nb - 1 - k))
    (some ⟨ia, pa, [], []⟩)
  down.map fun r =>
    let up := foldRange p.nb (fun (s : List Vec × List Vec) i =>
      let b := r.bs.getD i ⟨[], [], ⟨[], [], []⟩⟩
      let ap := vAdd f (matV f (l i).x (if p.root i then p.rootAcc else s.1.getD (p.parent i) [])) (c.getD i [])
      let qdd := ldlSolve f b.fac (vSub f b.u (matV f (matT (p.dof i) b.uu) ap))
      (s.1 ++ [vAdd f ap (matV f (l i).s qdd)], s.2 ++ [qdd])) ([], [])
    (up.2.flatten, r.pivs)

/-! ### Contacts (R130) -/

/-- The columns of body b's velocity per unit qd: (DoF, 6-vector in b's frame), for b and its ancestors. -/
def Prob.columns (p : Prob) (ls : List Link) : Nat → Nat → List (Nat × Vec)
  | 0, _ => []
  | fuel + 1, b =>
    let l := ls.getD b Link.empty
    let own := (p.sT l b).zipIdx.map fun c => (p.dofAt b + c.2, c.1)
    if p.root b then own
    else (p.columns ls fuel (p.parent b)).map (fun c => (c.1, matV p.fmt l.x c.2)) ++ own

def Prob.jacobian (p : Prob) (ls : List Link) (r : Nat) : Vec :=
  let f := p.fmt
  let b := p.rowBody r
  let cols := p.columns ls 64 b
  let rot := quatRot f (ls.getD b Link.empty).rot
  let pt := p.reals (p.row r + 8) 3
  let dir := p.reals (p.row r + 32) 3
  (List.range p.nd).map fun k =>
    match assocGet k cols with
    | some c => dot f dir (matV f rot (vAdd f (c.drop 3) (cross f (c.take 3) pt)))
    | none => 0

/-- One contact row. -/
structure CRow where
  j : Vec
  y : Vec
  w : Nat
  inert : Bool
  kind : Nat
  ref_ : Nat
  mu : Nat
  target : Nat
  cfm : Nat

/-- One sweep: v, λ, dmax; its lines name no fma, so products round apart (R124, R130). -/
def sweep (f : Fmt) (rows : List CRow) (s : Vec × Vec × Nat) : Vec × Vec × Nat :=
  rows.zipIdx.foldl (fun (s : Vec × Vec × Nat) e =>
    let r := e.1
    let (v, lam, dmax) := s
    if r.inert then s
    else
      let l := lam.getD e.2 0
      let x := rSub f l (rDiv f (rAdd f (rSub f (dot f r.j v) r.target) (rMul f r.cfm l)) r.w)
      let x := if r.kind = 0 then rMax f x 0
        else if r.kind = 1 then
          let b := rMul f r.mu (lam.getD r.ref_ 0)
          rMin f (rMax f x (rNeg f b)) b
        else x
      let dd := rSub f x l
      (List.zipWith (fun y v => rAdd f v (rMul f y dd)) r.y v, lam.set e.2 x, rMax f dmax (rAbs f dd)))
    (s.1, s.2.1, 0)

/-- Sweeps until PGS_ITERS or the tolerance: v, λ, dmax, the sweeps run, whether the tolerance stopped them. -/
def sweeps (f : Fmt) (tol : Nat) (rows : List CRow) : Nat → Nat → Vec × Vec × Nat → (Vec × Vec × Nat) × Nat × Bool
  | 0, k, s => (s, k, false)
  | n + 1, k, s =>
    let s := sweep f rows s
    -- a tolerance of 0 runs every sweep (Table 05-3)
    if rAbs f tol != 0 && rLe f s.2.2 tol then (s, k + 1, true) else sweeps f tol rows n (k + 1) s

/-! ### Integration (R131), in FP64 -/

def normalise (q : Vec) : Vec := q.map fun x => rDiv fp64 x (rSqrt fp64 (dot fp64 q q))

def Prob.integrate (p : Prob) (qd : Vec) : Vec :=
  let f := fp64
  let dt := if p.prec = 1 then (fpCvt fp32 fp64 0 (p.real 8)).1 else p.u 8 8
  let turn (quat om : Vec) : Vec :=
    normalise (vAdd f quat (vScale f (rDiv f dt (rInt f 2)) (quatMul f quat (0 :: om))))
  (List.range p.nb).flatMap fun i =>
    let q := (List.range (p.qlen i)).map fun k => p.u (p.offQ + 8 * (p.qAt i + k)) 8
    let d := (qd.drop (p.dofAt i)).take (p.dof i)
    match p.jtype i with
    | 0 | 1 => [rFma f dt (d.getD 0 0) (q.getD 0 0)]
    | 2 => turn q d
    | 3 => vAdd f (q.take 3) (vScale f dt (matV f (quatRot f (q.drop 3)) (d.drop 3))) ++ turn (q.drop 3) (d.take 3)
    | _ => []

/-! ### One problem (R125, R133, R136 to R138) -/

/-- The outcome of a problem's arithmetic: its arrays in output order with their NF_ARRAY codes as FP64 encodings, whether
a factorisation ended, the replaced pivots in the order of R129, and the contact figures. -/
structure Solved where
  arrays : List (Nat × Vec)
  failed : Bool := false
  pivs   : List Nat := []
  sweeps : Nat := 0
  conv   : Bool := false
  inert  : Nat := 0
  resid  : Nat := 0

/-- Results widened to FP64 (Table 05-8). -/
def Prob.widen (p : Prob) (v : Vec) : Vec := if p.prec = 1 then v.map fun x => (fpCvt fp32 fp64 0 x).1 else v

/-- The raw FP64 encodings of q and qd. -/
def Prob.rawQ (p : Prob) : Vec := (List.range p.nq).map fun k => p.u (p.offQ + 8 * k) 8
def Prob.rawQd (p : Prob) : Vec := (List.range p.nd).map fun k => p.u (p.offQd + 8 * k) 8

/-- R129: replaced DoFs of one stage, ascending. -/
def sortNat (xs : List Nat) : List Nat := setUnion xs []

/-- The contact stages and integration of STEP; warm: the initial λ as FP64 encodings. -/
def Prob.stepRun (p : Prob) (ls : List Link) (warm : Option Vec) : Solved :=
  let f := p.fmt
  let zeros : List (Nat × Vec) := [(7, zeroVec p.nq), (8, zeroVec p.nd), (9, zeroVec p.nr)]
  match p.aba ls with
  | none => { arrays := zeros, failed := true }
  | some (qdd, pv) =>
    let dt := p.real 8
    let qd := (List.range p.nb).flatMap p.qdOf
    let v0 := List.zipWith (fun a b => rFma f dt a b) qdd qd
    if p.nr = 0 then
      let qp := p.integrate (p.widen v0)
      { arrays := [(7, qp), (8, p.widen v0), (9, [])], pivs := sortNat pv }
    else
      let m := if p.nd = 0 then [] else p.crba ls
      let fac := if p.nd = 0 then some ⟨[], [], []⟩ else ldlFactor f p.tau m (largest f (matDiag m))
      match fac with
      | none => { arrays := zeros, failed := true, pivs := sortNat pv }
      | some fac =>
        let rows := (List.range p.nr).map fun r =>
          let j := p.jacobian ls r
          let y := ldlSolve f fac j
          let cfm := p.real (p.row r + 72)
          let w := rAdd f (dot f j y) cfm
          let mk : CRow := ⟨j, y, w, !rLt f 0 w || (decodeFp f w).isInf, p.rowKind r, p.rowRef r, p.real (p.row r + 56),
            p.real (p.row r + 64), cfm⟩
          mk
        let w0 : Vec := match warm with
          | some v => if p.prec = 1 then v.map fun x => (fpCvt fp64 fp32 0 x).1 else v
          | none => zeroVec p.nr
        let lam := rows.zipIdx.map fun r => if r.1.inert then 0 else w0.getD r.2 0
        let v := rows.zipIdx.foldl (fun (v : Vec) r =>
          List.zipWith (fun y x => rFma f y (lam.getD r.2 0) x) r.1.y v) v0
        let ((v, lam, dmax), n, conv) := sweeps f (p.real 40) rows p.iters 0 (v, lam, 0)
        let qd := p.widen v
        { arrays := [(7, p.integrate qd), (8, qd), (9, p.widen lam)], pivs := sortNat pv ++ sortNat fac.pivs, sweeps := n,
          conv := conv, inert := (rows.filter (·.inert)).length, resid := (p.widen [dmax]).getD 0 0 }

/-- The lower triangle row by row, with or without the diagonal. -/
def lower (m : Mat) (diag : Bool) : Vec := m.zipIdx.flatMap fun r => r.1.take (r.2 + b2n diag)

/-- MASS: with a factorisation that ended, D and L have no stated values: free ones, which the problem alone decides (R118, DESIGN CHOICE,
log entry 9). -/
def Prob.massRun (p : Prob) (ls : List Link) : Solved :=
  if p.nd = 0 then { arrays := [(4, []), (5, []), (6, [])] }
  else
    let m := p.crba ls
    match ldlFactor p.fmt p.tau m (largest p.fmt (matDiag m)) with
    | some fac =>
      { arrays := [(4, p.widen (lower m true)), (5, p.widen fac.d), (6, p.widen fac.l.flatten)], pivs := fac.pivs }
    | none =>
      let k := p.nd + p.nd * (p.nd - 1) / 2
      let fr := (List.range k).map fun i => (Config.endedFactor p.desc p.tau64 p.tau32 i).toNat
      { arrays := [(4, p.widen (lower m true)), (5, fr.take p.nd), (6, fr.drop p.nd)], failed := true }

/-- The problem's outcome from its bytes, thresholds and warm record (R118). -/
def Prob.solve (p : Prob) (warm : Option Vec) : Solved :=
  let ls := p.fk
  match p.op with
  | 0 => { arrays := [(1, p.widen (ls.flatMap fun l => l.pos ++ l.rot ++ l.v))] }
  | 1 => { arrays := [(2, p.widen (p.rnea ls))] }
  | 2 =>
    match p.aba ls with
    | some (qdd, pv) => { arrays := [(3, p.widen qdd)], pivs := sortNat pv }
    | none => { arrays := [(3, zeroVec p.nd)], failed := true }
  | 3 => p.massRun ls
  | _ => p.stepRun ls warm

/-- The first non-finite element of some arrays. -/
def firstBad (arrays : List (Nat × Vec)) : Option (Nat × Nat) :=
  arrays.findSome? fun a => (firstIdx (isNonFinite fp64) a.2).map fun i => (a.1, i)

/-- NF_ARRAY and NF_INDEX (R133). Where a factorisation has ended, only the first array has stated values: an element of it, or else the
first of what the factorisation was to give (DESIGN CHOICE, log entry 10). -/
def Solved.nonFinite (r : Solved) : Option (Nat × Nat) :=
  if r.failed then
    let first := (r.arrays.head?.map (·.1)).getD 0
    some ((firstBad (r.arrays.take 1)).getD (if first = 4 then 5 else first, 0))
  else firstBad r.arrays

/-- The arrays as written (R133). -/
def Prob.written (p : Prob) (r : Solved) : List (Nat × Vec) :=
  if r.nonFinite.isNone || p.op = 0 || p.op = 3 then r.arrays
  else if p.op = 4 then [(7, p.rawQ), (8, p.rawQd), (9, zeroVec p.nr)]
  else r.arrays.map fun a => (a.1, zeroVec a.2.length)

/-- Table 05-13: the lane's cycles without stalls. -/
def Prob.readCycles (p : Prob) : Nat := 64 + 24 * p.nb + 8 * p.nq + 10 * p.nr
def Prob.cycles (p : Prob) (r : Solved) : Nat :=
  let h (n : Nat) : Nat := if p.prec = 1 then (n + 1) / 2 else n
  let nd := p.nd
  let fact := h (600 * p.nb) + h ((nd ^ 3 + 5) / 6 + 8 * nd)
  let stage := match p.op with
    | 0 => 0
    | 1 => h (700 * p.nb)
    | 2 => h (1000 * p.nb)
    | 3 => fact
    | _ =>
      h (1000 * p.nb) + (if p.nr = 0 || r.failed then 0
        else (if nd = 0 then 0 else fact) + h (p.nr * ((nd * nd + 1) / 2 + 64)) + h (r.sweeps * p.nr * (nd + 16)))
  let write := if p.op = 4 then 40 * p.nq + 8 * p.nr + 426 else 64 + (p.outLen - 32) / 8
  p.readCycles + (32 + 4 * (p.nb + p.nr)) + h (160 * p.nb) + stage + write

end Sys2Proof.Machine
end

