-- ==== Sys2Proof/Machine/Regs.lean ====
section
/-! DEFINITION. The registers of the package: the offset in the register space (Table 14-3 plus each block's own
offset), the reset word and the fields of every register, as the register tables of the chapters give them. A reset word
that a table leaves to straps, fuses or configuration memory is zero here: State.reset says what holds (DESIGN CHOICE, log entry 6). -/

namespace Sys2Proof.Machine

/-- R9: the access types of a field; no register has a W1S field. -/
inductive Acc where
  | ro | rw | rws | w1c | wo | rc
  deriving DecidableEq, Repr

/-- A named field: its register's offset and its bits [hi:lo] (R6). -/
structure Fld where
  off : Nat
  hi : Nat
  lo : Nat
  deriving DecidableEq, Repr

/-- A field of a register's description: bits, access type, and whether a package reset keeps it. -/
structure FieldDesc where
  hi : Nat
  lo : Nat
  acc : Acc
  kept : Bool
  deriving DecidableEq, Repr

/-- A register's description. -/
structure RegDesc where
  off : Nat
  reset : Word64
  fields : List FieldDesc
  deriving DecidableEq, Repr

/-- Table 01-9. -/
abbrev R.MGT_RESERVE_STATUS : Nat := 0x0100040
abbrev F.MGT_RESERVE_STATUS.MAP_VALID : Fld := ⟨0x0100040, 63, 63⟩
abbrev F.MGT_RESERVE_STATUS.ENG_COLS_USED : Fld := ⟨0x0100040, 62, 52⟩
abbrev F.MGT_RESERVE_STATUS.CORES_USED : Fld := ⟨0x0100040, 51, 46⟩
abbrev F.MGT_RESERVE_STATUS.CLUSTERS_USED : Fld := ⟨0x0100040, 45, 44⟩
abbrev F.MGT_RESERVE_STATUS.DSU_LANES_USED : Fld := ⟨0x0100040, 43, 36⟩
abbrev F.MGT_RESERVE_STATUS.PORT_LANES_USED : Fld := ⟨0x0100040, 35, 30⟩
abbrev F.MGT_RESERVE_STATUS.STACK_DIES_USED : Fld := ⟨0x0100040, 29, 25⟩
abbrev F.MGT_RESERVE_STATUS.FIELD_MAP_PRESENT : Fld := ⟨0x0100040, 8, 8⟩
abbrev F.MGT_RESERVE_STATUS.FIELD_REFUSED : Fld := ⟨0x0100040, 7, 0⟩
/-- Table 01-10. -/
abbrev R.MGT_RESERVE_SEL : Nat := 0x0100048
abbrev F.MGT_RESERVE_SEL.KIND : Fld := ⟨0x0100048, 15, 12⟩
abbrev F.MGT_RESERVE_SEL.INDEX : Fld := ⟨0x0100048, 11, 0⟩
/-- Table 01-11. -/
abbrev R.MGT_RESERVE_INFO : Nat := 0x0100050
abbrev F.MGT_RESERVE_INFO.SPARED : Fld := ⟨0x0100050, 31, 31⟩
abbrev F.MGT_RESERVE_INFO.FROM_FIELD : Fld := ⟨0x0100050, 30, 30⟩
abbrev F.MGT_RESERVE_INFO.PHYS : Fld := ⟨0x0100050, 15, 0⟩
/-- Table 02-11. -/
abbrev R.CMP_NUM_SUMMARY : Nat := 0x0500300
abbrev F.CMP_NUM_SUMMARY.NF_TILES : Fld := ⟨0x0500300, 63, 48⟩
abbrev F.CMP_NUM_SUMMARY.CLAMPED : Fld := ⟨0x0500300, 47, 32⟩
abbrev F.CMP_NUM_SUMMARY.BLOCK_NAN : Fld := ⟨0x0500300, 31, 16⟩
abbrev F.CMP_NUM_SUMMARY.NF_TILE : Fld := ⟨0x0500300, 6, 6⟩
abbrev F.CMP_NUM_SUMMARY.ACC_NAN : Fld := ⟨0x0500300, 5, 5⟩
abbrev F.CMP_NUM_SUMMARY.ACC_INF : Fld := ⟨0x0500300, 4, 4⟩
abbrev F.CMP_NUM_SUMMARY.ACC_TERMS : Fld := ⟨0x0500300, 3, 3⟩
abbrev F.CMP_NUM_SUMMARY.SCALE_NAN_READ : Fld := ⟨0x0500300, 2, 2⟩
abbrev F.CMP_NUM_SUMMARY.CONV_CLAMP : Fld := ⟨0x0500300, 1, 1⟩
abbrev F.CMP_NUM_SUMMARY.CONV_BLOCK_NAN : Fld := ⟨0x0500300, 0, 0⟩
/-- Table 02-12. -/
abbrev R.CMP_NUM_FIRST : Nat := 0x0500308
abbrev F.CMP_NUM_FIRST.TICK : Fld := ⟨0x0500308, 63, 32⟩
abbrev F.CMP_NUM_FIRST.ENGINE : Fld := ⟨0x0500308, 31, 22⟩
abbrev F.CMP_NUM_FIRST.VALID : Fld := ⟨0x0500308, 21, 21⟩
abbrev F.CMP_NUM_FIRST.KIND : Fld := ⟨0x0500308, 20, 19⟩
abbrev F.CMP_NUM_FIRST.ROW : Fld := ⟨0x0500308, 15, 8⟩
abbrev F.CMP_NUM_FIRST.COL : Fld := ⟨0x0500308, 7, 0⟩
/-- Table 03-18. -/
abbrev R.PX_CORE_SEL : Nat := 0x0A00000
abbrev F.PX_CORE_SEL.CORE : Fld := ⟨0x0A00000, 5, 0⟩
/-- Table 03-19. -/
abbrev R.PX_CORE_STATE : Nat := 0x0A00008
abbrev F.PX_CORE_STATE.STATE : Fld := ⟨0x0A00008, 63, 61⟩
abbrev F.PX_CORE_STATE.OUTSTANDING : Fld := ⟨0x0A00008, 52, 48⟩
abbrev F.PX_CORE_STATE.PC : Fld := ⟨0x0A00008, 47, 0⟩
/-- Table 03-20. -/
abbrev R.PX_CORE_STATS : Nat := 0x0A00010
abbrev F.PX_CORE_STATS.RETIRED : Fld := ⟨0x0A00010, 63, 32⟩
abbrev F.PX_CORE_STATS.STALL_CYCLES : Fld := ⟨0x0A00010, 31, 0⟩
/-- Table 03-12. -/
abbrev R.CMP_CTX_SEL : Nat := 0x0500400
abbrev F.CMP_CTX_SEL.CORE : Fld := ⟨0x0500400, 14, 7⟩
abbrev F.CMP_CTX_SEL.CTX : Fld := ⟨0x0500400, 6, 0⟩
/-- Table 03-13. -/
abbrev R.CMP_CTX_INFO : Nat := 0x0500408
abbrev F.CMP_CTX_INFO.STATE : Fld := ⟨0x0500408, 63, 61⟩
abbrev F.CMP_CTX_INFO.WAIT_KIND : Fld := ⟨0x0500408, 60, 56⟩
abbrev F.CMP_CTX_INFO.OUTSTANDING : Fld := ⟨0x0500408, 52, 48⟩
abbrev F.CMP_CTX_INFO.PC : Fld := ⟨0x0500408, 47, 0⟩
/-- Table 03-14. -/
abbrev R.CMP_CTX_THREAD : Nat := 0x0500410
abbrev F.CMP_CTX_THREAD.VALID : Fld := ⟨0x0500410, 32, 32⟩
abbrev F.CMP_CTX_THREAD.THREAD : Fld := ⟨0x0500410, 31, 0⟩
/-- Table 03-15. -/
abbrev R.CMP_CORE_STATS : Nat := 0x0500418
abbrev F.CMP_CORE_STATS.BANK_CONFLICTS : Fld := ⟨0x0500418, 63, 48⟩
abbrev F.CMP_CORE_STATS.QUOTA_WAITS : Fld := ⟨0x0500418, 47, 32⟩
abbrev F.CMP_CORE_STATS.IDLE_CYCLES : Fld := ⟨0x0500418, 31, 0⟩
/-- Table 04-15. -/
abbrev R.CMP_ENG_SEL : Nat := 0x0500500
abbrev F.CMP_ENG_SEL.ENGINE : Fld := ⟨0x0500500, 9, 0⟩
/-- Table 04-16. -/
abbrev R.CMP_ENG_STATE : Nat := 0x0500508
abbrev F.CMP_ENG_STATE.ARRAY_BUSY : Fld := ⟨0x0500508, 63, 63⟩
abbrev F.CMP_ENG_STATE.XFER_BUSY : Fld := ⟨0x0500508, 62, 62⟩
abbrev F.CMP_ENG_STATE.QUEUED : Fld := ⟨0x0500508, 61, 57⟩
abbrev F.CMP_ENG_STATE.SLOT1_INIT : Fld := ⟨0x0500508, 56, 56⟩
abbrev F.CMP_ENG_STATE.SLOT1_KIND : Fld := ⟨0x0500508, 55, 55⟩
abbrev F.CMP_ENG_STATE.SLOT1_ACCM : Fld := ⟨0x0500508, 54, 54⟩
abbrev F.CMP_ENG_STATE.SLOT0_INIT : Fld := ⟨0x0500508, 53, 53⟩
abbrev F.CMP_ENG_STATE.SLOT0_KIND : Fld := ⟨0x0500508, 52, 52⟩
abbrev F.CMP_ENG_STATE.SLOT0_ACCM : Fld := ⟨0x0500508, 51, 51⟩
/-- Table 04-17. -/
abbrev R.CMP_ENG_STATS : Nat := 0x0500510
abbrev F.CMP_ENG_STATS.ARRAY_CYCLES : Fld := ⟨0x0500510, 63, 32⟩
abbrev F.CMP_ENG_STATS.STALL_CYCLES : Fld := ⟨0x0500510, 31, 16⟩
abbrev F.CMP_ENG_STATS.REFUSED : Fld := ⟨0x0500510, 15, 0⟩
/-- Table 04-18. -/
abbrev R.CMP_ENG_REC0 : Nat := 0x0500518
abbrev F.CMP_ENG_REC0.WORD : Fld := ⟨0x0500518, 63, 0⟩
/-- Table 04-18. -/
abbrev R.CMP_ENG_REC1 : Nat := 0x0500520
abbrev F.CMP_ENG_REC1.WORD : Fld := ⟨0x0500520, 63, 0⟩
/-- Table 05-15. -/
abbrev R.DSU_PIVOT_TAU : Nat := 0x0600000
abbrev F.DSU_PIVOT_TAU.TAU64 : Fld := ⟨0x0600000, 15, 8⟩
abbrev F.DSU_PIVOT_TAU.TAU32 : Fld := ⟨0x0600000, 7, 0⟩
/-- Table 05-16. -/
abbrev R.DSU_SEL : Nat := 0x0600008
abbrev F.DSU_SEL.UNIT : Fld := ⟨0x0600008, 4, 0⟩
/-- Table 05-17. -/
abbrev R.DSU_STATE : Nat := 0x0600010
abbrev F.DSU_STATE.LANES_BUSY : Fld := ⟨0x0600010, 63, 57⟩
abbrev F.DSU_STATE.HEATS_QUEUED : Fld := ⟨0x0600010, 56, 53⟩
abbrev F.DSU_STATE.HEAD_COUNT : Fld := ⟨0x0600010, 52, 46⟩
abbrev F.DSU_STATE.HEAD_OP : Fld := ⟨0x0600010, 45, 43⟩
abbrev F.DSU_STATE.LANE_LIMIT : Fld := ⟨0x0600010, 42, 36⟩
/-- Table 05-18. -/
abbrev R.DSU_STATS : Nat := 0x0600018
abbrev F.DSU_STATS.HEATS_DONE : Fld := ⟨0x0600018, 63, 48⟩
abbrev F.DSU_STATS.NONFINITE : Fld := ⟨0x0600018, 47, 32⟩
abbrev F.DSU_STATS.PIVOTED : Fld := ⟨0x0600018, 31, 24⟩
abbrev F.DSU_STATS.WARM_REJECTED : Fld := ⟨0x0600018, 23, 16⟩
abbrev F.DSU_STATS.REFUSED : Fld := ⟨0x0600018, 15, 8⟩
abbrev F.DSU_STATS.DISCARDED : Fld := ⟨0x0600018, 7, 4⟩
abbrev F.DSU_STATS.ABORTED_HEATS : Fld := ⟨0x0600018, 3, 0⟩
/-- Table 06-8. -/
abbrev R.PUU_NORM_LIMIT : Nat := 0x0700000
abbrev F.PUU_NORM_LIMIT.LIMIT : Fld := ⟨0x0700000, 63, 0⟩
/-- Table 06-9. -/
abbrev R.PUU_SEL : Nat := 0x0700008
abbrev F.PUU_SEL.UNIT : Fld := ⟨0x0700008, 3, 0⟩
/-- Table 06-10. -/
abbrev R.PUU_PARK_BASE : Nat := 0x0700010
abbrev F.PUU_PARK_BASE.BASE : Fld := ⟨0x0700010, 36, 16⟩
/-- Table 06-11. -/
abbrev R.PUU_PARK_SLOTS : Nat := 0x0700018
abbrev F.PUU_PARK_SLOTS.SLOTS : Fld := ⟨0x0700018, 12, 0⟩
/-- Table 06-12. -/
abbrev R.PUU_COMMIT : Nat := 0x0700020
abbrev F.PUU_COMMIT.GO : Fld := ⟨0x0700020, 0, 0⟩
/-- Table 06-13. -/
abbrev R.PUU_STATE : Nat := 0x0700028
abbrev F.PUU_STATE.BUSY : Fld := ⟨0x0700028, 63, 63⟩
abbrev F.PUU_STATE.QUEUED : Fld := ⟨0x0700028, 62, 60⟩
abbrev F.PUU_STATE.RUN_OP : Fld := ⟨0x0700028, 59, 57⟩
abbrev F.PUU_STATE.JOURNAL_VALID : Fld := ⟨0x0700028, 56, 56⟩
abbrev F.PUU_STATE.COMMIT_ST : Fld := ⟨0x0700028, 55, 54⟩
abbrev F.PUU_STATE.RING_USED : Fld := ⟨0x0700028, 53, 42⟩
/-- Table 06-14. -/
abbrev R.PUU_STATS : Nat := 0x0700030
abbrev F.PUU_STATS.CMDS_DONE : Fld := ⟨0x0700030, 63, 48⟩
abbrev F.PUU_STATS.SKIPPED_STEPS : Fld := ⟨0x0700030, 47, 40⟩
abbrev F.PUU_STATS.BLOCKS_ROLLED : Fld := ⟨0x0700030, 39, 32⟩
abbrev F.PUU_STATS.BLOCKS_REFUSED : Fld := ⟨0x0700030, 31, 24⟩
abbrev F.PUU_STATS.NF_PARAMS : Fld := ⟨0x0700030, 23, 16⟩
abbrev F.PUU_STATS.PARK_FULL_WAITS : Fld := ⟨0x0700030, 15, 8⟩
abbrev F.PUU_STATS.DISCARDED : Fld := ⟨0x0700030, 7, 4⟩
abbrev F.PUU_STATS.ABORTED : Fld := ⟨0x0700030, 3, 0⟩
/-- Table 07-9. -/
abbrev R.MEM_THERM : Nat := 0x0800000
abbrev F.MEM_THERM.CRIT : Fld := ⟨0x0800000, 23, 16⟩
abbrev F.MEM_THERM.HOT : Fld := ⟨0x0800000, 15, 8⟩
/-- Table 07-10. -/
abbrev R.MEM_COMMIT : Nat := 0x0800008
abbrev F.MEM_COMMIT.REFUSED : Fld := ⟨0x0800008, 1, 1⟩
abbrev F.MEM_COMMIT.GO : Fld := ⟨0x0800008, 0, 0⟩
/-- Table 07-11. -/
abbrev R.MEM_ROW_CE_LIMIT : Nat := 0x0800010
abbrev F.MEM_ROW_CE_LIMIT.LIMIT : Fld := ⟨0x0800010, 7, 0⟩
/-- Table 07-12. -/
abbrev R.MEM_SEL : Nat := 0x0800018
abbrev F.MEM_SEL.STACK : Fld := ⟨0x0800018, 3, 0⟩
/-- Table 07-13. -/
abbrev R.MEM_STATE : Nat := 0x0800020
abbrev F.MEM_STATE.THERM : Fld := ⟨0x0800020, 63, 62⟩
abbrev F.MEM_STATE.REFRESH : Fld := ⟨0x0800020, 61, 60⟩
abbrev F.MEM_STATE.SPARE_DIE : Fld := ⟨0x0800020, 59, 59⟩
abbrev F.MEM_STATE.TEMP : Fld := ⟨0x0800020, 58, 49⟩
abbrev F.MEM_STATE.UTIL : Fld := ⟨0x0800020, 48, 41⟩
abbrev F.MEM_STATE.SPARE_ROWS_USED : Fld := ⟨0x0800020, 40, 29⟩
abbrev F.MEM_STATE.SPARE_EXHAUSTED : Fld := ⟨0x0800020, 28, 28⟩
abbrev F.MEM_STATE.RETRAINING : Fld := ⟨0x0800020, 27, 27⟩
/-- Table 07-14. -/
abbrev R.MEM_RD_LINES : Nat := 0x0800028
abbrev F.MEM_RD_LINES.LINES : Fld := ⟨0x0800028, 63, 0⟩
/-- Table 07-14. -/
abbrev R.MEM_WR_LINES : Nat := 0x0800030
abbrev F.MEM_WR_LINES.LINES : Fld := ⟨0x0800030, 63, 0⟩
/-- Table 07-15. -/
abbrev R.MEM_ERR_STATS : Nat := 0x0800038
abbrev F.MEM_ERR_STATS.CRC_RESENDS : Fld := ⟨0x0800038, 63, 48⟩
abbrev F.MEM_ERR_STATS.CORRECTED : Fld := ⟨0x0800038, 47, 32⟩
abbrev F.MEM_ERR_STATS.UNCORRECTED : Fld := ⟨0x0800038, 31, 16⟩
abbrev F.MEM_ERR_STATS.RETRAINS : Fld := ⟨0x0800038, 15, 8⟩
abbrev F.MEM_ERR_STATS.ROWS_SPARED : Fld := ⟨0x0800038, 7, 0⟩
/-- Table 07-16. -/
abbrev R.MEM_ROW_LOG : Nat := 0x0800040
abbrev F.MEM_ROW_LOG.VALID : Fld := ⟨0x0800040, 63, 63⟩
abbrev F.MEM_ROW_LOG.DIE : Fld := ⟨0x0800040, 62, 59⟩
abbrev F.MEM_ROW_LOG.CHANNEL : Fld := ⟨0x0800040, 58, 54⟩
abbrev F.MEM_ROW_LOG.BANK : Fld := ⟨0x0800040, 53, 48⟩
abbrev F.MEM_ROW_LOG.ROW : Fld := ⟨0x0800040, 47, 30⟩
/-- Table 07-17. -/
abbrev R.TIER_SEL : Nat := 0x0900000
abbrev F.TIER_SEL.UNIT : Fld := ⟨0x0900000, 3, 0⟩
/-- Table 07-18. -/
abbrev R.TIER_INFO : Nat := 0x0900008
abbrev F.TIER_INFO.PRESENT : Fld := ⟨0x0900008, 63, 63⟩
abbrev F.TIER_INFO.INIT_DONE : Fld := ⟨0x0900008, 62, 62⟩
abbrev F.TIER_INFO.TYPE : Fld := ⟨0x0900008, 61, 60⟩
abbrev F.TIER_INFO.RATE : Fld := ⟨0x0900008, 55, 40⟩
abbrev F.TIER_INFO.WIDTH : Fld := ⟨0x0900008, 39, 35⟩
abbrev F.TIER_INFO.CAPACITY : Fld := ⟨0x0900008, 34, 22⟩
abbrev F.TIER_INFO.FAIL : Fld := ⟨0x0900008, 21, 18⟩
/-- Table 07-19. -/
abbrev R.TIER_RD_LINES : Nat := 0x0900010
abbrev F.TIER_RD_LINES.LINES : Fld := ⟨0x0900010, 63, 0⟩
/-- Table 07-19. -/
abbrev R.TIER_WR_LINES : Nat := 0x0900018
abbrev F.TIER_WR_LINES.LINES : Fld := ⟨0x0900018, 63, 0⟩
/-- Table 07-20. -/
abbrev R.TIER_STATS : Nat := 0x0900020
abbrev F.TIER_STATS.UTIL : Fld := ⟨0x0900020, 63, 56⟩
abbrev F.TIER_STATS.CORRECTED : Fld := ⟨0x0900020, 55, 40⟩
abbrev F.TIER_STATS.UNCORRECTED : Fld := ⟨0x0900020, 39, 24⟩
/-- Table 07-21. -/
abbrev R.TIER_INIT : Nat := 0x0900028
abbrev F.TIER_INIT.ZEROED_MIB : Fld := ⟨0x0900028, 22, 0⟩
/-- Table 08-9. -/
abbrev R.FAB_SELF : Nat := 0x0B00000
abbrev F.FAB_SELF.ENDPOINT : Fld := ⟨0x0B00000, 15, 0⟩
/-- Table 08-10. -/
abbrev R.FAB_REGION_SEL : Nat := 0x0B00008
abbrev F.FAB_REGION_SEL.REGION : Fld := ⟨0x0B00008, 26, 0⟩
/-- Table 08-11. -/
abbrev R.FAB_REGION_STATE : Nat := 0x0B00010
abbrev F.FAB_REGION_STATE.GOVERNED : Fld := ⟨0x0B00010, 63, 63⟩
abbrev F.FAB_REGION_STATE.CHANGING : Fld := ⟨0x0B00010, 62, 62⟩
abbrev F.FAB_REGION_STATE.STATE : Fld := ⟨0x0B00010, 17, 16⟩
abbrev F.FAB_REGION_STATE.OWNER : Fld := ⟨0x0B00010, 15, 0⟩
/-- Table 08-12. -/
abbrev R.FAB_REGION_CLEAR : Nat := 0x0B00018
abbrev F.FAB_REGION_CLEAR.CLEARING : Fld := ⟨0x0B00018, 1, 1⟩
abbrev F.FAB_REGION_CLEAR.GO : Fld := ⟨0x0B00018, 0, 0⟩
/-- Table 08-13. -/
abbrev R.FAB_STATS : Nat := 0x0B00020
abbrev F.FAB_STATS.REFUSED_OWNER : Fld := ⟨0x0B00020, 63, 48⟩
abbrev F.FAB_STATS.TIMEOUTS : Fld := ⟨0x0B00020, 47, 32⟩
abbrev F.FAB_STATS.LATE_RESP : Fld := ⟨0x0B00020, 31, 16⟩
abbrev F.FAB_STATS.HOME_WRITES : Fld := ⟨0x0B00020, 15, 8⟩
abbrev F.FAB_STATS.HANDOFFS : Fld := ⟨0x0B00020, 7, 0⟩
/-- Table 08-14. -/
abbrev R.FAB_REFUSED_LOG : Nat := 0x0B00028
abbrev F.FAB_REFUSED_LOG.VALID : Fld := ⟨0x0B00028, 63, 63⟩
abbrev F.FAB_REFUSED_LOG.OP : Fld := ⟨0x0B00028, 62, 59⟩
abbrev F.FAB_REFUSED_LOG.STATE : Fld := ⟨0x0B00028, 58, 57⟩
abbrev F.FAB_REFUSED_LOG.SRC : Fld := ⟨0x0B00028, 56, 41⟩
abbrev F.FAB_REFUSED_LOG.REGION : Fld := ⟨0x0B00028, 40, 14⟩
/-- Table 09-11. -/
abbrev R.LNK_ID : Nat := 0x0C00000
abbrev F.LNK_ID.GROUP : Fld := ⟨0x0C00000, 13, 6⟩
abbrev F.LNK_ID.NODE : Fld := ⟨0x0C00000, 5, 2⟩
abbrev F.LNK_ID.POSITION : Fld := ⟨0x0C00000, 1, 0⟩
/-- Table 09-12. -/
abbrev R.LNK_COMMIT : Nat := 0x0C00008
abbrev F.LNK_COMMIT.STATUS : Fld := ⟨0x0C00008, 63, 48⟩
abbrev F.LNK_COMMIT.GO : Fld := ⟨0x0C00008, 0, 0⟩
/-- Table 09-13. -/
abbrev R.LNK_TAG_SEL : Nat := 0x0C00010
abbrev F.LNK_TAG_SEL.ENTRY : Fld := ⟨0x0C00010, 5, 0⟩
/-- Table 09-14. -/
abbrev R.LNK_TAG_ENTRY : Nat := 0x0C00018
abbrev F.LNK_TAG_ENTRY.STATE : Fld := ⟨0x0C00018, 63, 62⟩
abbrev F.LNK_TAG_ENTRY.OP : Fld := ⟨0x0C00018, 19, 18⟩
abbrev F.LNK_TAG_ENTRY.LOCAL : Fld := ⟨0x0C00018, 17, 17⟩
abbrev F.LNK_TAG_ENTRY.TAG : Fld := ⟨0x0C00018, 15, 0⟩
/-- Table 09-15. -/
abbrev R.LNK_TAG_PORTS : Nat := 0x0C00020
abbrev F.LNK_TAG_PORTS.PORTS : Fld := ⟨0x0C00020, 31, 0⟩
/-- Table 09-16. -/
abbrev R.LNK_TAG_TIME : Nat := 0x0C00028
abbrev F.LNK_TAG_TIME.TICK : Fld := ⟨0x0C00028, 63, 0⟩
/-- Table 09-17. -/
abbrev R.LNK_ROUTE_SEL : Nat := 0x0C00030
abbrev F.LNK_ROUTE_SEL.TABLE : Fld := ⟨0x0C00030, 9, 8⟩
abbrev F.LNK_ROUTE_SEL.INDEX : Fld := ⟨0x0C00030, 7, 0⟩
/-- Table 09-18. -/
abbrev R.LNK_ROUTE_ENTRY : Nat := 0x0C00038
abbrev F.LNK_ROUTE_ENTRY.VALID : Fld := ⟨0x0C00038, 63, 63⟩
abbrev F.LNK_ROUTE_ENTRY.PORTS : Fld := ⟨0x0C00038, 31, 0⟩
/-- Table 09-19: the layout for TABLE 2. -/
abbrev F.LNK_ROUTE_ENTRY.GPORTS : Fld := ⟨0x0C00038, 57, 53⟩
/-- Table 09-19: the layout for TABLE 2. -/
abbrev F.LNK_ROUTE_ENTRY.GATEWAY : Fld := ⟨0x0C00038, 47, 32⟩
/-- Table 09-19: the layout for TABLE 2. -/
abbrev F.LNK_ROUTE_ENTRY.ALT_GATEWAY : Fld := ⟨0x0C00038, 31, 16⟩
/-- Table 09-20. -/
abbrev R.LNK_PORT_SEL : Nat := 0x0C00040
abbrev F.LNK_PORT_SEL.PORT : Fld := ⟨0x0C00040, 4, 0⟩
/-- Table 09-21. -/
abbrev R.LNK_PORT_CFG : Nat := 0x0C00048
abbrev F.LNK_PORT_CFG.RETRAIN : Fld := ⟨0x0C00048, 3, 3⟩
abbrev F.LNK_PORT_CFG.GEN : Fld := ⟨0x0C00048, 2, 1⟩
abbrev F.LNK_PORT_CFG.ENABLE : Fld := ⟨0x0C00048, 0, 0⟩
/-- Table 09-22. -/
abbrev R.LNK_PORT_STATE : Nat := 0x0C00050
abbrev F.LNK_PORT_STATE.STATE : Fld := ⟨0x0C00050, 63, 61⟩
abbrev F.LNK_PORT_STATE.GEN : Fld := ⟨0x0C00050, 60, 60⟩
abbrev F.LNK_PORT_STATE.PEER_EP : Fld := ⟨0x0C00050, 59, 44⟩
abbrev F.LNK_PORT_STATE.PEER_PORT : Fld := ⟨0x0C00050, 43, 39⟩
abbrev F.LNK_PORT_STATE.PEER_CAPS : Fld := ⟨0x0C00050, 38, 31⟩
abbrev F.LNK_PORT_STATE.UTIL_TX : Fld := ⟨0x0C00050, 30, 23⟩
abbrev F.LNK_PORT_STATE.UTIL_RX : Fld := ⟨0x0C00050, 22, 15⟩
/-- Table 09-23. -/
abbrev R.LNK_PORT_STATS : Nat := 0x0C00058
abbrev F.LNK_PORT_STATS.CRC_ERRS : Fld := ⟨0x0C00058, 63, 48⟩
abbrev F.LNK_PORT_STATS.REPLAYS : Fld := ⟨0x0C00058, 47, 32⟩
abbrev F.LNK_PORT_STATS.STALE_DROPS : Fld := ⟨0x0C00058, 31, 16⟩
abbrev F.LNK_PORT_STATS.TAG_DROPS : Fld := ⟨0x0C00058, 15, 8⟩
abbrev F.LNK_PORT_STATS.RETRAINS : Fld := ⟨0x0C00058, 7, 4⟩
abbrev F.LNK_PORT_STATS.ROUTE_DROPS : Fld := ⟨0x0C00058, 3, 0⟩
/-- Table 09-24. -/
abbrev R.LNK_LEVEL_UTIL : Nat := 0x0C00060
abbrev F.LNK_LEVEL_UTIL.NODE : Fld := ⟨0x0C00060, 63, 56⟩
abbrev F.LNK_LEVEL_UTIL.GROUP : Fld := ⟨0x0C00060, 55, 48⟩
abbrev F.LNK_LEVEL_UTIL.GLOBAL : Fld := ⟨0x0C00060, 47, 40⟩
abbrev F.LNK_LEVEL_UTIL.NONMIN : Fld := ⟨0x0C00060, 39, 32⟩
/-- Table 09-25. -/
abbrev R.LNK_ARB : Nat := 0x0C00068
abbrev F.LNK_ARB.WEIGHTS : Fld := ⟨0x0C00068, 63, 32⟩
abbrev F.LNK_ARB.NONMIN_EN : Fld := ⟨0x0C00068, 16, 16⟩
abbrev F.LNK_ARB.BIAS : Fld := ⟨0x0C00068, 15, 0⟩
/-- Table 10-12. -/
abbrev R.COL_CFG : Nat := 0x0E00000
abbrev F.COL_CFG.RETRY : Fld := ⟨0x0E00000, 55, 40⟩
abbrev F.COL_CFG.XLIM : Fld := ⟨0x0E00000, 39, 0⟩
/-- Table 10-13. -/
abbrev R.COL_SEL : Nat := 0x0E00008
abbrev F.COL_SEL.COMM : Fld := ⟨0x0E00008, 13, 8⟩
abbrev F.COL_SEL.UNIT : Fld := ⟨0x0E00008, 4, 0⟩
/-- Table 10-14. -/
abbrev R.COL_UNIT_STATE : Nat := 0x0E00010
abbrev F.COL_UNIT_STATE.QUEUED : Fld := ⟨0x0E00010, 63, 55⟩
abbrev F.COL_UNIT_STATE.RELAY_USED : Fld := ⟨0x0E00010, 54, 48⟩
/-- Table 10-15. -/
abbrev R.COL_UNIT_STATS : Nat := 0x0E00018
abbrev F.COL_UNIT_STATS.DONE : Fld := ⟨0x0E00018, 63, 48⟩
abbrev F.COL_UNIT_STATS.MISMATCH : Fld := ⟨0x0E00018, 47, 40⟩
abbrev F.COL_UNIT_STATS.TIMEOUTS : Fld := ⟨0x0E00018, 39, 32⟩
abbrev F.COL_UNIT_STATS.RTS_RETRIES : Fld := ⟨0x0E00018, 31, 16⟩
abbrev F.COL_UNIT_STATS.RELAY_ORPHANS : Fld := ⟨0x0E00018, 15, 8⟩
abbrev F.COL_UNIT_STATS.REFUSED : Fld := ⟨0x0E00018, 7, 0⟩
/-- Table 10-16. -/
abbrev R.COL_COMM_INFO : Nat := 0x0E00020
abbrev F.COL_COMM_INFO.VALID : Fld := ⟨0x0E00020, 63, 63⟩
abbrev F.COL_COMM_INFO.MODE : Fld := ⟨0x0E00020, 62, 62⟩
abbrev F.COL_COMM_INFO.CLASS : Fld := ⟨0x0E00020, 61, 59⟩
abbrev F.COL_COMM_INFO.SLOTS : Fld := ⟨0x0E00020, 58, 54⟩
abbrev F.COL_COMM_INFO.NMEMB_M1 : Fld := ⟨0x0E00020, 53, 40⟩
abbrev F.COL_COMM_INFO.COMM : Fld := ⟨0x0E00020, 39, 24⟩
abbrev F.COL_COMM_INFO.RANK : Fld := ⟨0x0E00020, 23, 10⟩
/-- Table 10-17. -/
abbrev R.COL_COMM_RING : Nat := 0x0E00028
abbrev F.COL_COMM_RING.ADDR : Fld := ⟨0x0E00028, 63, 0⟩
/-- Table 10-18. -/
abbrev R.COL_COMM_STATE : Nat := 0x0E00030
abbrev F.COL_COMM_STATE.MATCH_USED : Fld := ⟨0x0E00030, 63, 51⟩
abbrev F.COL_COMM_STATE.ARRIVED : Fld := ⟨0x0E00030, 50, 35⟩
abbrev F.COL_COMM_STATE.LAP_DONE : Fld := ⟨0x0E00030, 34, 0⟩
/-- Table 10-19. -/
abbrev R.COL_LAG : Nat := 0x0E00038
abbrev F.COL_LAG.LAG_LAST : Fld := ⟨0x0E00038, 63, 40⟩
abbrev F.COL_LAG.LAG_MAX : Fld := ⟨0x0E00038, 39, 16⟩
abbrev F.COL_LAG.LAGGED : Fld := ⟨0x0E00038, 15, 0⟩
/-- Table 10-20. -/
abbrev R.COL_LAGGARD : Nat := 0x0E00040
abbrev F.COL_LAGGARD.ENDPOINT : Fld := ⟨0x0E00040, 63, 48⟩
abbrev F.COL_LAGGARD.LAG : Fld := ⟨0x0E00040, 47, 16⟩
abbrev F.COL_LAGGARD.LAP : Fld := ⟨0x0E00040, 15, 0⟩
/-- Table 10-21: element 0; element k is 8k higher. -/
abbrev R.COL_POST : Nat := 0x0E00100
abbrev F.COL_POST.ADDR : Fld := ⟨0x0E00100, 63, 0⟩
/-- Table 11-8. -/
abbrev R.TIM_COUNT : Nat := 0x0D00000
abbrev F.TIM_COUNT.COUNT : Fld := ⟨0x0D00000, 63, 0⟩
/-- Table 11-9. -/
abbrev R.TIM_CFG : Nat := 0x0D00008
abbrev F.TIM_CFG.SYNC_OUT_EN : Fld := ⟨0x0D00008, 7, 7⟩
abbrev F.TIM_CFG.SRC : Fld := ⟨0x0D00008, 6, 6⟩
abbrev F.TIM_CFG.ROOT : Fld := ⟨0x0D00008, 5, 5⟩
abbrev F.TIM_CFG.PARENT : Fld := ⟨0x0D00008, 4, 0⟩
/-- Table 11-10. -/
abbrev R.TIM_ASYM : Nat := 0x0D00010
abbrev F.TIM_ASYM.ASYM : Fld := ⟨0x0D00010, 15, 0⟩
/-- Table 11-11. -/
abbrev R.TIM_STATE : Nat := 0x0D00018
abbrev F.TIM_STATE.SYNC : Fld := ⟨0x0D00018, 63, 62⟩
abbrev F.TIM_STATE.DEPTH : Fld := ⟨0x0D00018, 61, 58⟩
abbrev F.TIM_STATE.OFFSET : Fld := ⟨0x0D00018, 55, 40⟩
abbrev F.TIM_STATE.DELAY : Fld := ⟨0x0D00018, 39, 24⟩
abbrev F.TIM_STATE.HOLD : Fld := ⟨0x0D00018, 23, 0⟩
/-- Table 11-12. -/
abbrev R.TIM_LEAD : Nat := 0x0D00020
abbrev F.TIM_LEAD.LEAD : Fld := ⟨0x0D00020, 31, 0⟩
/-- Table 11-13. -/
abbrev R.TIM_LAUNCH_POST : Nat := 0x0D00028
abbrev F.TIM_LAUNCH_POST.ADDR : Fld := ⟨0x0D00028, 63, 0⟩
/-- Table 11-14. -/
abbrev R.TIM_LAUNCH_CTL : Nat := 0x0D00030
abbrev F.TIM_LAUNCH_CTL.CANCEL : Fld := ⟨0x0D00030, 0, 0⟩
/-- Table 11-15. -/
abbrev R.TIM_LAUNCH_STATE : Nat := 0x0D00038
abbrev F.TIM_LAUNCH_STATE.STATUS : Fld := ⟨0x0D00038, 63, 48⟩
abbrev F.TIM_LAUNCH_STATE.REASON : Fld := ⟨0x0D00038, 47, 44⟩
abbrev F.TIM_LAUNCH_STATE.PHASE : Fld := ⟨0x0D00038, 43, 42⟩
abbrev F.TIM_LAUNCH_STATE.ORIGIN : Fld := ⟨0x0D00038, 41, 26⟩
abbrev F.TIM_LAUNCH_STATE.TAG : Fld := ⟨0x0D00038, 25, 10⟩
/-- Table 11-16. -/
abbrev R.TIM_LAUNCH_START : Nat := 0x0D00040
abbrev F.TIM_LAUNCH_START.START : Fld := ⟨0x0D00040, 63, 0⟩
/-- Table 11-17. -/
abbrev R.TIM_STATS : Nat := 0x0D00048
abbrev F.TIM_STATS.ACCEPTED : Fld := ⟨0x0D00048, 63, 48⟩
abbrev F.TIM_STATS.FALSE_STARTS : Fld := ⟨0x0D00048, 47, 40⟩
abbrev F.TIM_STATS.OVERRUN : Fld := ⟨0x0D00048, 39, 32⟩
abbrev F.TIM_STATS.DUPLICATES : Fld := ⟨0x0D00048, 31, 24⟩
abbrev F.TIM_STATS.SYNC_LOSS : Fld := ⟨0x0D00048, 23, 16⟩
/-- Table 11-18: element 0; element k is 8k higher. -/
abbrev R.DIG_POST : Nat := 0x0F00000
abbrev F.DIG_POST.ADDR : Fld := ⟨0x0F00000, 63, 0⟩
/-- Table 11-19: element 0; element k is 8k higher. -/
abbrev R.DIG_BOUND : Nat := 0x0F00080
abbrev F.DIG_BOUND.BYTES : Fld := ⟨0x0F00080, 63, 0⟩
/-- Table 11-20. -/
abbrev R.DIG_STATS : Nat := 0x0F00100
abbrev F.DIG_STATS.DONE : Fld := ⟨0x0F00100, 63, 48⟩
abbrev F.DIG_STATS.REFUSED : Fld := ⟨0x0F00100, 47, 40⟩
abbrev F.DIG_STATS.MIB : Fld := ⟨0x0F00100, 39, 0⟩
/-- Table 12-7. -/
abbrev R.SPL_POST : Nat := 0x1000000
abbrev F.SPL_POST.ADDR : Fld := ⟨0x1000000, 63, 0⟩
/-- Table 12-8. -/
abbrev R.SPL_STATE : Nat := 0x1000008
abbrev F.SPL_STATE.BUSY : Fld := ⟨0x1000008, 63, 63⟩
abbrev F.SPL_STATE.RUN_OP : Fld := ⟨0x1000008, 62, 60⟩
abbrev F.SPL_STATE.QUEUED : Fld := ⟨0x1000008, 59, 56⟩
abbrev F.SPL_STATE.COPIED : Fld := ⟨0x1000008, 55, 55⟩
abbrev F.SPL_STATE.PRIO_QUEUED : Fld := ⟨0x1000008, 54, 48⟩
abbrev F.SPL_STATE.GRANULES_LEFT : Fld := ⟨0x1000008, 47, 20⟩
/-- Table 12-9. -/
abbrev R.SPL_STATS : Nat := 0x1000010
abbrev F.SPL_STATS.SPLITS_DONE : Fld := ⟨0x1000010, 63, 48⟩
abbrev F.SPL_STATS.COW_COPIES : Fld := ⟨0x1000010, 47, 16⟩
abbrev F.SPL_STATS.REFUSED : Fld := ⟨0x1000010, 15, 8⟩
abbrev F.SPL_STATS.ABANDONED : Fld := ⟨0x1000010, 7, 0⟩
/-- Table 12-10. -/
abbrev R.SPL_STALL : Nat := 0x1000018
abbrev F.SPL_STALL.STALL_TICKS : Fld := ⟨0x1000018, 63, 24⟩
abbrev F.SPL_STALL.MAX_STALL : Fld := ⟨0x1000018, 23, 0⟩
/-- Table 12-11. -/
abbrev R.SPL_RESTORE_LOG : Nat := 0x1000020
abbrev F.SPL_RESTORE_LOG.VALID : Fld := ⟨0x1000020, 63, 63⟩
abbrev F.SPL_RESTORE_LOG.STATUS : Fld := ⟨0x1000020, 47, 32⟩
abbrev F.SPL_RESTORE_LOG.FIRST_RANK : Fld := ⟨0x1000020, 13, 0⟩
/-- Table 12-12. -/
abbrev R.SPL_RESTORE_MIN : Nat := 0x1000028
abbrev F.SPL_RESTORE_MIN.LAP : Fld := ⟨0x1000028, 63, 0⟩
/-- Table 12-12. -/
abbrev R.SPL_RESTORE_MAX : Nat := 0x1000030
abbrev F.SPL_RESTORE_MAX.LAP : Fld := ⟨0x1000030, 63, 0⟩
/-- Table 13-9. -/
abbrev R.ERR_CFG : Nat := 0x0400000
abbrev F.ERR_CFG.CTX_POISON : Fld := ⟨0x0400000, 0, 0⟩
/-- Table 13-10. -/
abbrev R.ERR_LAST_REFUSED : Nat := 0x0400008
abbrev F.ERR_LAST_REFUSED.SEQ : Fld := ⟨0x0400008, 63, 56⟩
abbrev F.ERR_LAST_REFUSED.SOURCE : Fld := ⟨0x0400008, 55, 53⟩
abbrev F.ERR_LAST_REFUSED.KIND : Fld := ⟨0x0400008, 52, 49⟩
abbrev F.ERR_LAST_REFUSED.CORE : Fld := ⟨0x0400008, 48, 41⟩
abbrev F.ERR_LAST_REFUSED.CTX : Fld := ⟨0x0400008, 40, 34⟩
abbrev F.ERR_LAST_REFUSED.OFFSET : Fld := ⟨0x0400008, 25, 0⟩
/-- Table 13-11. -/
abbrev R.ERR_LAST_REFUSED_VAL : Nat := 0x0400010
abbrev F.ERR_LAST_REFUSED_VAL.VALUE : Fld := ⟨0x0400010, 63, 0⟩
/-- Table 13-12. -/
abbrev R.ERR_LOG_HEAD : Nat := 0x0400018
abbrev F.ERR_LOG_HEAD.NEXT : Fld := ⟨0x0400018, 31, 0⟩
/-- Table 13-13. -/
abbrev R.ERR_REC_SEL : Nat := 0x0400020
abbrev F.ERR_REC_SEL.SLOT : Fld := ⟨0x0400020, 5, 0⟩
/-- Table 13-14. -/
abbrev R.ERR_REC0 : Nat := 0x0400028
abbrev F.ERR_REC0.WORD : Fld := ⟨0x0400028, 63, 0⟩
/-- Table 13-14. -/
abbrev R.ERR_REC1 : Nat := 0x0400030
abbrev F.ERR_REC1.WORD : Fld := ⟨0x0400030, 63, 0⟩
/-- Table 13-14. -/
abbrev R.ERR_REC2 : Nat := 0x0400038
abbrev F.ERR_REC2.WORD : Fld := ⟨0x0400038, 63, 0⟩
/-- Table 13-14. -/
abbrev R.ERR_REC3 : Nat := 0x0400040
abbrev F.ERR_REC3.WORD : Fld := ⟨0x0400040, 63, 0⟩
/-- Table 13-15. -/
abbrev R.ERR_FIRST0 : Nat := 0x0400048
abbrev F.ERR_FIRST0.WORD : Fld := ⟨0x0400048, 63, 0⟩
/-- Table 13-15. -/
abbrev R.ERR_FIRST1 : Nat := 0x0400050
abbrev F.ERR_FIRST1.WORD : Fld := ⟨0x0400050, 63, 0⟩
/-- Table 13-15. -/
abbrev R.ERR_FIRST2 : Nat := 0x0400058
abbrev F.ERR_FIRST2.WORD : Fld := ⟨0x0400058, 63, 0⟩
/-- Table 13-15. -/
abbrev R.ERR_FIRST3 : Nat := 0x0400060
abbrev F.ERR_FIRST3.WORD : Fld := ⟨0x0400060, 63, 0⟩
/-- Table 13-16. -/
abbrev R.ERR_STATUS : Nat := 0x0400068
abbrev F.ERR_STATUS.FIRST_VALID : Fld := ⟨0x0400068, 63, 63⟩
abbrev F.ERR_STATUS.PACKAGE_FENCED : Fld := ⟨0x0400068, 62, 62⟩
/-- Table 13-17. -/
abbrev R.ERR_POISON : Nat := 0x0400070
abbrev F.ERR_POISON.VALID : Fld := ⟨0x0400070, 63, 63⟩
abbrev F.ERR_POISON.ORIGINATED : Fld := ⟨0x0400070, 62, 62⟩
abbrev F.ERR_POISON.CAUSE : Fld := ⟨0x0400070, 55, 48⟩
abbrev F.ERR_POISON.ORIGIN : Fld := ⟨0x0400070, 47, 32⟩
abbrev F.ERR_POISON.TAG : Fld := ⟨0x0400070, 15, 0⟩
/-- Table 13-18. -/
abbrev R.ERR_POISON_TICK : Nat := 0x0400078
abbrev F.ERR_POISON_TICK.TICK : Fld := ⟨0x0400078, 63, 0⟩
/-- Table 13-19. -/
abbrev R.ERR_RESET : Nat := 0x0400080
abbrev F.ERR_RESET.DOMAIN : Fld := ⟨0x0400080, 18, 16⟩
abbrev F.ERR_RESET.TARGET : Fld := ⟨0x0400080, 14, 0⟩
/-- Table 13-20. -/
abbrev R.ERR_RESET_STATE : Nat := 0x0400088
abbrev F.ERR_RESET_STATE.BUSY : Fld := ⟨0x0400088, 63, 63⟩
abbrev F.ERR_RESET_STATE.DOMAIN : Fld := ⟨0x0400088, 62, 60⟩
abbrev F.ERR_RESET_STATE.TARGET : Fld := ⟨0x0400088, 59, 45⟩
/-- Table 13-21. -/
abbrev R.ERR_STATS : Nat := 0x0400090
abbrev F.ERR_STATS.RECORDS : Fld := ⟨0x0400090, 63, 48⟩
abbrev F.ERR_STATS.POISON_SENT : Fld := ⟨0x0400090, 47, 40⟩
abbrev F.ERR_STATS.POISON_RECV : Fld := ⟨0x0400090, 39, 32⟩
abbrev F.ERR_STATS.SRAM_CORRECTED : Fld := ⟨0x0400090, 31, 16⟩
abbrev F.ERR_STATS.REFUSED_WRITES : Fld := ⟨0x0400090, 15, 8⟩
abbrev F.ERR_STATS.REFUSED_COMMITS : Fld := ⟨0x0400090, 7, 0⟩
/-- Table 14-12. -/
abbrev R.HIF_BOOT_STATUS : Nat := 0x0000000
abbrev F.HIF_BOOT_STATUS.PHASE : Fld := ⟨0x0000000, 63, 60⟩
abbrev F.HIF_BOOT_STATUS.STATUS : Fld := ⟨0x0000000, 59, 44⟩
abbrev F.HIF_BOOT_STATUS.ATTEMPTS : Fld := ⟨0x0000000, 43, 36⟩
abbrev F.HIF_BOOT_STATUS.LOADED : Fld := ⟨0x0000000, 35, 35⟩
/-- Table 14-13. -/
abbrev R.HIF_BOOT_CTL : Nat := 0x0000008
abbrev F.HIF_BOOT_CTL.GO : Fld := ⟨0x0000008, 63, 63⟩
abbrev F.HIF_BOOT_CTL.LENGTH : Fld := ⟨0x0000008, 28, 0⟩
/-- Table 14-14. -/
abbrev R.HIF_MBOX_ADDR : Nat := 0x0000010
abbrev F.HIF_MBOX_ADDR.ENABLE : Fld := ⟨0x0000010, 63, 63⟩
abbrev F.HIF_MBOX_ADDR.ADDR : Fld := ⟨0x0000010, 51, 6⟩
/-- Table 14-15. -/
abbrev R.HIF_MBOX_STATE : Nat := 0x0000018
abbrev F.HIF_MBOX_STATE.MODE : Fld := ⟨0x0000018, 63, 62⟩
abbrev F.HIF_MBOX_STATE.BUSY : Fld := ⟨0x0000018, 61, 61⟩
abbrev F.HIF_MBOX_STATE.SKIPPED : Fld := ⟨0x0000018, 47, 32⟩
abbrev F.HIF_MBOX_STATE.LAST_SEQ : Fld := ⟨0x0000018, 31, 0⟩
/-- Table 14-16. -/
abbrev R.HIF_MBOX_POLL : Nat := 0x0000020
abbrev F.HIF_MBOX_POLL.TICKS : Fld := ⟨0x0000020, 39, 0⟩
/-- Table 14-16. -/
abbrev R.HIF_CACHE_TIMEOUT : Nat := 0x0000028
abbrev F.HIF_CACHE_TIMEOUT.TICKS : Fld := ⟨0x0000028, 39, 0⟩
/-- Table 14-17. -/
abbrev R.HIF_HWIN_BASE : Nat := 0x0000030
abbrev F.HIF_HWIN_BASE.VALUE : Fld := ⟨0x0000030, 51, 21⟩
/-- Table 14-17. -/
abbrev R.HIF_HWIN_SIZE : Nat := 0x0000038
abbrev F.HIF_HWIN_SIZE.VALUE : Fld := ⟨0x0000038, 51, 21⟩
/-- Table 14-18. -/
abbrev R.HIF_COMMIT : Nat := 0x0000040
abbrev F.HIF_COMMIT.REFUSED : Fld := ⟨0x0000040, 1, 1⟩
abbrev F.HIF_COMMIT.GO : Fld := ⟨0x0000040, 0, 0⟩
/-- Table 14-19. -/
abbrev R.HIF_BIAS_CMD : Nat := 0x0000048
abbrev F.HIF_BIAS_CMD.GO : Fld := ⟨0x0000048, 63, 63⟩
abbrev F.HIF_BIAS_CMD.DEVICE : Fld := ⟨0x0000048, 62, 62⟩
abbrev F.HIF_BIAS_CMD.FIRST : Fld := ⟨0x0000048, 51, 32⟩
abbrev F.HIF_BIAS_CMD.COUNT : Fld := ⟨0x0000048, 19, 0⟩
/-- Table 14-20. -/
abbrev R.HIF_BIAS_STATE : Nat := 0x0000050
abbrev F.HIF_BIAS_STATE.BUSY : Fld := ⟨0x0000050, 63, 63⟩
abbrev F.HIF_BIAS_STATE.DEVICE_GRANULES : Fld := ⟨0x0000050, 19, 0⟩
/-- Table 14-21. -/
abbrev R.HIF_LINK : Nat := 0x0000058
abbrev F.HIF_LINK.CXL : Fld := ⟨0x0000058, 63, 63⟩
abbrev F.HIF_LINK.CACHE_EN : Fld := ⟨0x0000058, 62, 62⟩
abbrev F.HIF_LINK.MEM_EN : Fld := ⟨0x0000058, 61, 61⟩
abbrev F.HIF_LINK.WIDTH : Fld := ⟨0x0000058, 60, 56⟩
abbrev F.HIF_LINK.RATE : Fld := ⟨0x0000058, 55, 48⟩
/-- Table 14-22. -/
abbrev R.HIF_CFG_STATUS : Nat := 0x0000060
abbrev F.HIF_CFG_STATUS.HEADER_VALID : Fld := ⟨0x0000060, 63, 63⟩
abbrev F.HIF_CFG_STATUS.RECORDS : Fld := ⟨0x0000060, 62, 48⟩
abbrev F.HIF_CFG_STATUS.SKIPPED : Fld := ⟨0x0000060, 47, 40⟩
abbrev F.HIF_CFG_STATUS.ENTRIES_SKIPPED : Fld := ⟨0x0000060, 39, 32⟩
abbrev F.HIF_CFG_STATUS.BYTES_READ : Fld := ⟨0x0000060, 26, 0⟩
/-- Table 14-23. -/
abbrev R.HIF_STATS : Nat := 0x0000068
abbrev F.HIF_STATS.NOTIFY : Fld := ⟨0x0000068, 63, 48⟩
abbrev F.HIF_STATS.EVENT_DROPS : Fld := ⟨0x0000068, 47, 40⟩
abbrev F.HIF_STATS.BAR_DROPS : Fld := ⟨0x0000068, 39, 32⟩
abbrev F.HIF_STATS.CACHE_TIMEOUTS : Fld := ⟨0x0000068, 31, 24⟩
abbrev F.HIF_STATS.AUTO_FLIPS : Fld := ⟨0x0000068, 23, 0⟩
/-- Table 15-8. -/
abbrev R.SEC_STATUS : Nat := 0x0300000
abbrev F.SEC_STATUS.CERT : Fld := ⟨0x0300000, 63, 62⟩
abbrev F.SEC_STATUS.ID_READY : Fld := ⟨0x0300000, 61, 61⟩
abbrev F.SEC_STATUS.DEBUG_LOCKED : Fld := ⟨0x0300000, 60, 60⟩
abbrev F.SEC_STATUS.FUSE_BUSY : Fld := ⟨0x0300000, 59, 59⟩
abbrev F.SEC_STATUS.PROGRAMMED : Fld := ⟨0x0300000, 55, 52⟩
abbrev F.SEC_STATUS.REVOKED : Fld := ⟨0x0300000, 51, 48⟩
abbrev F.SEC_STATUS.RUN_SLOT : Fld := ⟨0x0300000, 47, 46⟩
abbrev F.SEC_STATUS.RUN_VALID : Fld := ⟨0x0300000, 45, 45⟩
abbrev F.SEC_STATUS.SVN_FUSED : Fld := ⟨0x0300000, 44, 38⟩
abbrev F.SEC_STATUS.SVN_IMAGE : Fld := ⟨0x0300000, 37, 31⟩
/-- Table 15-9. -/
abbrev R.SEC_FUSE_CMD : Nat := 0x0300008
abbrev F.SEC_FUSE_CMD.GO : Fld := ⟨0x0300008, 63, 63⟩
abbrev F.SEC_FUSE_CMD.OP : Fld := ⟨0x0300008, 9, 8⟩
abbrev F.SEC_FUSE_CMD.ARG : Fld := ⟨0x0300008, 6, 0⟩
/-- Table 15-10. -/
abbrev R.SEC_FUSE_STATE : Nat := 0x0300010
abbrev F.SEC_FUSE_STATE.LAST_OP : Fld := ⟨0x0300010, 63, 62⟩
abbrev F.SEC_FUSE_STATE.INTERRUPTED : Fld := ⟨0x0300010, 61, 61⟩
abbrev F.SEC_FUSE_STATE.STEPS_LEFT : Fld := ⟨0x0300010, 6, 0⟩
/-- Table 15-11. -/
abbrev R.SEC_MR_SEL : Nat := 0x0300018
abbrev F.SEC_MR_SEL.INDEX : Fld := ⟨0x0300018, 3, 0⟩
/-- Table 15-12. -/
abbrev R.SEC_MR_COUNT : Nat := 0x0300020
abbrev F.SEC_MR_COUNT.COUNT : Fld := ⟨0x0300020, 31, 0⟩
/-- Table 15-13: element 0; element k is 8k higher. -/
abbrev R.SEC_MR_VAL : Nat := 0x0300028
abbrev F.SEC_MR_VAL.BYTES : Fld := ⟨0x0300028, 63, 0⟩
/-- Table 16-9. -/
abbrev R.PWR_LIMIT : Nat := 0x0200000
abbrev F.PWR_LIMIT.POLICY : Fld := ⟨0x0200000, 16, 16⟩
abbrev F.PWR_LIMIT.WATTS : Fld := ⟨0x0200000, 11, 0⟩
/-- Table 16-10. -/
abbrev R.PWR_INPUT : Nat := 0x0200008
abbrev F.PWR_INPUT.VIN_MV : Fld := ⟨0x0200008, 63, 48⟩
abbrev F.PWR_INPUT.IIN : Fld := ⟨0x0200008, 47, 32⟩
abbrev F.PWR_INPUT.PIN_W : Fld := ⟨0x0200008, 31, 19⟩
abbrev F.PWR_INPUT.LOW : Fld := ⟨0x0200008, 18, 18⟩
abbrev F.PWR_INPUT.HIGH : Fld := ⟨0x0200008, 17, 17⟩
abbrev F.PWR_INPUT.CURRENT_LIMITED : Fld := ⟨0x0200008, 16, 16⟩
abbrev F.PWR_INPUT.AT_FLOOR : Fld := ⟨0x0200008, 15, 15⟩
/-- Table 16-11. -/
abbrev R.PWR_PAIR_SEL : Nat := 0x0200010
abbrev F.PWR_PAIR_SEL.PAIR : Fld := ⟨0x0200010, 3, 0⟩
/-- Table 16-12. -/
abbrev R.PWR_PAIR_STATE : Nat := 0x0200018
abbrev F.PWR_PAIR_STATE.STEP : Fld := ⟨0x0200018, 63, 59⟩
abbrev F.PWR_PAIR_STATE.POWER_STEP : Fld := ⟨0x0200018, 58, 54⟩
abbrev F.PWR_PAIR_STATE.THERM_STEP : Fld := ⟨0x0200018, 53, 49⟩
abbrev F.PWR_PAIR_STATE.FREQ_MHZ : Fld := ⟨0x0200018, 48, 37⟩
abbrev F.PWR_PAIR_STATE.REST_A : Fld := ⟨0x0200018, 36, 36⟩
abbrev F.PWR_PAIR_STATE.REST_B : Fld := ⟨0x0200018, 35, 35⟩
abbrev F.PWR_PAIR_STATE.STOPPED : Fld := ⟨0x0200018, 34, 34⟩
abbrev F.PWR_PAIR_STATE.PAIR_W : Fld := ⟨0x0200018, 33, 24⟩
abbrev F.PWR_PAIR_STATE.TJ : Fld := ⟨0x0200018, 23, 14⟩
/-- Table 16-13. -/
abbrev R.PWR_TJ : Nat := 0x0200020
abbrev F.PWR_TJ.STOP : Fld := ⟨0x0200020, 23, 16⟩
abbrev F.PWR_TJ.PACE : Fld := ⟨0x0200020, 15, 8⟩
/-- Table 16-14. -/
abbrev R.PWR_COMMIT : Nat := 0x0200028
abbrev F.PWR_COMMIT.REFUSED : Fld := ⟨0x0200028, 1, 1⟩
abbrev F.PWR_COMMIT.GO : Fld := ⟨0x0200028, 0, 0⟩
/-- Table 16-15. -/
abbrev R.PWR_REST : Nat := 0x0200030
abbrev F.PWR_REST.FORCE_AWAKE : Fld := ⟨0x0200030, 40, 40⟩
abbrev F.PWR_REST.DELAY : Fld := ⟨0x0200030, 39, 0⟩
/-- Table 16-16. -/
abbrev R.PWR_FAULT : Nat := 0x0200038
abbrev F.PWR_FAULT.VALID : Fld := ⟨0x0200038, 63, 63⟩
abbrev F.PWR_FAULT.KIND : Fld := ⟨0x0200038, 62, 60⟩
abbrev F.PWR_FAULT.RAIL : Fld := ⟨0x0200038, 59, 54⟩
abbrev F.PWR_FAULT.VIN_MV : Fld := ⟨0x0200038, 53, 38⟩
/-- Table 16-17. -/
abbrev R.PWR_RAIL_SEL : Nat := 0x0200040
abbrev F.PWR_RAIL_SEL.RAIL : Fld := ⟨0x0200040, 5, 0⟩
/-- Table 16-18. -/
abbrev R.PWR_RAIL : Nat := 0x0200048
abbrev F.PWR_RAIL.MV : Fld := ⟨0x0200048, 63, 48⟩
abbrev F.PWR_RAIL.CURRENT : Fld := ⟨0x0200048, 47, 32⟩
abbrev F.PWR_RAIL.REG_TEMP : Fld := ⟨0x0200048, 31, 24⟩
/-- Table 16-19. -/
abbrev R.PWR_STATS : Nat := 0x0200050
abbrev F.PWR_STATS.PACE_INCS : Fld := ⟨0x0200050, 63, 48⟩
abbrev F.PWR_STATS.PACE_DECS : Fld := ⟨0x0200050, 47, 32⟩
abbrev F.PWR_STATS.CURRENT_LIMITS : Fld := ⟨0x0200050, 31, 24⟩
abbrev F.PWR_STATS.FLOOR_EVALS : Fld := ⟨0x0200050, 23, 16⟩
abbrev F.PWR_STATS.FAULTS : Fld := ⟨0x0200050, 15, 8⟩
/-- Table 16-20. -/
abbrev R.MGT_UTIL : Nat := 0x0100000
abbrev F.MGT_UTIL.BUSY : Fld := ⟨0x0100000, 63, 63⟩
abbrev F.MGT_UTIL.UTIL : Fld := ⟨0x0100000, 62, 56⟩
abbrev F.MGT_UTIL.BUSY_WINDOWS : Fld := ⟨0x0100000, 47, 40⟩
abbrev F.MGT_UTIL.TEL_EFFECTIVE : Fld := ⟨0x0100000, 39, 0⟩
/-- Table 16-21. -/
abbrev R.MGT_TEL_CFG : Nat := 0x0100008
abbrev F.MGT_TEL_CFG.ENABLE : Fld := ⟨0x0100008, 63, 63⟩
abbrev F.MGT_TEL_CFG.ENTRIES : Fld := ⟨0x0100008, 55, 40⟩
abbrev F.MGT_TEL_CFG.PERIOD : Fld := ⟨0x0100008, 39, 0⟩
/-- Table 16-22. -/
abbrev R.MGT_TEL_BASE : Nat := 0x0100010
abbrev F.MGT_TEL_BASE.ADDR : Fld := ⟨0x0100010, 63, 0⟩
/-- Table 16-23. -/
abbrev R.MGT_WDOG : Nat := 0x0100018
abbrev F.MGT_WDOG.KICK : Fld := ⟨0x0100018, 63, 63⟩
abbrev F.MGT_WDOG.PERIOD : Fld := ⟨0x0100018, 39, 0⟩
/-- Table 16-24. -/
abbrev R.MGT_HANG : Nat := 0x0100020
abbrev F.MGT_HANG.HANGS : Fld := ⟨0x0100020, 63, 56⟩
abbrev F.MGT_HANG.LAST_TICK : Fld := ⟨0x0100020, 47, 0⟩
/-- Table 16-25. -/
abbrev R.MGT_TEL_COMMIT : Nat := 0x0100028
abbrev F.MGT_TEL_COMMIT.REFUSED : Fld := ⟨0x0100028, 1, 1⟩
abbrev F.MGT_TEL_COMMIT.GO : Fld := ⟨0x0100028, 0, 0⟩
/-- Table 17-11. -/
abbrev R.MGT_PINS : Nat := 0x0100058
abbrev F.MGT_PINS.POS : Fld := ⟨0x0100058, 63, 62⟩
abbrev F.MGT_PINS.TESTEN : Fld := ⟨0x0100058, 61, 61⟩
abbrev F.MGT_PINS.STRAP_DISAGREE : Fld := ⟨0x0100058, 60, 60⟩
abbrev F.MGT_PINS.PWR_GOOD : Fld := ⟨0x0100058, 59, 59⟩
abbrev F.MGT_PINS.COLD_RST_N : Fld := ⟨0x0100058, 58, 58⟩
abbrev F.MGT_PINS.PKG_RST_N : Fld := ⟨0x0100058, 57, 57⟩
abbrev F.MGT_PINS.PERST_N : Fld := ⟨0x0100058, 56, 56⟩
abbrev F.MGT_PINS.FAULT_DRIVEN : Fld := ⟨0x0100058, 55, 55⟩
abbrev F.MGT_PINS.REF_OK : Fld := ⟨0x0100058, 54, 54⟩
/-- Table 17-12. -/
abbrev R.MGT_PIN_STATS : Nat := 0x0100060
abbrev F.MGT_PIN_STATS.PWR_GOOD_GLITCHES : Fld := ⟨0x0100060, 63, 52⟩
abbrev F.MGT_PIN_STATS.COLD_RST_GLITCHES : Fld := ⟨0x0100060, 51, 40⟩
abbrev F.MGT_PIN_STATS.PKG_RST_GLITCHES : Fld := ⟨0x0100060, 39, 28⟩
abbrev F.MGT_PIN_STATS.PERST_GLITCHES : Fld := ⟨0x0100060, 27, 16⟩
abbrev F.MGT_PIN_STATS.SYNC_SHORT : Fld := ⟨0x0100060, 15, 8⟩
abbrev F.MGT_PIN_STATS.REF_LOSSES : Fld := ⟨0x0100060, 7, 0⟩
/-- R325: the MSI-X table (PCIe layout, PRESUMED, log entry 21): entry v is 16v higher: address, then data and vector control. -/
abbrev R.MSIX_ADDR : Nat := 0x0001000
abbrev F.MSIX_ADDR.ADDR : Fld := ⟨0x0001000, 63, 2⟩
abbrev R.MSIX_DATA : Nat := 0x0001008
abbrev F.MSIX_DATA.MASK : Fld := ⟨0x0001008, 32, 32⟩
abbrev F.MSIX_DATA.DATA : Fld := ⟨0x0001008, 31, 0⟩
/-- R325: the MSI-X pending-bit array. -/
abbrev R.MSIX_PBA : Nat := 0x0001800
abbrev F.MSIX_PBA.PENDING : Fld := ⟨0x0001800, 3, 0⟩

/-- The HIF_ block, in ascending offset. -/
def regsHif : List RegDesc := [
  ⟨0x0000000, 0x1000000000000000, [⟨63, 60, .ro, false⟩, ⟨59, 44, .ro, false⟩, ⟨43, 36, .ro, false⟩, ⟨35, 35, .ro, false⟩]⟩,
  ⟨0x0000008, 0x0000000000000000, [⟨63, 63, .wo, false⟩, ⟨28, 0, .rw, false⟩]⟩,
  ⟨0x0000010, 0x0000000000000000, [⟨63, 63, .rw, false⟩, ⟨51, 6, .rw, false⟩]⟩,
  ⟨0x0000018, 0x0000000000000000, [⟨63, 62, .ro, false⟩, ⟨61, 61, .ro, false⟩, ⟨47, 32, .rc, false⟩, ⟨31, 0, .ro, false⟩]⟩,
  ⟨0x0000020, 0x0000000000002710, [⟨39, 0, .rw, false⟩]⟩,
  ⟨0x0000028, 0x00000000000F4240, [⟨39, 0, .rw, false⟩]⟩,
  ⟨0x0000030, 0x0000000000000000, [⟨51, 21, .rws, false⟩]⟩,
  ⟨0x0000038, 0x0000000000000000, [⟨51, 21, .rws, false⟩]⟩,
  ⟨0x0000040, 0x0000000000000000, [⟨1, 1, .ro, false⟩, ⟨0, 0, .wo, false⟩]⟩,
  ⟨0x0000048, 0x0000000000000000, [⟨63, 63, .wo, false⟩, ⟨62, 62, .rw, false⟩, ⟨51, 32, .rw, false⟩, ⟨19, 0, .rw, false⟩]⟩,
  ⟨0x0000050, 0x0000000000000000, [⟨63, 63, .ro, false⟩, ⟨19, 0, .ro, false⟩]⟩,
  ⟨0x0000058, 0x0000000000000000, [⟨63, 63, .ro, true⟩, ⟨62, 62, .ro, true⟩, ⟨61, 61, .ro, true⟩, ⟨60, 56, .ro, true⟩, ⟨55, 48, .ro, true⟩]⟩,
  ⟨0x0000060, 0x0000000000000000, [⟨63, 63, .ro, true⟩, ⟨62, 48, .ro, true⟩, ⟨47, 40, .ro, true⟩, ⟨39, 32, .ro, true⟩, ⟨26, 0, .ro, true⟩]⟩,
  ⟨0x0000068, 0x0000000000000000, [⟨63, 48, .rc, false⟩, ⟨47, 40, .rc, false⟩, ⟨39, 32, .rc, false⟩, ⟨31, 24, .rc, false⟩, ⟨23, 0, .rc, false⟩]⟩,
  ⟨0x0001000, 0x0000000000000000, [⟨63, 2, .rw, true⟩]⟩,
  ⟨0x0001008, 0x0000000100000000, [⟨32, 32, .rw, true⟩, ⟨31, 0, .rw, true⟩]⟩,
  ⟨0x0001010, 0x0000000000000000, [⟨63, 2, .rw, true⟩]⟩,
  ⟨0x0001018, 0x0000000100000000, [⟨32, 32, .rw, true⟩, ⟨31, 0, .rw, true⟩]⟩,
  ⟨0x0001020, 0x0000000000000000, [⟨63, 2, .rw, true⟩]⟩,
  ⟨0x0001028, 0x0000000100000000, [⟨32, 32, .rw, true⟩, ⟨31, 0, .rw, true⟩]⟩,
  ⟨0x0001030, 0x0000000000000000, [⟨63, 2, .rw, true⟩]⟩,
  ⟨0x0001038, 0x0000000100000000, [⟨32, 32, .rw, true⟩, ⟨31, 0, .rw, true⟩]⟩,
  ⟨0x0001800, 0x0000000000000000, [⟨3, 0, .ro, true⟩]⟩]

/-- The MGT_ block, in ascending offset. -/
def regsMgt : List RegDesc := [
  ⟨0x0100000, 0x00000000000F4240, [⟨63, 63, .ro, false⟩, ⟨62, 56, .ro, false⟩, ⟨47, 40, .rc, false⟩, ⟨39, 0, .ro, false⟩]⟩,
  ⟨0x0100008, 0x00040000000F4240, [⟨63, 63, .rw, false⟩, ⟨55, 40, .rws, false⟩, ⟨39, 0, .rw, false⟩]⟩,
  ⟨0x0100010, 0x0000000000000000, [⟨63, 0, .rws, false⟩]⟩,
  ⟨0x0100018, 0x0000000005F5E100, [⟨63, 63, .wo, false⟩, ⟨39, 0, .rw, false⟩]⟩,
  ⟨0x0100020, 0x0000000000000000, [⟨63, 56, .rc, true⟩, ⟨47, 0, .ro, true⟩]⟩,
  ⟨0x0100028, 0x0000000000000000, [⟨1, 1, .ro, false⟩, ⟨0, 0, .wo, false⟩]⟩,
  ⟨0x0100040, 0x0000000000000000, [⟨63, 63, .ro, true⟩, ⟨62, 52, .ro, true⟩, ⟨51, 46, .ro, true⟩, ⟨45, 44, .ro, true⟩, ⟨43, 36, .ro, true⟩, ⟨35, 30, .ro, true⟩, ⟨29, 25, .ro, true⟩, ⟨8, 8, .ro, true⟩, ⟨7, 0, .ro, true⟩]⟩,
  ⟨0x0100048, 0x0000000000000000, [⟨15, 12, .rw, false⟩, ⟨11, 0, .rw, false⟩]⟩,
  ⟨0x0100050, 0x0000000000000000, [⟨31, 31, .ro, false⟩, ⟨30, 30, .ro, false⟩, ⟨15, 0, .ro, false⟩]⟩,
  ⟨0x0100058, 0x0000000000000000, [⟨63, 62, .ro, true⟩, ⟨61, 61, .ro, true⟩, ⟨60, 60, .ro, true⟩, ⟨59, 59, .ro, false⟩, ⟨58, 58, .ro, false⟩, ⟨57, 57, .ro, false⟩, ⟨56, 56, .ro, false⟩, ⟨55, 55, .ro, false⟩, ⟨54, 54, .ro, false⟩]⟩,
  ⟨0x0100060, 0x0000000000000000, [⟨63, 52, .rc, true⟩, ⟨51, 40, .rc, true⟩, ⟨39, 28, .rc, true⟩, ⟨27, 16, .rc, true⟩, ⟨15, 8, .rc, true⟩, ⟨7, 0, .rc, true⟩]⟩]

/-- The PWR_ block, in ascending offset. -/
def regsPwr : List RegDesc := [
  ⟨0x0200000, 0x0000000000000E10, [⟨16, 16, .rw, true⟩, ⟨11, 0, .rw, true⟩]⟩,
  ⟨0x0200008, 0x0000000000000000, [⟨63, 48, .ro, false⟩, ⟨47, 32, .ro, false⟩, ⟨31, 19, .ro, false⟩, ⟨18, 18, .ro, false⟩, ⟨17, 17, .ro, false⟩, ⟨16, 16, .ro, false⟩, ⟨15, 15, .ro, false⟩]⟩,
  ⟨0x0200010, 0x0000000000000000, [⟨3, 0, .rw, false⟩]⟩,
  ⟨0x0200018, 0x0000000000000000, [⟨63, 59, .ro, false⟩, ⟨58, 54, .ro, false⟩, ⟨53, 49, .ro, false⟩, ⟨48, 37, .ro, false⟩, ⟨36, 36, .ro, false⟩, ⟨35, 35, .ro, false⟩, ⟨34, 34, .ro, false⟩, ⟨33, 24, .ro, false⟩, ⟨23, 14, .ro, false⟩]⟩,
  ⟨0x0200020, 0x00000000006E6400, [⟨23, 16, .rws, false⟩, ⟨15, 8, .rws, false⟩]⟩,
  ⟨0x0200028, 0x0000000000000000, [⟨1, 1, .ro, false⟩, ⟨0, 0, .wo, false⟩]⟩,
  ⟨0x0200030, 0x00000000000186A0, [⟨40, 40, .rw, true⟩, ⟨39, 0, .rw, true⟩]⟩,
  ⟨0x0200038, 0x0000000000000000, [⟨63, 63, .w1c, true⟩, ⟨62, 60, .ro, true⟩, ⟨59, 54, .ro, true⟩, ⟨53, 38, .ro, true⟩]⟩,
  ⟨0x0200040, 0x0000000000000000, [⟨5, 0, .rw, false⟩]⟩,
  ⟨0x0200048, 0x0000000000000000, [⟨63, 48, .ro, false⟩, ⟨47, 32, .ro, false⟩, ⟨31, 24, .ro, false⟩]⟩,
  ⟨0x0200050, 0x0000000000000000, [⟨63, 48, .rc, false⟩, ⟨47, 32, .rc, false⟩, ⟨31, 24, .rc, false⟩, ⟨23, 16, .rc, false⟩, ⟨15, 8, .rc, true⟩]⟩]

/-- The SEC_ block, in ascending offset. -/
def regsSec : List RegDesc := [
  ⟨0x0300000, 0x0000000000000000, [⟨63, 62, .ro, true⟩, ⟨61, 61, .ro, true⟩, ⟨60, 60, .ro, true⟩, ⟨59, 59, .ro, false⟩, ⟨55, 52, .ro, true⟩, ⟨51, 48, .ro, true⟩, ⟨47, 46, .ro, false⟩, ⟨45, 45, .ro, false⟩, ⟨44, 38, .ro, true⟩, ⟨37, 31, .ro, false⟩]⟩,
  ⟨0x0300008, 0x0000000000000000, [⟨63, 63, .wo, false⟩, ⟨9, 8, .wo, false⟩, ⟨6, 0, .wo, false⟩]⟩,
  ⟨0x0300010, 0x0000000000000000, [⟨63, 62, .ro, false⟩, ⟨61, 61, .ro, false⟩, ⟨6, 0, .ro, false⟩]⟩,
  ⟨0x0300018, 0x0000000000000000, [⟨3, 0, .rw, false⟩]⟩,
  ⟨0x0300020, 0x0000000000000000, [⟨31, 0, .ro, false⟩]⟩,
  ⟨0x0300028, 0x0000000000000000, [⟨63, 0, .ro, false⟩]⟩,
  ⟨0x0300030, 0x0000000000000000, [⟨63, 0, .ro, false⟩]⟩,
  ⟨0x0300038, 0x0000000000000000, [⟨63, 0, .ro, false⟩]⟩,
  ⟨0x0300040, 0x0000000000000000, [⟨63, 0, .ro, false⟩]⟩,
  ⟨0x0300048, 0x0000000000000000, [⟨63, 0, .ro, false⟩]⟩,
  ⟨0x0300050, 0x0000000000000000, [⟨63, 0, .ro, false⟩]⟩,
  ⟨0x0300058, 0x0000000000000000, [⟨63, 0, .ro, false⟩]⟩,
  ⟨0x0300060, 0x0000000000000000, [⟨63, 0, .ro, false⟩]⟩]

/-- The ERR_ block, in ascending offset. -/
def regsErr : List RegDesc := [
  ⟨0x0400000, 0x0000000000000001, [⟨0, 0, .rw, false⟩]⟩,
  ⟨0x0400008, 0x0000000000000000, [⟨63, 56, .ro, true⟩, ⟨55, 53, .ro, true⟩, ⟨52, 49, .ro, true⟩, ⟨48, 41, .ro, true⟩, ⟨40, 34, .ro, true⟩, ⟨25, 0, .ro, true⟩]⟩,
  ⟨0x0400010, 0x0000000000000000, [⟨63, 0, .ro, true⟩]⟩,
  ⟨0x0400018, 0x0000000000000000, [⟨31, 0, .ro, true⟩]⟩,
  ⟨0x0400020, 0x0000000000000000, [⟨5, 0, .rw, true⟩]⟩,
  ⟨0x0400028, 0x0000000000000000, [⟨63, 0, .ro, true⟩]⟩,
  ⟨0x0400030, 0x0000000000000000, [⟨63, 0, .ro, true⟩]⟩,
  ⟨0x0400038, 0x0000000000000000, [⟨63, 0, .ro, true⟩]⟩,
  ⟨0x0400040, 0x0000000000000000, [⟨63, 0, .ro, true⟩]⟩,
  ⟨0x0400048, 0x0000000000000000, [⟨63, 0, .ro, true⟩]⟩,
  ⟨0x0400050, 0x0000000000000000, [⟨63, 0, .ro, true⟩]⟩,
  ⟨0x0400058, 0x0000000000000000, [⟨63, 0, .ro, true⟩]⟩,
  ⟨0x0400060, 0x0000000000000000, [⟨63, 0, .ro, true⟩]⟩,
  ⟨0x0400068, 0x0000000000000000, [⟨63, 63, .w1c, true⟩, ⟨62, 62, .ro, true⟩]⟩,
  ⟨0x0400070, 0x0000000000000000, [⟨63, 63, .w1c, true⟩, ⟨62, 62, .ro, true⟩, ⟨55, 48, .ro, true⟩, ⟨47, 32, .ro, true⟩, ⟨15, 0, .ro, true⟩]⟩,
  ⟨0x0400078, 0x0000000000000000, [⟨63, 0, .ro, true⟩]⟩,
  ⟨0x0400080, 0x0000000000000000, [⟨18, 16, .wo, false⟩, ⟨14, 0, .wo, false⟩]⟩,
  ⟨0x0400088, 0x0000000000000000, [⟨63, 63, .ro, true⟩, ⟨62, 60, .ro, true⟩, ⟨59, 45, .ro, true⟩]⟩,
  ⟨0x0400090, 0x0000000000000000, [⟨63, 48, .rc, true⟩, ⟨47, 40, .rc, true⟩, ⟨39, 32, .rc, true⟩, ⟨31, 16, .rc, true⟩, ⟨15, 8, .rc, true⟩, ⟨7, 0, .rc, true⟩]⟩]

/-- The CMP_ block, in ascending offset. -/
def regsCmp : List RegDesc := [
  ⟨0x0500300, 0x0000000000000000, [⟨63, 48, .ro, false⟩, ⟨47, 32, .ro, false⟩, ⟨31, 16, .ro, false⟩, ⟨6, 6, .w1c, false⟩, ⟨5, 5, .w1c, false⟩, ⟨4, 4, .w1c, false⟩, ⟨3, 3, .w1c, false⟩, ⟨2, 2, .w1c, false⟩, ⟨1, 1, .w1c, false⟩, ⟨0, 0, .w1c, false⟩]⟩,
  ⟨0x0500308, 0x0000000000000000, [⟨63, 32, .ro, false⟩, ⟨31, 22, .ro, false⟩, ⟨21, 21, .w1c, false⟩, ⟨20, 19, .ro, false⟩, ⟨15, 8, .ro, false⟩, ⟨7, 0, .ro, false⟩]⟩,
  ⟨0x0500400, 0x0000000000000000, [⟨14, 7, .rw, false⟩, ⟨6, 0, .rw, false⟩]⟩,
  ⟨0x0500408, 0x0000000000000000, [⟨63, 61, .ro, false⟩, ⟨60, 56, .ro, false⟩, ⟨52, 48, .ro, false⟩, ⟨47, 0, .ro, false⟩]⟩,
  ⟨0x0500410, 0x0000000000000000, [⟨32, 32, .ro, false⟩, ⟨31, 0, .ro, false⟩]⟩,
  ⟨0x0500418, 0x0000000000000000, [⟨63, 48, .rc, false⟩, ⟨47, 32, .rc, false⟩, ⟨31, 0, .rc, false⟩]⟩,
  ⟨0x0500500, 0x0000000000000000, [⟨9, 0, .rw, false⟩]⟩,
  ⟨0x0500508, 0x0000000000000000, [⟨63, 63, .ro, false⟩, ⟨62, 62, .ro, false⟩, ⟨61, 57, .ro, false⟩, ⟨56, 56, .ro, false⟩, ⟨55, 55, .ro, false⟩, ⟨54, 54, .ro, false⟩, ⟨53, 53, .ro, false⟩, ⟨52, 52, .ro, false⟩, ⟨51, 51, .ro, false⟩]⟩,
  ⟨0x0500510, 0x0000000000000000, [⟨63, 32, .rc, false⟩, ⟨31, 16, .rc, false⟩, ⟨15, 0, .rc, false⟩]⟩,
  ⟨0x0500518, 0x0000000000000000, [⟨63, 0, .ro, false⟩]⟩,
  ⟨0x0500520, 0x0000000000000000, [⟨63, 0, .ro, false⟩]⟩]

/-- The DSU_ block, in ascending offset. -/
def regsDsu : List RegDesc := [
  ⟨0x0600000, 0x0000000000002814, [⟨15, 8, .rw, false⟩, ⟨7, 0, .rw, false⟩]⟩,
  ⟨0x0600008, 0x0000000000000000, [⟨4, 0, .rw, false⟩]⟩,
  ⟨0x0600010, 0x0000000000000000, [⟨63, 57, .ro, false⟩, ⟨56, 53, .ro, false⟩, ⟨52, 46, .ro, false⟩, ⟨45, 43, .ro, false⟩, ⟨42, 36, .ro, false⟩]⟩,
  ⟨0x0600018, 0x0000000000000000, [⟨63, 48, .rc, false⟩, ⟨47, 32, .rc, false⟩, ⟨31, 24, .rc, false⟩, ⟨23, 16, .rc, false⟩, ⟨15, 8, .rc, false⟩, ⟨7, 4, .rc, false⟩, ⟨3, 0, .rc, false⟩]⟩]

/-- The PUU_ block, in ascending offset. -/
def regsPuu : List RegDesc := [
  ⟨0x0700000, 0x7FF0000000000000, [⟨63, 0, .rw, false⟩]⟩,
  ⟨0x0700008, 0x0000000000000000, [⟨3, 0, .rw, false⟩]⟩,
  ⟨0x0700010, 0x0000000000000000, [⟨36, 16, .rws, false⟩]⟩,
  ⟨0x0700018, 0x0000000000000000, [⟨12, 0, .rws, false⟩]⟩,
  ⟨0x0700020, 0x0000000000000000, [⟨0, 0, .wo, false⟩]⟩,
  ⟨0x0700028, 0x0000000000000000, [⟨63, 63, .ro, false⟩, ⟨62, 60, .ro, false⟩, ⟨59, 57, .ro, false⟩, ⟨56, 56, .ro, false⟩, ⟨55, 54, .ro, false⟩, ⟨53, 42, .ro, false⟩]⟩,
  ⟨0x0700030, 0x0000000000000000, [⟨63, 48, .rc, false⟩, ⟨47, 40, .rc, false⟩, ⟨39, 32, .rc, false⟩, ⟨31, 24, .rc, false⟩, ⟨23, 16, .rc, false⟩, ⟨15, 8, .rc, false⟩, ⟨7, 4, .rc, false⟩, ⟨3, 0, .rc, false⟩]⟩]

/-- The MEM_ block, in ascending offset. -/
def regsMem : List RegDesc := [
  ⟨0x0800000, 0x00000000005F5500, [⟨23, 16, .rws, false⟩, ⟨15, 8, .rws, false⟩]⟩,
  ⟨0x0800008, 0x0000000000000000, [⟨1, 1, .ro, false⟩, ⟨0, 0, .wo, false⟩]⟩,
  ⟨0x0800010, 0x0000000000000010, [⟨7, 0, .rw, false⟩]⟩,
  ⟨0x0800018, 0x0000000000000000, [⟨3, 0, .rw, false⟩]⟩,
  ⟨0x0800020, 0x0000000000000000, [⟨63, 62, .ro, false⟩, ⟨61, 60, .ro, false⟩, ⟨59, 59, .ro, true⟩, ⟨58, 49, .ro, false⟩, ⟨48, 41, .ro, false⟩, ⟨40, 29, .ro, false⟩, ⟨28, 28, .ro, false⟩, ⟨27, 27, .ro, false⟩]⟩,
  ⟨0x0800028, 0x0000000000000000, [⟨63, 0, .rc, false⟩]⟩,
  ⟨0x0800030, 0x0000000000000000, [⟨63, 0, .rc, false⟩]⟩,
  ⟨0x0800038, 0x0000000000000000, [⟨63, 48, .rc, false⟩, ⟨47, 32, .rc, false⟩, ⟨31, 16, .rc, false⟩, ⟨15, 8, .rc, false⟩, ⟨7, 0, .rc, false⟩]⟩,
  ⟨0x0800040, 0x0000000000000000, [⟨63, 63, .w1c, false⟩, ⟨62, 59, .ro, false⟩, ⟨58, 54, .ro, false⟩, ⟨53, 48, .ro, false⟩, ⟨47, 30, .ro, false⟩]⟩]

/-- The TIER_ block, in ascending offset. -/
def regsTier : List RegDesc := [
  ⟨0x0900000, 0x0000000000000000, [⟨3, 0, .rw, false⟩]⟩,
  ⟨0x0900008, 0x0000000000000000, [⟨63, 63, .ro, false⟩, ⟨62, 62, .ro, false⟩, ⟨61, 60, .ro, false⟩, ⟨55, 40, .ro, false⟩, ⟨39, 35, .ro, false⟩, ⟨34, 22, .ro, false⟩, ⟨21, 18, .ro, false⟩]⟩,
  ⟨0x0900010, 0x0000000000000000, [⟨63, 0, .rc, false⟩]⟩,
  ⟨0x0900018, 0x0000000000000000, [⟨63, 0, .rc, false⟩]⟩,
  ⟨0x0900020, 0x0000000000000000, [⟨63, 56, .ro, false⟩, ⟨55, 40, .rc, false⟩, ⟨39, 24, .rc, false⟩]⟩,
  ⟨0x0900028, 0x0000000000000000, [⟨22, 0, .ro, false⟩]⟩]

/-- The PX_ block, in ascending offset. -/
def regsPx : List RegDesc := [
  ⟨0x0A00000, 0x0000000000000000, [⟨5, 0, .rw, false⟩]⟩,
  ⟨0x0A00008, 0x0000000000000000, [⟨63, 61, .ro, false⟩, ⟨52, 48, .ro, false⟩, ⟨47, 0, .ro, false⟩]⟩,
  ⟨0x0A00010, 0x0000000000000000, [⟨63, 32, .rc, false⟩, ⟨31, 0, .rc, false⟩]⟩]

/-- The FAB_ block, in ascending offset. -/
def regsFab : List RegDesc := [
  ⟨0x0B00000, 0x000000000000FFFF, [⟨15, 0, .ro, true⟩]⟩,
  ⟨0x0B00008, 0x0000000000000000, [⟨26, 0, .rw, false⟩]⟩,
  ⟨0x0B00010, 0x0000000000000000, [⟨63, 63, .ro, false⟩, ⟨62, 62, .ro, false⟩, ⟨17, 16, .ro, false⟩, ⟨15, 0, .ro, false⟩]⟩,
  ⟨0x0B00018, 0x0000000000000000, [⟨1, 1, .ro, false⟩, ⟨0, 0, .wo, false⟩]⟩,
  ⟨0x0B00020, 0x0000000000000000, [⟨63, 48, .rc, false⟩, ⟨47, 32, .rc, false⟩, ⟨31, 16, .rc, false⟩, ⟨15, 8, .rc, false⟩, ⟨7, 0, .rc, false⟩]⟩,
  ⟨0x0B00028, 0x0000000000000000, [⟨63, 63, .w1c, false⟩, ⟨62, 59, .ro, false⟩, ⟨58, 57, .ro, false⟩, ⟨56, 41, .ro, false⟩, ⟨40, 14, .ro, false⟩]⟩]

/-- The LNK_ block, in ascending offset. -/
def regsLnk : List RegDesc := [
  ⟨0x0C00000, 0x0000000000000000, [⟨13, 6, .rws, true⟩, ⟨5, 2, .rws, true⟩, ⟨1, 0, .ro, true⟩]⟩,
  ⟨0x0C00008, 0x0000000000000000, [⟨63, 48, .ro, true⟩, ⟨0, 0, .wo, false⟩]⟩,
  ⟨0x0C00010, 0x0000000000000000, [⟨5, 0, .rw, true⟩]⟩,
  ⟨0x0C00018, 0x0000000000000000, [⟨63, 62, .ro, true⟩, ⟨19, 18, .rws, false⟩, ⟨17, 17, .rws, true⟩, ⟨15, 0, .rws, true⟩]⟩,
  ⟨0x0C00020, 0x0000000000000000, [⟨31, 0, .rws, true⟩]⟩,
  ⟨0x0C00028, 0x0000000000000000, [⟨63, 0, .ro, true⟩]⟩,
  ⟨0x0C00030, 0x0000000000000000, [⟨9, 8, .rw, true⟩, ⟨7, 0, .rw, true⟩]⟩,
  ⟨0x0C00038, 0x0000000000000000, [⟨63, 63, .rw, true⟩, ⟨31, 0, .rw, true⟩]⟩,
  ⟨0x0C00040, 0x0000000000000000, [⟨4, 0, .rw, true⟩]⟩,
  ⟨0x0C00048, 0x0000000000000001, [⟨3, 3, .wo, false⟩, ⟨2, 1, .rw, true⟩, ⟨0, 0, .rw, true⟩]⟩,
  ⟨0x0C00050, 0x0000000000000000, [⟨63, 61, .ro, true⟩, ⟨60, 60, .ro, true⟩, ⟨59, 44, .ro, true⟩, ⟨43, 39, .ro, true⟩, ⟨38, 31, .ro, true⟩, ⟨30, 23, .ro, false⟩, ⟨22, 15, .ro, false⟩]⟩,
  ⟨0x0C00058, 0x0000000000000000, [⟨63, 48, .rc, true⟩, ⟨47, 32, .rc, true⟩, ⟨31, 16, .rc, true⟩, ⟨15, 8, .rc, true⟩, ⟨7, 4, .rc, true⟩, ⟨3, 0, .rc, true⟩]⟩,
  ⟨0x0C00060, 0x0000000000000000, [⟨63, 56, .ro, false⟩, ⟨55, 48, .ro, false⟩, ⟨47, 40, .ro, false⟩, ⟨39, 32, .ro, false⟩]⟩,
  ⟨0x0C00068, 0x1111111100010040, [⟨63, 32, .rw, true⟩, ⟨16, 16, .rw, true⟩, ⟨15, 0, .rw, true⟩]⟩]

/-- The TIM_ block, in ascending offset. -/
def regsTim : List RegDesc := [
  ⟨0x0D00000, 0x0000000000000000, [⟨63, 0, .ro, true⟩]⟩,
  ⟨0x0D00008, 0x0000000000000000, [⟨7, 7, .rw, true⟩, ⟨6, 6, .rw, true⟩, ⟨5, 5, .rw, true⟩, ⟨4, 0, .rw, true⟩]⟩,
  ⟨0x0D00010, 0x0000000000000000, [⟨15, 0, .rw, true⟩]⟩,
  ⟨0x0D00018, 0x0000000000000000, [⟨63, 62, .ro, true⟩, ⟨61, 58, .ro, true⟩, ⟨55, 40, .ro, true⟩, ⟨39, 24, .ro, true⟩, ⟨23, 0, .ro, true⟩]⟩,
  ⟨0x0D00020, 0x000000000000C350, [⟨31, 0, .rw, false⟩]⟩,
  ⟨0x0D00028, 0x0000000000000000, [⟨63, 0, .wo, false⟩]⟩,
  ⟨0x0D00030, 0x0000000000000000, [⟨0, 0, .wo, false⟩]⟩,
  ⟨0x0D00038, 0x0000000000000000, [⟨63, 48, .ro, false⟩, ⟨47, 44, .ro, false⟩, ⟨43, 42, .ro, false⟩, ⟨41, 26, .ro, false⟩, ⟨25, 10, .ro, false⟩]⟩,
  ⟨0x0D00040, 0x0000000000000000, [⟨63, 0, .ro, false⟩]⟩,
  ⟨0x0D00048, 0x0000000000000000, [⟨63, 48, .rc, false⟩, ⟨47, 40, .rc, false⟩, ⟨39, 32, .rc, false⟩, ⟨31, 24, .rc, false⟩, ⟨23, 16, .rc, false⟩]⟩]

/-- The COL_ block, in ascending offset. -/
def regsCol : List RegDesc := [
  ⟨0x0E00000, 0x0001F40005F5E100, [⟨55, 40, .rw, false⟩, ⟨39, 0, .rw, false⟩]⟩,
  ⟨0x0E00008, 0x0000000000000000, [⟨13, 8, .rw, false⟩, ⟨4, 0, .rw, false⟩]⟩,
  ⟨0x0E00010, 0x0000000000000000, [⟨63, 55, .ro, false⟩, ⟨54, 48, .ro, false⟩]⟩,
  ⟨0x0E00018, 0x0000000000000000, [⟨63, 48, .rc, false⟩, ⟨47, 40, .rc, false⟩, ⟨39, 32, .rc, false⟩, ⟨31, 16, .rc, false⟩, ⟨15, 8, .rc, false⟩, ⟨7, 0, .rc, false⟩]⟩,
  ⟨0x0E00020, 0x0000000000000000, [⟨63, 63, .ro, false⟩, ⟨62, 62, .ro, false⟩, ⟨61, 59, .ro, false⟩, ⟨58, 54, .ro, false⟩, ⟨53, 40, .ro, false⟩, ⟨39, 24, .ro, false⟩, ⟨23, 10, .ro, false⟩]⟩,
  ⟨0x0E00028, 0x0000000000000000, [⟨63, 0, .ro, false⟩]⟩,
  ⟨0x0E00030, 0x0000000000000000, [⟨63, 51, .ro, false⟩, ⟨50, 35, .ro, false⟩, ⟨34, 0, .ro, false⟩]⟩,
  ⟨0x0E00038, 0x0000000000000000, [⟨63, 40, .ro, false⟩, ⟨39, 16, .rc, false⟩, ⟨15, 0, .rc, false⟩]⟩,
  ⟨0x0E00040, 0x0000000000000000, [⟨63, 48, .ro, false⟩, ⟨47, 16, .ro, false⟩, ⟨15, 0, .ro, false⟩]⟩,
  ⟨0x0E00100, 0x0000000000000000, [⟨63, 0, .wo, false⟩]⟩,
  ⟨0x0E00108, 0x0000000000000000, [⟨63, 0, .wo, false⟩]⟩,
  ⟨0x0E00110, 0x0000000000000000, [⟨63, 0, .wo, false⟩]⟩,
  ⟨0x0E00118, 0x0000000000000000, [⟨63, 0, .wo, false⟩]⟩,
  ⟨0x0E00120, 0x0000000000000000, [⟨63, 0, .wo, false⟩]⟩,
  ⟨0x0E00128, 0x0000000000000000, [⟨63, 0, .wo, false⟩]⟩,
  ⟨0x0E00130, 0x0000000000000000, [⟨63, 0, .wo, false⟩]⟩,
  ⟨0x0E00138, 0x0000000000000000, [⟨63, 0, .wo, false⟩]⟩,
  ⟨0x0E00140, 0x0000000000000000, [⟨63, 0, .wo, false⟩]⟩,
  ⟨0x0E00148, 0x0000000000000000, [⟨63, 0, .wo, false⟩]⟩,
  ⟨0x0E00150, 0x0000000000000000, [⟨63, 0, .wo, false⟩]⟩,
  ⟨0x0E00158, 0x0000000000000000, [⟨63, 0, .wo, false⟩]⟩,
  ⟨0x0E00160, 0x0000000000000000, [⟨63, 0, .wo, false⟩]⟩,
  ⟨0x0E00168, 0x0000000000000000, [⟨63, 0, .wo, false⟩]⟩,
  ⟨0x0E00170, 0x0000000000000000, [⟨63, 0, .wo, false⟩]⟩,
  ⟨0x0E00178, 0x0000000000000000, [⟨63, 0, .wo, false⟩]⟩,
  ⟨0x0E00180, 0x0000000000000000, [⟨63, 0, .wo, false⟩]⟩,
  ⟨0x0E00188, 0x0000000000000000, [⟨63, 0, .wo, false⟩]⟩,
  ⟨0x0E00190, 0x0000000000000000, [⟨63, 0, .wo, false⟩]⟩,
  ⟨0x0E00198, 0x0000000000000000, [⟨63, 0, .wo, false⟩]⟩,
  ⟨0x0E001A0, 0x0000000000000000, [⟨63, 0, .wo, false⟩]⟩,
  ⟨0x0E001A8, 0x0000000000000000, [⟨63, 0, .wo, false⟩]⟩,
  ⟨0x0E001B0, 0x0000000000000000, [⟨63, 0, .wo, false⟩]⟩,
  ⟨0x0E001B8, 0x0000000000000000, [⟨63, 0, .wo, false⟩]⟩,
  ⟨0x0E001C0, 0x0000000000000000, [⟨63, 0, .wo, false⟩]⟩,
  ⟨0x0E001C8, 0x0000000000000000, [⟨63, 0, .wo, false⟩]⟩,
  ⟨0x0E001D0, 0x0000000000000000, [⟨63, 0, .wo, false⟩]⟩,
  ⟨0x0E001D8, 0x0000000000000000, [⟨63, 0, .wo, false⟩]⟩,
  ⟨0x0E001E0, 0x0000000000000000, [⟨63, 0, .wo, false⟩]⟩,
  ⟨0x0E001E8, 0x0000000000000000, [⟨63, 0, .wo, false⟩]⟩,
  ⟨0x0E001F0, 0x0000000000000000, [⟨63, 0, .wo, false⟩]⟩,
  ⟨0x0E001F8, 0x0000000000000000, [⟨63, 0, .wo, false⟩]⟩]

/-- The DIG_ block, in ascending offset. -/
def regsDig : List RegDesc := [
  ⟨0x0F00000, 0x0000000000000000, [⟨63, 0, .wo, false⟩]⟩,
  ⟨0x0F00008, 0x0000000000000000, [⟨63, 0, .wo, false⟩]⟩,
  ⟨0x0F00010, 0x0000000000000000, [⟨63, 0, .wo, false⟩]⟩,
  ⟨0x0F00018, 0x0000000000000000, [⟨63, 0, .wo, false⟩]⟩,
  ⟨0x0F00020, 0x0000000000000000, [⟨63, 0, .wo, false⟩]⟩,
  ⟨0x0F00028, 0x0000000000000000, [⟨63, 0, .wo, false⟩]⟩,
  ⟨0x0F00030, 0x0000000000000000, [⟨63, 0, .wo, false⟩]⟩,
  ⟨0x0F00038, 0x0000000000000000, [⟨63, 0, .wo, false⟩]⟩,
  ⟨0x0F00040, 0x0000000000000000, [⟨63, 0, .wo, false⟩]⟩,
  ⟨0x0F00048, 0x0000000000000000, [⟨63, 0, .wo, false⟩]⟩,
  ⟨0x0F00050, 0x0000000000000000, [⟨63, 0, .wo, false⟩]⟩,
  ⟨0x0F00058, 0x0000000000000000, [⟨63, 0, .wo, false⟩]⟩,
  ⟨0x0F00060, 0x0000000000000000, [⟨63, 0, .wo, false⟩]⟩,
  ⟨0x0F00068, 0x0000000000000000, [⟨63, 0, .wo, false⟩]⟩,
  ⟨0x0F00070, 0x0000000000000000, [⟨63, 0, .wo, false⟩]⟩,
  ⟨0x0F00078, 0x0000000000000000, [⟨63, 0, .wo, false⟩]⟩,
  ⟨0x0F00080, 0x0000000000000000, [⟨63, 0, .ro, false⟩]⟩,
  ⟨0x0F00088, 0x0000000000000000, [⟨63, 0, .ro, false⟩]⟩,
  ⟨0x0F00090, 0x0000000000000000, [⟨63, 0, .ro, false⟩]⟩,
  ⟨0x0F00098, 0x0000000000000000, [⟨63, 0, .ro, false⟩]⟩,
  ⟨0x0F000A0, 0x0000000000000000, [⟨63, 0, .ro, false⟩]⟩,
  ⟨0x0F000A8, 0x0000000000000000, [⟨63, 0, .ro, false⟩]⟩,
  ⟨0x0F000B0, 0x0000000000000000, [⟨63, 0, .ro, false⟩]⟩,
  ⟨0x0F000B8, 0x0000000000000000, [⟨63, 0, .ro, false⟩]⟩,
  ⟨0x0F000C0, 0x0000000000000000, [⟨63, 0, .ro, false⟩]⟩,
  ⟨0x0F000C8, 0x0000000000000000, [⟨63, 0, .ro, false⟩]⟩,
  ⟨0x0F000D0, 0x0000000000000000, [⟨63, 0, .ro, false⟩]⟩,
  ⟨0x0F000D8, 0x0000000000000000, [⟨63, 0, .ro, false⟩]⟩,
  ⟨0x0F000E0, 0x0000000000000000, [⟨63, 0, .ro, false⟩]⟩,
  ⟨0x0F000E8, 0x0000000000000000, [⟨63, 0, .ro, false⟩]⟩,
  ⟨0x0F000F0, 0x0000000000000000, [⟨63, 0, .ro, false⟩]⟩,
  ⟨0x0F000F8, 0x0000000000000000, [⟨63, 0, .ro, false⟩]⟩,
  ⟨0x0F00100, 0x0000000000000000, [⟨63, 48, .rc, false⟩, ⟨47, 40, .rc, false⟩, ⟨39, 0, .rc, false⟩]⟩]

/-- The SPL_ block, in ascending offset. -/
def regsSpl : List RegDesc := [
  ⟨0x1000000, 0x0000000000000000, [⟨63, 0, .wo, false⟩]⟩,
  ⟨0x1000008, 0x0000000000000000, [⟨63, 63, .ro, false⟩, ⟨62, 60, .ro, false⟩, ⟨59, 56, .ro, false⟩, ⟨55, 55, .ro, false⟩, ⟨54, 48, .ro, false⟩, ⟨47, 20, .ro, false⟩]⟩,
  ⟨0x1000010, 0x0000000000000000, [⟨63, 48, .rc, false⟩, ⟨47, 16, .rc, false⟩, ⟨15, 8, .rc, false⟩, ⟨7, 0, .rc, false⟩]⟩,
  ⟨0x1000018, 0x0000000000000000, [⟨63, 24, .rc, false⟩, ⟨23, 0, .rc, false⟩]⟩,
  ⟨0x1000020, 0x0000000000000000, [⟨63, 63, .w1c, false⟩, ⟨47, 32, .ro, false⟩, ⟨13, 0, .ro, false⟩]⟩,
  ⟨0x1000028, 0x0000000000000000, [⟨63, 0, .ro, false⟩]⟩,
  ⟨0x1000030, 0x0000000000000000, [⟨63, 0, .ro, false⟩]⟩]

/-- Every register, block by block (Table 14-3). -/
def blockRegs : Nat → List RegDesc
  | 0 => regsHif
  | 1 => regsMgt
  | 2 => regsPwr
  | 3 => regsSec
  | 4 => regsErr
  | 5 => regsCmp
  | 6 => regsDsu
  | 7 => regsPuu
  | 8 => regsMem
  | 9 => regsTier
  | 10 => regsPx
  | 11 => regsFab
  | 12 => regsLnk
  | 13 => regsTim
  | 14 => regsCol
  | 15 => regsDig
  | 16 => regsSpl
  | _ => []

/-- The description of the register at a register-space offset, if one is there. -/
def regDesc (off : Nat) : Option RegDesc := (blockRegs (off / 0x100000)).find? fun d => d.off == off

/-- The reset word of a storage key: the offset plus 2^26 for each unit of a selected view. -/
def regReset (key : Nat) : Word64 := ((regDesc (key % 0x4000000)).map (·.reset)).getD 0

end Sys2Proof.Machine
end

