-- ==== Sys2Proof/Machine/Types.lean ====
section
/-! DEFINITION. The kinds of state the block holds beside its registers: thread states, remote operations, regions,
ports, and the queues of its units. -/

namespace Sys2Proof.Machine

/-- Table 03-3. -/
inductive HState where
  | empty | ready | running | parked | waiting | aborted
  deriving DecidableEq, Repr

/-- Atomic operations at a home (Table 03-7, and the A extension). -/
inductive AmoKind where
  | add | min | max | minu | maxu | and | or | xor | swap
  deriving DecidableEq, Repr

/-- The Xeol instructions of Tables 03-7 and 03-8 and of the tensor set, as an issued instruction. -/
inductive Xop where
  | ld (size : BitVec 2) (rd rs1 : Rg)
  | ldu (size : BitVec 2) (rd rs1 : Rg)
  | st (size : BitVec 2) (rs1 rs2 : Rg)
  | ldv (size : BitVec 2) (vd rs1 : Rg)
  | stv (size : BitVec 2) (rs1 vs : Rg)
  | put (rd rs1 : Rg)
  | get (rd rs1 : Rg)
  | amo (k : AmoKind) (rd rs1 rs2 : Rg)
  | cas (q : Bool) (rd rs1 rs2 : Rg)
  | fadd (rd rs1 fs2 : Rg)
  | fence (rd : Rg)
  | hand (rd rs1 rs2 : Rg)
  | yield
  | bwait (rd rs1 rs2 : Rg)
  | sleep (rd rs1 : Rg)
  | finish (rd rs1 rs2 : Rg)
  | dsu (w : Bool) (rd rs1 : Rg)
  | puu (w : Bool) (rd rs1 rs2 : Rg)
  | exit
  | tmma (passes : BitVec 2) (rd rs1 rs2 : Rg)
  | tcvt (scale ovf : Bool) (rd rs1 rs2 : Rg)
  | trd (scale ovf : Bool) (rd rs1 rs2 : Rg)
  | tzero (rd rs2 : Rg)
  | tfill (rd rs1 rs2 : Rg)
  | tspill (rd rs1 rs2 : Rg)
  | twait (rd rs2 : Rg)
  | tstat (rd rs1 rs2 : Rg)
  deriving DecidableEq, Repr

/-- What a remote operation does when its reply reaches the core (R206). -/
inductive RopKind where
  | load (bytes : Nat) (signed : Bool) (rd : Rg)
  | loadv (bytes : Nat) (vd : Rg)
  | store
  | put
  | get (local_ : Nat) (len : Nat)
  | amo (rd : Rg)
  | cas (bytes : Nat) (rd : Rg)
  | fadd
  | hand (rd : Rg)
  | std (word : Word32)
  deriving DecidableEq, Repr

/-- One outstanding remote operation of a context (R77, R205): its program-order number, its request-table entry and
generation (Table 09-7, TXN), and the reply once it has reached the package. -/
structure Rop where
  num      : Nat
  entry    : Nat
  gen      : Nat
  kind     : RopKind
  posted   : Bool
  deadline : Nat
  reply    : Option (Half × List Byte)
  deriving DecidableEq, Repr

/-- What a parked or waiting context waits for (R62, Table 03-13). -/
inductive Wait where
  | none
  /-- A standard instruction whose memory is protected or in reset: performed when that ends (R291, R316). -/
  | memory (word : Word32)
  /-- The response to a performed standard access beyond the core's own core-local SRAM, by its number and the instruction's
  length (R62, R66). -/
  | response (num : Nat) (len : Nat)
  /-- A fetch, or a Xeol instruction's descriptor and the end of its stopwatch, in memory in reset (R316). -/
  | fetch
  | desc (x : Xop) (deadline : Nat)
  /-- The reply of remote operation num. -/
  | reply (num : Nat)
  /-- A free entry of the quota or of the core's request table, then the instruction issues (R77). -/
  | quota (x : Xop)
  | quotaStd (word : Word32)
  /-- XFENCE. -/
  | fence (rd : Rg)
  /-- The implicit fence of XHAND (R202), of XFINISH (R257) and of XEXIT. -/
  | handFence (rd : Rg) (addr : Word64) (operand : Word64) (deadline : Nat)
  | finishFence (rd : Rg) (comm lap deadline : Nat)
  | exitFence
  | baton (rd : Rg) (addr : Nat) (threshold : Nat) (met : Bool) (deadline : Nat)
  | sleep (rd : Rg) (tick : Nat)
  | finish (rd : Rg) (comm lap deadline : Nat) (fence : Half)
  /-- A full solver or update queue (R80). -/
  | unitQueue (x : Xop) (deadline : Nat)
  /-- XDSU or XPUU with W = 1: the numbered command of the unit. -/
  | dsu (rd : Rg) (unit : Nat) (id : Nat) (deadline : Nat)
  | puu (rd : Rg) (unit : Nat) (id : Nat) (deadline : Nat)
  /-- A full engine queue, XTWAIT and XTSTAT (chapter 04). -/
  | engQueue (x : Xop) (deadline : Nat)
  | engWait (rd : Rg) (eng : Nat) (deadline : Nat)
  | engStat (rd : Rg) (eng : Nat) (word : Nat) (deadline : Nat)
  | yield (others : List Nat)
  deriving DecidableEq, Repr

/-- One thread state: a context of a cluster core or an application core (R59, R74, R82, Table 03-6). -/
structure Ctx where
  st     : HState
  wait   : Wait
  pc     : Word64
  x      : List (Nat × Word64)
  f      : List (Nat × Word64)
  v      : List (Nat × Word256)
  fflags : BitVec 5
  frm    : BitVec 3
  vtype  : Word64
  vl     : Nat
  vstart : Nat
  vxrm   : BitVec 2
  vxsat  : BitVec 1
  xst    : Half
  xwlim  : Nat
  xclass : BitVec 3
  xrlim  : Nat
  /-- The logical thread number, none when the context holds no thread (Table 03-14). -/
  thread : Option Nat
  rops   : List Rop
  /-- The program-order number of the next operation that a reply or a response ends. -/
  nextOp : Nat
  /-- Posted operations that ended with a status other than ST_OK, not yet reported by a fence (R76). -/
  failed : List (Nat × Half)
  /-- The LR/SC reservation granule (R71). -/
  resv   : Option Nat
  /-- Accepted tensor instructions not yet covered by an XTWAIT, oldest first: engine, its instruction number, and the
  completion status once there (R100). -/
  tensor : List (Nat × Nat × Option Half)
  /-- Arrivals of XFINISH instructions whose stopwatch ended in their fence: communicator, lap, and the operations the fence
  still waits for (R79, R257). -/
  late   : List (Nat × Nat × List Nat)
  deriving DecidableEq, Repr

/-- An empty context. -/
def Ctx.empty : Ctx :=
  ⟨.empty, .none, 0, [], [], [], 0, 0, 0, 0, 0, 0, 0, 0, 0, 0, 0, none, [], 0, [], none, [], []⟩

/-- Per core: the request-table generations (by entry) and the standard instruction count (R72), which counts per core.
Cluster core g has number g, application core p has 256 + p; they share the generations of TXN core field p (DEDUCED, log entry
14). -/
structure CoreRec where
  gens    : List (Nat × Nat)
  instret : Nat
  deriving DecidableEq, Repr

/-- A governed region (R197): its state and owner, and the tick in which they were set. -/
structure Region where
  state : Nat
  owner : Half
  at_   : Nat
  deriving DecidableEq, Repr

/-- Who hears that a hand-off has been performed: the requester of a packet, or operation num of a context (R202). -/
inductive HandTo where
  | packet (pk : Packet)
  | self (h : Hart) (num : Nat)
  | nobody
  deriving DecidableEq, Repr

/-- A hand-off that its home performs (R202): the region, the new state and owner, the tick in which they are set, none while
requests accepted before it are not yet complete. -/
structure Change where
  region : Nat
  state  : Nat
  owner  : Half
  due    : Option Nat
  told   : HandTo
  deriving DecidableEq, Repr

/-- A memory operation performed whole at its home (R187 to R190). -/
inductive MemOp where
  | load (n : Nat)
  | store (bytes : List Byte)
  | amo (k : AmoKind) (size : Nat) (operand : Nat)
  | cas (size : Nat) (expected new : Nat)
  | fadd (term : Word64)
  deriving DecidableEq, Repr

/-- An event of a unit whose writes wait for a protected granule (R291) or which reads memory in reset (R316): it happens when
the wait ends. Stall and group counts are those the event came with. -/
inductive UnitEvent where
  | engine (eng : Nat) (xfer : Bool) (stall : Nat)
  | lane (op unit lane stall : Nat)
  | heat (unit : Nat)
  | puu (unit op groups : Nat)
  | puuEnd (unit stall parkWait : Nat)
  | dig (unit : Nat)
  | transfer (id : Nat)
  | relay (unit : Nat)
  | hostRead (addr len : Nat)
  | mgmt
  deriving DecidableEq, Repr

/-- The work an event belongs to: of one work one event waits, however often it is sent. -/
def UnitEvent.work : UnitEvent → UnitEvent
  | .engine e x _ => .engine e x 0
  | .lane _ u l _ => .lane 0 u l 0
  | .puu u _ _ => .puu u 0 0
  | .puuEnd u _ _ => .puuEnd u 0 0
  | e => e

/-- An access held at its home (R192, R202, R291, R316) and who goes on when it is released. -/
inductive HeldOp where
  /-- A parked standard instruction, performed at release. -/
  | core (h : Hart)
  /-- A self request of a context, of a class. -/
  | self (h : Hart) (num : Nat) (cls : Nat) (addr : Nat) (op : MemOp)
  /-- A hand-off of a context to its own package, which waits for a change of the region. -/
  | selfHand (h : Hart) (num : Nat) (addr : Nat) (operand : Nat)
  /-- Bytes of a get that arrived at this package. -/
  | getData (h : Hart) (num : Nat) (addr : Nat) (bytes : List Byte)
  /-- A remote request that its region's state has allowed, or a transfer's data. -/
  | remote (port : Nat) (pkt : Packet)
  /-- A remote request that arrived while its region changes: it is judged after the change (R202, R204). -/
  | arrived (port : Nat) (pkt : Packet)
  /-- A completion word or a status record, and the core that a report names. -/
  | write (addr : Nat) (bytes : List Byte) (core : Nat)
  /-- The read of a posted launch record, with its arrival tick. -/
  | launch (src : Source) (value : Word64) (arrival : Nat)
  /-- A post whose descriptor lies in memory in reset: the register's offset and the value. -/
  | post (off : Nat) (src : Source) (value : Word64)
  /-- A host CXL.mem write (R326). -/
  | host (addr : Nat) (bytes : List Byte)
  | unit (e : UnitEvent)
  deriving DecidableEq, Repr

/-- One held write: the granule or reset memory it waits for, and the tick it arrived (R292). -/
structure Held where
  granule : Nat
  since   : Nat
  op      : HeldOp
  deriving DecidableEq, Repr

/-- The engine instructions that produce a status record, in the order of their OP codes (Table 04-13). -/
inductive EngOp where
  | mma | cvt | rd | zero | fill | spill
  deriving DecidableEq, Repr

/-- An accepted tensor instruction (R97). -/
structure EngInstr where
  id      : Nat
  ctx     : Nat
  op      : EngOp
  slot    : Nat
  kind64  : Bool
  running : Bool
  /-- The descriptor as read at issue (R94, R96); the cell array's offset for XTFILL and XTSPILL. -/
  desc    : List Byte
  cells   : Nat
  /-- Passes used (R47), SCALE and OVF (R43). -/
  passes  : Nat
  scale   : Bool
  ovf     : Bool
  canon   : Bool
  /-- The issuing context has aborted. -/
  aborted : Bool
  deriving DecidableEq, Repr

/-- An instruction that has started; handover marks one that waits for a relay intake (R110). -/
structure EngRun where
  ins      : EngInstr
  start    : Nat
  refused  : Bool
  handover : Option (Half × Word64 × Word64)
  deriving DecidableEq, Repr

/-- An accumulator: the control word of Table 02-9 and the fixed-point value; in a RUNNING slot, ctl is 1 once the
element holds an encoding in val. -/
structure Cell where
  ctl : Word64
  val : Nat
  deriving DecidableEq, Repr

/-- An accumulator slot (R87). -/
structure Slot where
  init    : Bool
  kind64  : Bool
  running : Bool
  cells   : List (Nat × Cell)
  deriving DecidableEq, Repr

/-- One engine (R87). -/
structure Engine where
  slot0  : Slot
  slot1  : Slot
  queue  : List EngInstr
  array  : Option EngRun
  xfer   : Option EngRun
  nextId : Nat
  fenced : Bool
  /-- Contexts that wait for a queue entry, in the order in which their instructions issued (R97). -/
  waiters : List Nat
  deriving DecidableEq, Repr

/-- A heat as issued (R115): its descriptor and its issuer. -/
structure Heat where
  id      : Nat
  hart    : Nat
  desc    : List Byte
  aborted : Bool
  deriving DecidableEq, Repr

/-- A heat that has started: the thresholds latched (R118), the lanes still running with their problems, and the tick. -/
structure HeatRun where
  heat  : Heat
  tau64 : Nat
  tau32 : Nat
  todo  : List (Nat × Nat)
  start : Nat
  deriving DecidableEq, Repr

/-- One solver unit (R117). -/
structure Dsu where
  queue   : List Heat
  running : List HeatRun
  nextId  : Nat
  fenced  : Bool
  deriving DecidableEq, Repr

/-- An update command as issued (R142). -/
structure PuuCmd where
  id      : Nat
  hart    : Nat
  desc    : List Byte
  aborted : Bool
  deriving DecidableEq, Repr

/-- A started update command: the step record as it read it (R149), the next block and commit group, the counts of Table
06-3, the status so far. -/
structure PuuRun where
  cmd      : PuuCmd
  record   : List Byte
  /-- An earlier journal entry has been replayed (R156). -/
  replayed : Bool
  start    : Nat
  block    : Nat
  half     : Bool
  updated  : Nat
  rolled   : Nat
  already  : Nat
  refused  : Nat
  first    : Nat
  rolledParams : Nat
  status   : Half
  finished : Bool
  /-- Since when it waits for parked gradients, and the ticks it has waited before (PARK_WAIT of Table 06-3). -/
  parkFrom : Option Nat
  parkTicks : Nat
  deriving DecidableEq, Repr

/-- The valid journal entry of a slow-tier commit group (R156): the image pieces and the tag, and how far it is carried out: 0
written, 1 the image is copied, 2 the tag too. -/
structure Journal where
  lap   : Nat
  block : Nat
  group : Nat
  stage : Nat
  image : List (Nat × List Byte)
  tag   : Nat × List Byte
  deriving DecidableEq, Repr

/-- One update unit (R144, R157, R158, R161). -/
structure Puu where
  queue   : List PuuCmd
  run     : Option PuuRun
  nextId  : Nat
  fenced  : Bool
  journal : Option Journal
  /-- The ring: the head slot's number and the stamps (lap, block) of the slots in use, head first. -/
  head    : Nat
  ring    : List (Nat × Nat)
  /-- The checked values of a pending commit: PARK_BASE and PARK_SLOTS words. -/
  commit  : Option (Word64 × Word64)
  deriving DecidableEq, Repr

/-- A posted digest command (R282). -/
structure DigCmd where
  desc : List Byte
  src  : Source
  deriving DecidableEq, Repr

/-- One digest engine: the head of the queue is the running command. -/
structure Dig where
  queue  : List DigCmd
  fenced : Bool
  deriving DecidableEq, Repr

/-- One Remal Link port (R217 to R223). -/
structure Port where
  nextSeq  : Nat
  rxSeq    : Nat
  replay   : List (Nat × Nat × List Byte × Nat)
  nakSent  : Bool
  resends  : Nat
  /-- Slots taken per credit counter, the peer's reports of them, and slots this receiver has returned (R223). -/
  taken    : List (Nat × Nat)
  returned : List (Nat × Nat)
  freed    : List (Nat × Nat)
  crNext   : Nat
  /-- Packets waiting to leave, in order of arrival, and the round-robin state over classes (R224). -/
  queue    : List Packet
  rrClass  : Nat
  rrLeft   : Nat
  /-- Bytes of a packet still arriving, and whole packets received and not yet taken. -/
  partial_ : List Byte
  rx       : List Packet
  peer     : Option (List Byte)
  peerSeen : Bool
  /-- The tick it went DOWN. -/
  since    : Nat
  /-- The link has trained and the port stays TRAINING for want of an endpoint ID (R210); a full training runs while
  RETRAINING (Table 09-6); the tick of the last PARAM flit sent. -/
  trained  : Bool
  full     : Bool
  paramAt  : Nat
  /-- Bytes of the packet being sent that no flit has taken yet (R220, R224). -/
  txRest   : List Byte
  /-- The FEC message being filled, the place of the first flit that starts in it (1,023 for none), the codeword counter (R214). -/
  message  : List Byte
  first    : Nat
  codeword : Nat
  deriving DecidableEq, Repr

/-- A transfer block that failed its CRC-32C (R166): its line, how often it was sent and refused, whether its channel retrains. -/
structure Block where
  addr       : Nat
  failed     : Nat
  retraining : Bool
  deriving DecidableEq, Repr

/-- What UTIL_UPDATE measures (R181, R240): since which tick for each group; bytes moved by unit (`Mover.key`), relaxed packets sent and
those of them on detours. -/
structure Traffic where
  sinceStack : Nat
  sinceTier  : Nat
  sinceLink  : Nat
  moved   : List (Nat × Nat)
  relaxed : Nat
  detours : Nat
  deriving DecidableEq, Repr

/-- The combined fields of ARRIVE and RELEASE (Table 10-22). -/
structure Arrive where
  status    : Half
  lap       : Nat
  lastTick  : Nat
  lastEp    : Nat
  firstTick : Nat
  count     : Nat
  deriving DecidableEq, Repr

/-- A loaded communicator (Table 10-2) with its finish line (R257, R413): what this package has gathered from its own
arrivals, as node leader, as group leader and as root. -/
structure Comm where
  comm     : Nat
  mode     : Nat
  cls      : Nat
  slots    : Nat
  home     : Nat
  reserve  : Nat
  base     : Nat
  members  : List Nat
  arrivals : Nat
  sig      : Nat
  ring     : Nat
  lapDone  : Option Nat
  lap      : Option Nat
  arrived  : Nat
  /-- The tick at which this package arrived. -/
  ownTick  : Nat
  atNode   : Option Arrive
  atGroup  : Option Arrive
  atRoot   : Option Arrive
  deriving DecidableEq, Repr

/-- One SEND bound to a RECV (R245): its source, its SREF, its FMT, the elements or bytes that have arrived as (start, length)
pieces, and whether all have. -/
structure XSrc where
  ep    : Nat
  sref  : Nat
  fmt   : Nat
  got   : List (Nat × Nat)
  whole : Bool
  deriving DecidableEq, Repr

/-- How far a transfer has come (R244 to R247). -/
inductive XPhase where
  /-- A RECV without a match entry, a RECV open for matching. -/
  | waitEntry
  | open_ (entry gen : Nat)
  /-- A SEND whose RTS is out, or answered BUSY at a tick; a SEND bound to a RECV. -/
  | rts (at_ : Nat) (busy : Bool)
  | bound (rref : Nat) (own : Bool)
  | round
  deriving DecidableEq, Repr

/-- An accepted transfer (R244): its unit, its descriptor, its stopwatch's end and RETRY as then held (R263). -/
structure Xfer where
  unit     : Nat
  desc     : List Byte
  deadline : Nat
  retry    : Nat
  phase    : XPhase
  srcs     : List XSrc
  /-- Tiles forwarded by a RELAY SEND; blocks written to a ring by a PARK ROUND, and whether it waits for a slot. -/
  tiles    : Nat
  stalled  : Bool
  deriving DecidableEq, Repr

/-- A tile handed to a relay intake (R110, R253): its tag, its format, the pieces written (offset, bytes), the tick. -/
structure Tile where
  unit  : Nat
  tag   : Nat
  fmt   : Nat
  parts : List (Nat × Nat)
  since : Nat
  deriving DecidableEq, Repr

/-- A launch: its record (Table 11-3) and, once running, the lowest unstarted thread (R73). -/
structure Launch where
  bytes : List Byte
  next : Nat
  deriving DecidableEq, Repr

/-- A refused key (R275): the counter value until which it stays recorded, and the refusing endpoint. -/
structure LKey where
  tag   : Nat
  start : Nat
  keep  : Nat
  origin : Nat
  deriving DecidableEq, Repr

/-- The loaded run image: its header (Table 14-10), PROG, and the address of the communicator table (R241). -/
structure Image where
  hdr  : List Byte
  prog : List Byte
  table : Nat
  deriving DecidableEq, Repr

/-- A posted split command; busy says that a START was not yet complete when this START was posted (R289). -/
structure SplCmd where
  desc : List Byte
  src  : Source
  busy : Bool
  deriving DecidableEq, Repr

/-- The running split command (R289 to R293): its pieces to copy, the granules still protected in data order with their
places in the image, whether a copy has been requested ahead, and whether the last START has copied all. -/
structure SplRun where
  cmd     : SplCmd
  start   : Nat
  left    : List (Nat × Nat)
  copied  : Bool
  deriving DecidableEq, Repr

/-- Time synchronisation (R266 to R268): the configuration in effect, whether a TIM_CFG write waits for the next
exchange, whether the counter has been set and the package locked once, the exchanges in a row within 2 ticks, the
intervals without an answer, the outstanding t1 (ticks, 1/16 tick), the tick of the last exchange, the tick HOLDOVER
began and whether its limit has passed; the correction being slewed, in 1/16 tick over one interval, and the ticks of the interval
left; the estimate of the drift in the same unit; what the counter is behind or ahead within a tick, in 2^-24 tick; the counter
before the last tick. -/
structure Sync where
  cfg     : Word64
  changed : Bool
  set     : Bool
  locked  : Bool
  good    : Nat
  missed  : Nat
  sent    : Option (Nat × Nat)
  last    : Option Nat
  holdAt  : Nat
  expired : Bool
  slew    : Int
  left    : Nat
  rate    : Int
  phase   : Int
  was     : Nat
  deriving DecidableEq, Repr

/-- A measurement register and its extension count (R364). -/
structure Mr where
  value : List Byte
  count : Nat
  deriving DecidableEq, Repr

/-- Input power, pacing and rest (R368 to R381): the ticks of the always-on domain, which every time below counts in;
since when the input has been below 28 V, above 42 V, within 29 to 41 V; the last current-limit event; evaluations in a
row below 0.95 L and below 120 A; POLICY as last evaluated; pairs whose thermal request stood at the last sample and the
tick of their last thermal step; pairs a junction has stopped; samples in a row without a reading, by stack; clusters
whose PLL is starting, clusters whose PLL runs for the update unit alone; the last tick each cluster was seen busy; the
tick of a shutdown under way; whether the rails are off, and whether only a new power-good brings them back (R371);
whether the always-on domain runs; by pair, the step that the slower of its clock and its rails still follows, and the tick by
which it has followed (R372). -/
structure Pwr where
  ticks     : Nat
  lowSince  : Option Nat
  highSince : Option Nat
  goodSince : Option Nat
  limitAt   : Option Nat
  below     : Nat
  calm      : Nat
  policy    : Nat
  thermOn   : List Nat
  thermAt   : List (Nat × Nat)
  tjStop    : List Nat
  thermMiss : List (Nat × Nat)
  waking    : List (Nat × Nat)
  pllOnly   : List Nat
  busyAt    : List (Nat × Nat)
  stopping  : Option Nat
  off       : Bool
  needGood  : Bool
  alive     : Bool
  lag       : List (Nat × Nat × Nat)
  deriving DecidableEq, Repr

/-- The I3C target (R386, R387): its dynamic address, whether in-band interrupts are enabled, whether the straps have been
read and give a static address, the last access's status and data, and the tick it is served by. -/
structure I3c where
  dyn    : Option Nat
  ibiOn  : Bool
  straps : Bool
  status : Half
  data   : Word64
  at_    : Nat
  deriving DecidableEq, Repr

/-- The management processor (R383 to R385): the tick of the last kick, whether its domain restarts, the next snapshot's
number and the tick of the last one. -/
structure Mgt where
  kickAt  : Nat
  hung    : Bool
  telN    : Nat
  telAt   : Nat
  /-- A snapshot taken and not yet written: its address and bytes (R384). -/
  telDue  : Option (Nat × List Byte)
  deriving DecidableEq, Repr

/-- A LOAD, UNLOAD or RESET that the management processor runs (R334): its mailbox line, and whether the copy of R353 has
begun. -/
structure MboxRun where
  line   : List Byte
  copied : Bool
  deriving DecidableEq, Repr

/-- A reply that waits to be written (Table 14-7), and whether it ends the running operation. -/
structure MboxReply where
  seq    : Nat
  op     : Nat
  status : Half
  res    : Nat
  index  : Nat
  short  : Nat
  own    : Bool
  deriving DecidableEq, Repr

/-- The registers of AER, and those of the CXL RAS capability (Table 14-1), laid out as the PCIe and CXL specifications do (PRESUMED, log
entry 63). -/
structure ErrRegs where
  ueStatus   : Word32
  ueMask     : Word32
  ueSeverity : Word32
  ceStatus   : Word32
  ceMask     : Word32
  deriving DecidableEq, Repr

/-- Configuration and component registers of the function (R320, R325, R326): Device Control, AER, RAS, the HDM decoder's base, size, control and
the global enable, Memory_Info_Valid (PRESUMED, log entry 63). -/
structure CxlRegs where
  devCtl    : Half
  aer       : ErrRegs
  ras       : ErrRegs
  hdmBase   : Word64
  hdmSize   : Word64
  hdmCtl    : Word32
  hdmGlobal : Word32
  memInfo   : Bool
  deriving DecidableEq, Repr

/-- The host interface beside its registers (chapter 14): the committed HDM decoder's base and Error Not Committed, Memory_Active
(R326), the granules in host bias and the range of a flip to device bias under way (R327, R328), the mailbox page but for its BOOT
word (Table 14-7), the last SEQ read and the tick of the last poll, the lines whose NOP, LAUNCH or CANCEL waits, the running
operation and the replies not yet written (R332 to R336), whether this boot follows a cold reset (R179, R344), whether each FTn_PERST_N
is released (R407), Device Control 2 (R331). -/
structure HostIf where
  hdm      : Option Nat
  hdmError : Bool
  memActive : Bool
  hostBias : List Nat
  flip     : Option (Nat × Nat)
  page     : List (Nat × Byte)
  lastSeq  : Nat
  polledAt : Option Nat
  ops      : List (List Byte)
  run      : Option MboxRun
  replies  : List MboxReply
  cold     : Bool
  ft0      : Bool
  ft1      : Bool
  devCtl2  : Half
  cxl      : CxlRegs
  /-- The address of the line that CXL.cache holds in Shared state (R332). -/
  mboxHeld : Option Nat
  deriving DecidableEq, Repr

/-- The security block beside its registers (chapter 15): the revocation fuses and the anti-rollback counter, the fuse command
being programmed as OP and ARG, and the response of a quote being signed. -/
structure Sec where
  revoked : Nat
  svn     : Nat
  fuse    : Option (Nat × Nat)
  /-- The always-on tick at which the bit being programmed was begun. -/
  fuseAt  : Nat
  signing : Option (List Byte)
  /-- The DOE instances whose Error status is set (R330). -/
  doeError : List Nat
  deriving DecidableEq, Repr

/-- What the configuration read left (R339 to R343): whether it is done, the board record, the certificate if one was used, the EQ
entries by 16 × port + lane, the trims by 256 × KIND + index, and the reserve assignment by 4,096 × KIND + index: the
physical unit and whether the field map gave it (R21 to R24). -/
structure Cfg where
  done    : Bool
  boardId : List Byte
  cert    : Option (List Byte)
  eq      : List (Nat × List Byte)
  trims   : List (Nat × List Byte)
  assign  : List (Nat × Nat × Bool)
  deriving DecidableEq, Repr

/-- What leaves the block (DESIGN CHOICE, log entry 5): nothing reads it again. -/
inductive Out where
  | flit (port : Nat) (bytes : List Byte)
  /-- The 136 symbols of a codeword on each of a port's four logical lanes (R214). -/
  | lanes (port : Nat) (symbols : List (List Nat))
  | readData (src : Source) (value : Word64)
  | cxlData (bytes : List Byte) (poisoned : Bool)
  | msix (vector : Nat)
  | i3c (bytes : List Byte)
  | ibi (bytes : List Byte)
  | i3cNack
  | doe (inst : Nat) (bytes : List Byte)
  | syncOut (tick : Nat)
  | deviceReset (link : Bool)
  | powerOff
  | message (bytes : List Byte)
  deriving DecidableEq, Repr

/-- The reset form of each unit. -/
def Slot.empty : Slot := ⟨false, false, false, []⟩
def Engine.empty : Engine := ⟨Slot.empty, Slot.empty, [], none, none, 0, false, []⟩
def Dsu.empty : Dsu := ⟨[], [], 0, false⟩
def Puu.empty : Puu := ⟨[], none, 0, false, none, 0, [], none⟩
def Dig.empty : Dig := ⟨[], false⟩
def Port.empty : Port := ⟨0, 4095, [], false, 0, [], [], [], 0, [], 0, 0, [], [], none, false, 0, false, false, 0, [], [], 1023, 0⟩

end Sys2Proof.Machine
end

