-- ==== Sys2Proof/Machine/State.lean ====
section
/-! DEFINITION. The state of the block as plain data, and the state right after reset. -/

namespace Sys2Proof.Machine

/-- Why the machine stops. No rule of the spec stops the block, so no meaning raises one. -/
inductive Fault where
  /-- Raised by nobody: the closed type needs a constructor. Safe. -/
  | none
  deriving DecidableEq, Repr

/-- Why a command has no meaning. -/
inductive Refusal where
  /-- Raised by an arm of exec whose command is not modelled; names its mnemonic. Safe. -/
  | notModelled (mnemonic : String)
  deriving DecidableEq, Repr

/-- Bytes of an address space, sparse: unlisted addresses read 0 (DESIGN CHOICE, log entry 7). -/
abbrev Memory := List Host.Cell

/-- What an unlisted address reads as. -/
def memDefault : Nat → Byte := fun _ => 0

/-- Memory's canonical form. -/
def Memory.wf (m : Memory) : Bool := mapWf memDefault m

/-- The state of a region nobody has set (R199). -/
def regionDefault : Nat → Region := fun _ => ⟨0, 0, 0⟩

/-- An unlisted context is empty. -/
def ctxDefault : Nat → Ctx := fun _ => Ctx.empty

/-- An unlisted core has issued nothing. -/
def coreDefault : Nat → CoreRec := fun _ => ⟨[], 0⟩

/-- Unlisted units hold nothing. -/
def engineDefault : Nat → Engine := fun _ => Engine.empty
def dsuDefault : Nat → Dsu := fun _ => Dsu.empty
def puuDefault : Nat → Puu := fun _ => Puu.empty
def digDefault : Nat → Dig := fun _ => Dig.empty
def portDefault : Nat → Port := fun _ => Port.empty

/-- A measurement register nothing has extended (R364). -/
def mrDefault : Nat → Mr := fun _ => ⟨List.replicate 64 0, 0⟩

/-- No exchange yet (R266, R268). -/
def Sync.empty : Sync := ⟨0xA0, false, false, false, 0, 0, none, none, 0, false, 0, 0, 0, 0, 0⟩

/-- Power at reset: running, nothing counted, the input good for the time R408 asks. -/
def Pwr.empty : Pwr :=
  ⟨10000000, none, none, some 0, none, 0, 0, 0, [], [], [], [], [], [], [], none, false, false, true, []⟩
/-- The I3C target at reset: no address, interrupts enabled (PRESUMED, log entry 26). -/
def I3c.empty : I3c := ⟨none, true, true, 0, 0, 0⟩
def Mgt.empty : Mgt := ⟨0, false, 0, 0, none⟩
/-- The function's registers at reset: no status, no mask; Device Control as PCIe resets it, with a read request size of 512 bytes (PRESUMED,
log entry 63). -/
def CxlRegs.empty : CxlRegs := ⟨0x2810, ⟨0, 0, 0, 0, 0⟩, ⟨0, 0, 0, 0, 0⟩, 0, 0, 0, 0, false⟩
/-- No command, no reply, a page of zeros (R336); Device Control 2 at range A (R331). -/
def HostIf.empty : HostIf := ⟨none, false, false, [], none, [], 0, none, [], none, [], true, false, false, 0, CxlRegs.empty, none⟩
/-- No fuse blown by SEC_FUSE_CMD (DESIGN CHOICE, log entry 8). -/
def Sec.empty : Sec := ⟨0, 0, none, 0, none, []⟩
def Cfg.empty : Cfg := ⟨false, List.replicate 256 0, none, [], [], []⟩

/-- The state. -/
structure State where
  /-- The global counter (R264). -/
  now      : Nat
  /-- The commands that wait, first in, first out. -/
  pending  : List Instr
  /-- How many free values have been taken (DESIGN CHOICE, log entry 9): the model's own. -/
  fresh    : Nat
  /-- What has left the block, oldest first (DESIGN CHOICE, log entry 5): the model's own. -/
  outbox   : List Out
  /-- Register words by key, offset plus 2^26 per unit, and their staged words (R310). -/
  regs     : List (Nat × Word64)
  staged   : List (Nat × Word64)
  /-- Register and staged words as they stood at the start of this tick, for those changed in it (R310, R411). -/
  held     : List (Nat × Word64)
  heldStage : List (Nat × Word64)
  /-- What hardware added to or set in counter and W1C fields in this tick (R12). -/
  hw       : List (Nat × Word64)
  mem      : Memory
  hostMem  : Memory
  bootMem  : Memory
  /-- Poisoned 64-byte lines of stacks and tiers and 8-byte words of SRAM, by offset (R168, R302). -/
  poisoned : List Nat
  /-- Corrected errors by row, rows being copied to a spare, rows spared since cold reset (R169). -/
  rowErrors : List (Nat × Nat)
  sparing  : List RowAddr
  spared   : List Nat
  /-- The transfer block of a stack's channel that has failed its CRC, and how often it was sent; its channel retrains after the fourth
  (R166). -/
  blocks   : List Block
  /-- Partial writes of units refused in the running command and not yet reported (R168): address and the unit's core;
  empty between commands. -/
  ueDue    : List (Nat × Nat)
  harts    : List (Nat × Ctx)
  cores    : List (Nat × CoreRec)
  regions  : List (Nat × Region)
  /-- The hand-offs being performed, in order of arrival (R202). -/
  changes  : List Change
  /-- The tick at which a clear under R204 began, while one is in progress. -/
  clearing : Option Nat
  /-- Granules held by split protection and the writes waiting for them (R290, R291). -/
  protectedGranules : List Nat
  heldWrites : List Held
  /-- The reset domain that runs and its target (R313, R319). -/
  resetting : Option (Nat × Nat)
  engines  : List (Nat × Engine)
  dsus     : List (Nat × Dsu)
  puus     : List (Nat × Puu)
  digs     : List (Nat × Dig)
  /-- Bytes hashed beyond the whole MiB that DIG_STATS counts. -/
  digBytes : Nat
  ports    : List (Nat × Port)
  /-- What has moved since the last UTIL_UPDATE (R181, R240). -/
  traffic  : Traffic
  /-- The tier units being zeroed and since when, in always-on ticks (R179). -/
  zeroing  : List (Nat × Nat)
  /-- Fenced stacks and cluster-side collective units, and the split engine (R300). -/
  fencedStacks : List Nat
  fencedCols   : List Nat
  fencedSplit  : Bool
  /-- The error log by slot: the four words of Table 13-3 (R304), and the records not yet passed to the host (R337) with
  their numbers. -/
  log      : List (Nat × List Word64)
  forward  : List (Nat × List Word64)
  /-- Poison met under the LOCAL installation, counted origins (R305), tag entries that have forwarded one (R239). -/
  poisonMet   : Bool
  origins     : List Nat
  forwarded   : List Nat
  /-- Loaded communicators in table order, transfers by number, generations of match entries, relay intakes. -/
  comms    : List (Nat × Comm)
  xfers    : List (Nat × Xfer)
  nextXfer : Nat
  matchGens : List (Nat × Nat)
  tiles    : List Tile
  /-- The pending and the running launch, the refused keys (R271 to R276). -/
  pendingLaunch : Option Launch
  running  : Option Launch
  keys     : List LKey
  image    : Option Image
  /-- A poison has ended the job's contexts; the image unloads once all are EMPTY (R306). -/
  unloadDue : Bool
  /-- The split engine: its queue, the running command, the priority requests in order of arrival (R289, R291). -/
  splQueue : List SplCmd
  splRun   : Option SplRun
  splPrio  : List Nat
  /-- MSI-X Enable of the function. -/
  msixOn   : Bool
  /-- The last detour candidates (R230). -/
  rotNode  : Nat
  rotGroup : Nat
  /-- Time synchronisation (R266 to R268), the measurement registers (R364). -/
  sync     : Sync
  mrs      : List (Nat × Mr)
  /-- Power, the I3C target, the management processor (chapter 16). -/
  pwr      : Pwr
  i3c      : I3c
  mgt      : Mgt
  /-- The host interface, the security block, the configuration (chapters 14 and 15). -/
  host     : HostIf
  sec      : Sec
  cfg      : Cfg
  deriving DecidableEq, Repr

/-- The word of R211's group table (TABLE 1) that node n has for node m: one group port. -/
def groupWord (n m : Nat) : Word64 := if m = n then 0 else BitVec.ofNat 64 (2 ^ 63 + 2 ^ (12 + (m + 15 - n) % 16))

/-- The group table of node n, by register key (LNK_ROUTE_ENTRY of unit 256 + m). -/
def groupTable (n : Nat) : List (Nat × Word64) :=
  ((List.range 16).filter (· != n)).map fun m => (0xC00038 + 0x4000000 * (256 + m), groupWord n m)

/-- The registers whose reset value the straps and pins give (DESIGN CHOICE, log entry 6), at position 0: MGT_PINS with PWR_GOOD, COLD_RST_N,
PKG_RST_N and REF_OK high, TIM_CFG of a root (R266), the node table of R211 and the group table of node 0, which LNK_ID names then. -/
def strapRegs : List (Nat × Word64) :=
  [(0x0100058, 0x0E40000000000000), (0x0D00008, 0xA0), (0x4C00038, 0x800000000000000F), (0x8C00038, 0x80000000000000F0),
   (0xCC00038, 0x8000000000000F00)] ++ groupTable 0

/-- The state right after reset: tick 0 of Table 14-9, the straps taken (DESIGN CHOICE, log entry 6). -/
def State.reset : State where
  now := 0
  pending := []
  fresh := 0
  outbox := []
  regs := strapRegs
  staged := []
  held := []
  heldStage := []
  hw := []
  mem := []
  hostMem := []
  bootMem := []
  poisoned := []
  rowErrors := []
  sparing := []
  spared := []
  blocks := []
  ueDue := []
  harts := []
  cores := []
  regions := []
  changes := []
  clearing := none
  protectedGranules := []
  heldWrites := []
  resetting := none
  engines := []
  dsus := []
  puus := []
  digs := []
  digBytes := 0
  ports := []
  traffic := ⟨0, 0, 0, [], 0, 0⟩
  zeroing := []
  fencedStacks := []
  fencedCols := []
  fencedSplit := false
  log := []
  forward := []
  poisonMet := false
  origins := []
  forwarded := []
  comms := []
  xfers := []
  nextXfer := 0
  matchGens := []
  tiles := []
  pendingLaunch := none
  running := none
  keys := []
  image := none
  unloadDue := false
  splQueue := []
  splRun := none
  splPrio := []
  msixOn := false
  rotNode := 0
  rotGroup := 0
  sync := Sync.empty
  mrs := []
  pwr := Pwr.empty
  i3c := I3c.empty
  mgt := Mgt.empty
  host := HostIf.empty
  sec := Sec.empty
  cfg := Cfg.empty

end Sys2Proof.Machine
end

