-- ==== Sys2Proof/Machine/Status.lean ====
section
/-! DEFINITION. The numbers of Table 01-15 (status codes) and Tables 13-1 and 13-2 (error classes and causes). -/

namespace Sys2Proof.Machine

abbrev ST.OK : Half := 0x0000
abbrev ST.PENDING : Half := 0x0001
abbrev ST.NORM_SKIP : Half := 0x0002
abbrev ST.NO_FIT : Half := 0x0010
abbrev ST.PAIR_MISMATCH : Half := 0x0011
abbrev ST.RANGE : Half := 0x0012
abbrev ST.MODE_CONFLICT : Half := 0x0013
abbrev ST.BAD_IMAGE : Half := 0x0014
abbrev ST.SIG_FAIL : Half := 0x0015
abbrev ST.ROLLBACK : Half := 0x0016
abbrev ST.KEY_REVOKED : Half := 0x0017
abbrev ST.DIGEST_MISMATCH : Half := 0x0018
abbrev ST.FALSE_START : Half := 0x0020
abbrev ST.TIMEOUT : Half := 0x0030
abbrev ST.REFUSED_OWNER : Half := 0x0031
abbrev ST.TAG_REVOKED : Half := 0x0032
abbrev ST.UNREACHABLE : Half := 0x0033
abbrev ST.POISONED : Half := 0x0034
abbrev ST.ALIGN : Half := 0x0035
abbrev ST.SPLIT_MIXED : Half := 0x0040
abbrev ST.SPLIT_DIGEST : Half := 0x0041
abbrev ST.SPLIT_BUSY : Half := 0x0042
abbrev ST.MEMBERSHIP : Half := 0x0043
abbrev ST.COMM_UNKNOWN : Half := 0x0060
abbrev ST.COLL_MISMATCH : Half := 0x0061
abbrev ST.ABORTED : Half := 0x0070
abbrev ST.RESERVE_EXHAUSTED : Half := 0x0080
abbrev ST.MAILBOX_BUSY : Half := 0x0090
abbrev ST.NOT_READY : Half := 0x0091

/-- Table 13-2. -/
inductive Cause where
  | illegalInsn | accessFault | fetchMisaligned | remoteFail | ecall | ebreak | resetReq | overrun | launchRefused
  | memUe | tierUe | sramUe | engineFault | dsuFault | colFault | puuFault | digFault | memCtrlFail | splFault
  | linkDown | d2dFail | mgtHang | powerFault | poisonIn
  deriving DecidableEq, Repr

/-- The code of a cause (Table 13-2). -/
def Cause.code : Cause → Nat
  | .illegalInsn => 0x01 | .accessFault => 0x02 | .fetchMisaligned => 0x03 | .remoteFail => 0x04 | .ecall => 0x05
  | .ebreak => 0x06 | .resetReq => 0x07 | .overrun => 0x08 | .launchRefused => 0x09 | .memUe => 0x10
  | .tierUe => 0x11 | .sramUe => 0x12 | .engineFault => 0x20 | .dsuFault => 0x21 | .colFault => 0x22
  | .puuFault => 0x23 | .digFault => 0x24 | .memCtrlFail => 0x25 | .splFault => 0x26 | .linkDown => 0x30
  | .d2dFail => 0x31 | .mgtHang => 0x40 | .powerFault => 0x41 | .poisonIn => 0x50

/-- The class of a cause: Tables 13-1 and 13-2. RESET_REQ is of class CONTEXT for domain 0; the larger domains give
class JOB where they raise it (R317). -/
def Cause.cls : Cause → Nat
  | .illegalInsn | .accessFault | .fetchMisaligned | .remoteFail | .ecall | .ebreak | .resetReq => 1
  | .overrun | .linkDown | .mgtHang => 0
  | .launchRefused | .memUe | .tierUe | .sramUe | .poisonIn => 2
  | .engineFault | .dsuFault | .colFault | .puuFault | .digFault | .memCtrlFail | .splFault => 3
  | .d2dFail => 4
  | .powerFault => 5

end Sys2Proof.Machine
end

