-- ==== Sys2Proof/Machine/Ops.lean ====
section
/-! DEFINITION. The named operations over registers, the local address map and memory. -/

namespace Sys2Proof.Machine

/-! ### Registers -/

/-- The storage key of a register: its offset, and its unit where a selector picks one of several. -/
def keyOf (off unit : Nat) : Nat := off + 0x4000000 * unit

/-- The word of a register. -/
def State.reg (s : State) (off : Nat) (unit : Nat := 0) : Word64 := mapGet regReset (keyOf off unit) s.regs

/-- A register word replaced. -/
def State.setReg (s : State) (off : Nat) (unit : Nat) (w : Word64) : State :=
  { s with regs := mapSet regReset (keyOf off unit) w s.regs }

/-- The value of a field. -/
def State.fld (s : State) (f : Fld) (unit : Nat := 0) : Nat := wordGet (s.reg f.off unit) f.hi f.lo

/-- A field's value replaced; the register's other bits stay. -/
def State.setFld (s : State) (f : Fld) (v : Nat) (unit : Nat := 0) : State :=
  s.setReg f.off unit (wordPut (s.reg f.off unit) f.hi f.lo v)

/-- A one-bit field, or whether a field is non-zero. -/
def State.flag (s : State) (f : Fld) (unit : Nat := 0) : Bool := s.fld f unit != 0

/-- The staged word of a register (R310); RWS fields start equal to the active ones. -/
def State.stg (s : State) (off : Nat) (unit : Nat := 0) : Word64 := mapGet regReset (keyOf off unit) s.staged

/-- A staged word replaced. -/
def State.setStg (s : State) (off : Nat) (unit : Nat) (w : Word64) : State :=
  { s with staged := mapSet regReset (keyOf off unit) w s.staged }

/-- A register's word kept as it stood at the start of the tick, before its first change in it (R310, R411). -/
def State.hold (s : State) (off unit : Nat) : State :=
  match assocGet (keyOf off unit) s.held with
  | some _ => s
  | none => { s with held := assocSet (keyOf off unit) (s.reg off unit) s.held }

/-- The same for a staged word. -/
def State.holdStg (s : State) (off unit : Nat) : State :=
  match assocGet (keyOf off unit) s.heldStage with
  | some _ => s
  | none => { s with heldStage := assocSet (keyOf off unit) (s.stg off unit) s.heldStage }

/-- A field as it stood at the start of the tick: what applies from the tick after its write (R411). -/
def State.fldOld (s : State) (f : Fld) (unit : Nat := 0) : Nat :=
  match assocGet (keyOf f.off unit) s.held with
  | some w => wordGet w f.hi f.lo
  | none => s.fld f unit

/-- A selector's value, which applies from the tick after its write (R411). -/
def State.selv (s : State) (f : Fld) : Nat := s.fldOld f

/-- The staged word as it stood at the end of the tick before (R310): what a commit takes. -/
def State.stgOld (s : State) (off : Nat) (unit : Nat := 0) : Word64 :=
  (assocGet (keyOf off unit) s.heldStage).getD (s.stg off unit)

/-- What hardware put into a register's fields in this tick (R12). -/
def State.hwWord (s : State) (off unit : Nat) : Word64 := (assocGet (keyOf off unit) s.hw).getD 0

/-- A saturating counter advanced by hardware; the amount is noted for a clear in the same tick (R12). -/
def State.count (s : State) (f : Fld) (unit : Nat := 0) (n : Nat := 1) : State :=
  let top := 2 ^ (f.hi + 1 - f.lo) - 1
  let w := s.hwWord f.off unit
  let s := s.setFld f (Nat.min top (s.fld f unit + n)) unit
  { s with hw := assocSet (keyOf f.off unit) (wordPut w f.hi f.lo (Nat.min top (wordGet w f.hi f.lo + n))) s.hw }

/-- A field that holds a maximum, with the value of this tick noted (R12). -/
def State.countMax (s : State) (f : Fld) (unit : Nat := 0) (n : Nat) : State :=
  let top := 2 ^ (f.hi + 1 - f.lo) - 1
  let v := Nat.min top n
  let w := s.hwWord f.off unit
  let s := s.setFld f (Nat.max v (s.fld f unit)) unit
  { s with hw := assocSet (keyOf f.off unit) (wordPut w f.hi f.lo (Nat.max v (wordGet w f.hi f.lo))) s.hw }

/-- A field set by hardware, which a clear in the same tick does not undo (R12). -/
def State.hwSet (s : State) (f : Fld) (v : Nat) (unit : Nat := 0) : State :=
  let w := s.hwWord f.off unit
  let s := s.setFld f v unit
  { s with hw := assocSet (keyOf f.off unit) (wordPut w f.hi f.lo v) s.hw }

/-- What a message leaving the block adds to the outbox. -/
def State.emit (s : State) (o : Out) : State := { s with outbox := s.outbox ++ [o] }

/-- The next free value (DESIGN CHOICE, log entry 9) and the state that has used it. -/
def State.free (s : State) : Word64 × State := (Config.freeWord s.fresh, { s with fresh := s.fresh + 1 })

/-- The counter one nanosecond on, by the ticks that the clock's rate gives it; the marks that hold within one tick end. -/
def State.tick (s : State) (n : Nat := 1) : State :=
  { s with now := (s.now + n) % 2 ^ 64, held := [], heldStage := [], hw := [] }

/-! ### Identity -/

/-- This package's endpoint ID (Table 08-9). -/
def State.self (s : State) : Nat := s.fld F.FAB_SELF.ENDPOINT

/-- A global address as R65 splits it. -/
def epOf (a : Nat) : Nat := a / 2 ^ 48 % 2 ^ 16
def offOf (a : Nat) : Nat := a % 2 ^ 48

/-- An address that names this package (R65, R185). -/
def State.isSelf (s : State) (a : Nat) : Bool := epOf a == 0xFFFF || epOf a == s.self

/-- The global address of a local offset with this package's ID, as records carry it (Table 13-3). -/
def State.global (s : State) (off : Nat) : Nat := s.self * 2 ^ 48 + off

/-- Endpoint 0xFFFF with a local offset. -/
def localAddr (off : Nat) : Nat := 0xFFFF * 2 ^ 48 + off

/-- The GROUP, NODE and POSITION of an endpoint ID (Table 09-1). -/
def epGroup (e : Nat) : Nat := e / 64 % 256
def epNode (e : Nat) : Nat := e / 4 % 16
def epPos (e : Nat) : Nat := e % 4

/-- The die of a cluster, and the path of a core (R8, R17). -/
def clusterOf (core : Nat) : Nat := core / 8

/-- The ACTIVE LOCAL tag entry (R234). -/
def State.localEntry (s : State) : Option Nat :=
  (List.range 64).find? fun i => s.fld F.LNK_TAG_ENTRY.STATE i == 1 && s.flag F.LNK_TAG_ENTRY.LOCAL i

/-- The job tag of the package, 0 without one (R234, Table 13-3). -/
def State.jobTag (s : State) : Nat := (s.localEntry.map fun i => s.fld F.LNK_TAG_ENTRY.TAG i).getD 0

/-! ### The local address map -/

/-- Table 07-1, with the unit and the place within it. -/
inductive Place where
  | stack (k off : Nat)
  | near (c off : Nat)
  | far (p off : Nat)
  | csram (k off : Nat)
  | lsram (g off : Nat)
  | regs (off : Nat)
  | hwin (off : Nat)
  | unmapped
  deriving DecidableEq, Repr

/-- R162. -/
def place (a : Nat) : Place :=
  if a < 0x018000000000 then .stack (a / 0x1800000000) (a % 0x1800000000)
  else if a < 0x020000000000 then .unmapped
  else if a < 0x040000000000 then .near ((a - 0x020000000000) / 0x4000000000) ((a - 0x020000000000) % 0x4000000000)
  else if a < 0x0C0000000000 then .far ((a - 0x040000000000) / 0x40000000000) ((a - 0x040000000000) % 0x40000000000)
  else if a < 0x0C0040000000 then .csram ((a - 0x0C0000000000) / 0x2000000) ((a - 0x0C0000000000) % 0x2000000)
  else if a < 0x0D0000000000 then .unmapped
  else if a < 0x0D0010000000 then .lsram ((a - 0x0D0000000000) / 0x100000) ((a - 0x0D0000000000) % 0x100000)
  else if a < 0x0E0000000000 then .unmapped
  else if a < 0x0E0004000000 then .regs (a - 0x0E0000000000)
  else if a < 0x0F0000000000 then .unmapped
  else if a < 0x100000000000 then .hwin (a - 0x0F0000000000)
  else .unmapped

/-- Where stack k, the SRAM of cluster k and the core-local SRAM of core g begin. -/
def stackBase (k : Nat) : Nat := k * 0x1800000000
def csramBase (k : Nat) : Nat := 0x0C0000000000 + k * 0x2000000
def lsramBase (g : Nat) : Nat := 0x0D0000000000 + g * 0x100000

/-- The populated bytes of a tier unit's window (R163): none until zeroing has finished (R179). -/
def State.tierBytes (s : State) (unit : Nat) : Nat :=
  if s.flag F.TIER_INFO.PRESENT unit && s.flag F.TIER_INFO.INIT_DONE unit
  then s.fld F.TIER_INFO.CAPACITY unit * 2 ^ 30 else 0

/-- The populated bytes of the host window (R329). -/
def State.hwinBytes (s : State) : Nat := s.fld F.HIF_HWIN_SIZE.VALUE * 2 ^ 21

/-- The host physical address of a host-window offset (R329). -/
def State.hwinPhys (s : State) (off : Nat) : Nat := s.fld F.HIF_HWIN_BASE.VALUE * 2 ^ 21 + off

/-- The kinds of place rules allow or forbid. -/
inductive Kind where
  | stack | near | far | csram | lsram | regs | hwin | none
  deriving DecidableEq, Repr

/-- The kind of place at an offset: none where it is unmapped or unpopulated (R163). -/
def State.kindAt (s : State) (a : Nat) : Kind :=
  match place a with
  | .stack _ _ => .stack
  | .near c o => if o < s.tierBytes c then .near else .none
  | .far p o => if o < s.tierBytes (8 + p) then .far else .none
  | .csram _ _ => .csram
  | .lsram _ _ => .lsram
  | .regs _ => .regs
  | .hwin o => if o < s.hwinBytes then .hwin else .none
  | .unmapped => .none

/-- The first address after the populated run of one unit that holds the offset; the offset itself where none does. -/
def State.runEnd (s : State) (a : Nat) : Nat :=
  match place a with
  | .stack _ _ => 0x018000000000
  | .near c o => a - o + Nat.max o (s.tierBytes c)
  | .far p o => a - o + Nat.max o (s.tierBytes (8 + p))
  | .csram _ _ => 0x0C0040000000
  | .lsram _ _ => 0x0D0010000000
  | .regs _ => 0x0E0004000000
  | .hwin o => a - o + Nat.max o s.hwinBytes
  | .unmapped => a

/-- Every byte of [a, a + n) lies in a place whose kind the test accepts. An extent crosses at most the eight channels
or two ports of a tier, each populated to its window's end. -/
def State.extentIn (s : State) (ok : Kind → Bool) (a n : Nat) : Bool :=
  let rec go : Nat → Nat → Bool
    | 0, _ => false
    | fuel + 1, x =>
      if a + n ≤ x then true
      else ok (s.kindAt x) && (s.kindAt x != .none) && (x < s.runEnd x) && go fuel (s.runEnd x)
  n == 0 || go 12 a

/-- Stacks, cluster SRAM. -/
def isSramStack : Kind → Bool := fun k => k == .stack || k == .csram || k == .lsram
def isStackCsram : Kind → Bool := fun k => k == .stack || k == .csram
def isTier : Kind → Bool := fun k => k == .near || k == .far

/-- The 2 MiB region or granule of an offset (R197, R290). -/
def regionOf (a : Nat) : Nat := a / 2 ^ 21

/-! ### Reset domains and memory -/

/-- Whether the memory at an offset lies inside the domain that runs (R316). -/
def State.memInReset (s : State) (a : Nat) : Bool :=
  match s.resetting with
  | none => false
  | some (d, t) =>
    match place a with
    | .stack _ _ => 3 ≤ d
    | .near _ _ | .far _ _ => 4 ≤ d
    | .csram k _ => 3 ≤ d || (d == 2 && k == t)
    | .lsram g _ => 3 ≤ d || (d == 2 && g / 8 == t) || (d == 1 && g == t)
    | _ => false

/-- The row in which a stack keeps the line of an offset: Table 07-3 gives the channel, by units of 256 bytes (DESIGN CHOICE, log entry 61). -/
def rowAt (a : Nat) : Option RowAddr :=
  match place a with
  | .stack k o =>
    let l := o / 64 * 64
    some ⟨BitVec.ofNat 4 k, Config.lineDie k l, BitVec.ofNat 5 (o / 256 % 32), Config.lineBank k l, Config.lineRow k l⟩
  | _ => none

/-- The stack of an offset below the stacks' end. -/
def stackOf (a : Nat) : Nat := a / 0x1800000000

/-- Two offsets lie in one channel of one stack (Table 07-3). -/
def sameChannel (a b : Nat) : Bool :=
  match place a, place b with
  | .stack j x, .stack k y => j == k && x / 256 % 32 == y / 256 % 32
  | _, _ => false

/-- Two rows lie in one bank of one channel. -/
def sameBank (q r : RowAddr) : Bool := q.stack == r.stack && q.channel == r.channel && q.bank == r.bank

/-- An access of [a, a + n) touches a channel that retrains (R166). -/
def State.channelWaits (s : State) (a n : Nat) : Bool :=
  let run := s.blocks.filter (·.retraining)
  !run.isEmpty && (List.range (unitsTouched 256 a n)).any fun i => run.any fun b => sameChannel b.addr (a + 256 * i)

/-- An access of [a, a + n) touches a bank whose row is being copied to a spare (R169). -/
def State.bankWaits (s : State) (a n : Nat) : Bool :=
  !s.sparing.isEmpty && (List.range (unitsTouched 64 a n)).any fun i =>
    (rowAt (a / 64 * 64 + 64 * i)).any fun r => s.sparing.any (sameBank r)

/-- An access of [a, a + n) waits: memory in reset, a channel that retrains, a bank that copies a row (R166, R169, R316). -/
def State.memWaits (s : State) (a : Nat) (n : Nat := 1) : Bool := s.memInReset a || s.channelWaits a n || s.bankWaits a n

/-- The unit in which a place keeps its poison mark: 8-byte words in SRAM (R302), 64-byte lines elsewhere (R168). -/
def poisonUnit (a : Nat) : Nat :=
  match place a with
  | .csram _ _ | .lsram _ _ => 8
  | _ => 64

/-- The stack of an offset is fenced (R300): no access to it succeeds (DEDUCED, log entry 22). -/
def State.stackFenced (s : State) (a : Nat) : Bool :=
  match place a with
  | .stack k _ => s.fencedStacks.contains k
  | _ => false

/-- The first marked line or word in [a, a + n); the first line of a fenced stack. -/
def State.poisonIn (s : State) (a n : Nat) : Option Nat :=
  if n = 0 then none
  else if s.stackFenced a then some (a / 64 * 64)
  else s.poisoned.find? fun p => p < a + n && a < p + poisonUnit p

/-- The first marked line or word that a write of [a, a + n) would cover only in part (R168, R302). -/
def State.poisonPart (s : State) (a n : Nat) : Option Nat :=
  if n = 0 then none
  else if s.stackFenced a then some (a / 64 * 64)
  else s.poisoned.find? fun p => p < a + n && a < p + poisonUnit p && !(a ≤ p && p + poisonUnit p ≤ a + n)

/-- Every such line or word. A contiguous write has at most two: where it begins and where it ends. -/
def State.poisonParts (s : State) (a n : Nat) : List Nat :=
  if n = 0 then []
  else if s.stackFenced a then [a / 64 * 64]
  else s.poisoned.filter fun p => p < a + n && a < p + poisonUnit p && !(a ≤ p && p + poisonUnit p ≤ a + n)

/-- What a write performs beside marked lines or words it covers in part: its bytes between them (R168, R302); nothing in a
fenced stack. -/
def State.unmarked (s : State) (a : Nat) (bs : List Byte) : Nat × List Byte :=
  if s.stackFenced a then (a, [])
  else
    let ps := s.poisonParts a bs.length
    let lo := ((ps.find? fun p => p ≤ a).map fun p => p + poisonUnit p).getD a
    let hi := (ps.find? fun p => a < p).getD (a + bs.length)
    (lo, (bs.drop (lo - a)).take (hi - lo))

/-- The byte at a local offset; the host window reads host memory (R329). -/
def State.byteAt (s : State) (a : Nat) : Byte :=
  match place a with
  | .hwin o => mapGet memDefault (s.hwinPhys o) s.hostMem
  | _ => mapGet memDefault a s.mem

/-- n bytes from a local offset, as they stand. -/
def State.peek (s : State) (a n : Nat) : List Byte := (List.range n).map fun i => s.byteAt (a + i)

/-- The little-endian number of n bytes at a local offset. -/
def State.peekNat (s : State) (a n : Nat) : Nat := ofLe (s.peek a n)

/-- Bytes stored in a memory from an address on. -/
def memPut (m : Memory) (a : Nat) : List Byte → Memory
  | [] => m
  | b :: bs => memPut (mapSet memDefault a b m) (a + 1) bs

/-- A unit whose utilisation R181 and R240 measure. -/
inductive Mover where
  | stack (k : Nat)
  | tier (u : Nat)
  | tx (p : Nat)
  | rx (p : Nat)
  deriving DecidableEq, Repr

/-- The key of a unit in `Traffic.moved`. -/
def Mover.key : Mover → Nat
  | .stack k => k
  | .tier u => 16 + u
  | .tx p => 32 + p
  | .rx p => 64 + p

/-- Bytes a unit transferred, towards its utilisation (R181). -/
def State.moved (s : State) (m : Mover) (n : Nat) : State :=
  if n = 0 then s
  else { s with traffic := { s.traffic with moved := mapSet (fun _ => 0) m.key (mapGet (fun _ => 0) m.key s.traffic.moved + n) s.traffic.moved } }

/-- Lines of the extent [a, a + n), which lies in one unit, counted and their bytes noted (R181). -/
def State.countUnit (s : State) (a n : Nat) (write : Bool) : State :=
  let c := unitsTouched 64 a n
  match place a with
  | .stack k _ => (s.count (if write then F.MEM_WR_LINES.LINES else F.MEM_RD_LINES.LINES) k c).moved (.stack k) (64 * c)
  | .near u _ => (s.count (if write then F.TIER_WR_LINES.LINES else F.TIER_RD_LINES.LINES) u c).moved (.tier u) (64 * c)
  | .far p _ => (s.count (if write then F.TIER_WR_LINES.LINES else F.TIER_RD_LINES.LINES) (8 + p) c).moved (.tier (8 + p)) (64 * c)
  | _ => s

/-- The first address after the unit of an offset. -/
def unitEnd (a : Nat) : Nat :=
  match place a with
  | .stack _ o => a - o + 0x1800000000
  | .near _ o => a - o + 0x4000000000
  | .far _ o => a - o + 0x40000000000
  | _ => 2 ^ 48

/-- Line counters of the units an extent touches (R181): an extent crosses at most sixteen ends of units. -/
def State.countLines (s : State) (a n : Nat) (write : Bool) : State :=
  let rec go : Nat → State → Nat → State
    | 0, s, _ => s
    | fuel + 1, s, x =>
      if a + n ≤ x then s else go fuel (s.countUnit x (Nat.min (a + n) (unitEnd x) - x) write) (unitEnd x)
  go 17 s a

/-- n bytes read from a local offset by an agent: the lines are counted. -/
def State.read (s : State) (a n : Nat) : List Byte × State := (s.peek a n, s.countLines a n false)

/-- A region's state as it now stands, with the clear of R204 that has taken it up. -/
def State.regionGoverned (s : State) (r : Nat) : Bool :=
  let k := s.kindAt (r * 2 ^ 21)
  k == .stack || k == .csram || k == .near || k == .far

/-- The place of a region in its home controller's ascending order (R204). -/
def State.regionRank (s : State) (r : Nat) : Nat :=
  match place (r * 2 ^ 21) with
  | .stack _ o => o / 2 ^ 21
  | .csram _ o => o / 2 ^ 21
  | .near c o => ((List.range c).map fun i => s.tierBytes i / 2 ^ 21).sum + o / 2 ^ 21
  | .far p o => ((List.range p).map fun i => s.tierBytes (8 + i) / 2 ^ 21).sum + o / 2 ^ 21
  | _ => 0

/-- The tick in which the running clear takes up a region: four a tick (R204). -/
def State.takeUp (s : State) (r : Nat) : Option Nat := s.clearing.map fun t => t + s.regionRank r / 4

/-- Bytes at its address that a remote request reads or writes (Table 09-8). -/
def requestLen (pk : Packet) : Nat :=
  match pk.type.toNat with
  | 1 => 2 ^ pk.sub.toNat
  | 4 => ofLe pk.data
  | 5 => 8
  | 6 => pk.data.length / 2
  | 7 => 320
  | _ => pk.data.length

/-- The first and the last region that a remote request touches. -/
def requestRegions (pk : Packet) : Nat × Nat :=
  let a := offOf pk.word.toNat
  if pk.type.toNat = 8 then (regionOf a, regionOf a) else (regionOf a, regionOf (a + Nat.max 1 (requestLen pk) - 1))

/-- A held remote request that was accepted for a region (R202); transfers' data are no such requests (R198). -/
def HeldOp.acceptedIn (op : HeldOp) (r : Nat) : Bool :=
  match op with
  | .remote _ pk => pk.type.toNat < 8 && (requestRegions pk).1 ≤ r && r ≤ (requestRegions pk).2
  | _ => false

/-- Requests accepted for a region wait, so that a change of it waits too (R202, R204). -/
def State.regionBusy (s : State) (r : Nat) : Bool := s.heldWrites.any fun h => h.op.acceptedIn r

/-- The running clear has taken a region up and not yet changed it, or has changed it (R204). -/
def State.clearTakes (s : State) (r : Nat) : Bool :=
  (s.takeUp r).any fun t => t ≤ s.now && (mapGet regionDefault r s.regions).at_ ≤ t + 20
def State.clearWaits (s : State) (r : Nat) : Bool :=
  s.clearTakes r && ((s.takeUp r).any (fun t => s.now < t + 20) || s.regionBusy r)

/-- A region's state and owner (R197, R204). -/
def State.region (s : State) (r : Nat) : Region :=
  if s.clearTakes r && !s.clearWaits r then ⟨0, 0, 0⟩ else mapGet regionDefault r s.regions

/-- CHANGING (Table 08-11): a hand-off or the clear changes the region. -/
def State.changing (s : State) (r : Nat) : Bool := s.clearWaits r || s.changes.any fun c => c.region == r

/-- A region's state set (R202). -/
def State.setRegion (s : State) (r st : Nat) (owner : Half) : State :=
  { s with regions := mapSet regionDefault r ⟨st, owner, s.now⟩ s.regions }

/-- The contexts a write of [a, a + n) reaches: a baton word in a written line is compared (R79), and another agent's
reservation on a written granule breaks (R71). -/
def wakeCtx (s : State) (a n : Nat) (writer : Option Nat) (k : Nat) (c : Ctx) : Ctx :=
  let hits (x : Nat) : Bool := a / 64 ≤ x / 64 && x / 64 ≤ (a + n - 1) / 64
  let c := match c.wait with
    | .baton rd addr thr met dl =>
      if hits addr && thr ≤ s.peekNat addr 8 then { c with wait := .baton rd addr thr true dl }
      else { c with wait := .baton rd addr thr met dl }
    | _ => c
  match c.resv with
  | some g => if hits (64 * g) && writer != some k then { c with resv := none } else c
  | none => c

/-- Every context looked at after a write. -/
def State.afterWrite (s : State) (a n : Nat) (writer : Option Nat) : State :=
  if n = 0 then s else { s with harts := s.harts.map fun e => (e.1, wakeCtx s a n writer e.1 e.2) }

/-- Bytes written at a local offset by an agent: memory, poison marks wholly covered, line counters, batons and
reservations (R71, R79, R168, R302). -/
def State.writeBytes (s : State) (a : Nat) (bs : List Byte) (writer : Option Nat := none) : State :=
  let n := bs.length
  let s := match place a with
    | .hwin o => { s with hostMem := memPut s.hostMem (s.hwinPhys o) bs }
    | _ => { s with mem := memPut s.mem a bs }
  let s := { s with poisoned := s.poisoned.filter fun p => !(a ≤ p && p + poisonUnit p ≤ a + n) }
  (s.countLines a n true).afterWrite a n writer

/-- An extent touches a governed region that is not LOCAL. -/
def State.handedOut (s : State) (a n : Nat) : Bool :=
  n != 0 && (List.range (regionOf (a + n - 1) + 1 - regionOf a)).any fun i =>
    s.regionGoverned (regionOf a + i) && (s.region (regionOf a + i)).state != 0

/-- A home agent's write of an extent counted, once, when it touches a region that is not LOCAL (R198). -/
def State.countHome (s : State) (a n : Nat) : State := if s.handedOut a n then s.count F.FAB_STATS.HOME_WRITES else s

/-- A home agent's write (R198). -/
def State.homeWrite (s : State) (a : Nat) (bs : List Byte) (writer : Option Nat := none) : State :=
  (s.countHome a bs.length).writeBytes a bs writer

/-- Whether a granule of [a, a + n) is protected (R290). -/
def State.protectedIn (s : State) (a n : Nat) : Bool :=
  n != 0 && s.protectedGranules.any fun g => regionOf a ≤ g && g ≤ regionOf (a + n - 1)

/-- The first protected granule of [a, a + n). -/
def State.protectedAt (s : State) (a n : Nat) : Option Nat :=
  if n = 0 then none else s.protectedGranules.find? fun g => regionOf a ≤ g && g ≤ regionOf (a + n - 1)

/-- The granule the background copy is writing: no priority request is sent for it (chapter 12). -/
def State.copyingGranule (s : State) : Option Nat := s.splRun.bind fun r => r.left.head?.map (·.1)

/-- R291: a priority request for a granule; with 64 queued it is tried again later. -/
def State.requestCopy (s : State) (g : Nat) : State :=
  if s.copyingGranule == some g || s.splPrio.contains g || 64 ≤ s.splPrio.length then s
  else { s with splPrio := s.splPrio ++ [g] }

/-- The hold of an access that waits for its memory (R166, R169, R316): no granule has this number. -/
abbrev resetHold : Nat := 0x10000000000

/-- Two accesses are events of one work; every read of the host is its own. -/
def HeldOp.sameWork : HeldOp → HeldOp → Bool
  | .unit (.hostRead _ _), _ => false
  | .unit e, .unit f => e.work == f.work
  | _, _ => false

/-- An access held at its home (R291, R316). -/
def State.holdOp (s : State) (g : Nat) (op : HeldOp) : State :=
  let there := s.heldWrites.any fun h => h.granule == g && h.op.sameWork op
  let s := if there then s else { s with heldWrites := s.heldWrites ++ [⟨g, s.now, op⟩] }
  if resetHold ≤ g then s else s.requestCopy g

/-- What a write of [a, a + n) waits for: its memory, a protected granule. -/
def State.writeHold (s : State) (a n : Nat) : Option Nat :=
  if s.memWaits a n then some resetHold else s.protectedAt a n

/-- A write by a unit, which no later step of that unit reads back: performed, held, or not performed on marked lines it covers
in part, which are reported (R168, R291). -/
def State.put (s : State) (a : Nat) (bs : List Byte) (core : Nat := 0) : State :=
  if bs.isEmpty then s
  else match s.writeHold a bs.length with
    | some g => s.holdOp g (.write a bs core)
    | none =>
      match s.poisonParts a bs.length with
      | [] => s.homeWrite a bs
      | ps =>
        let (b, rest) := s.unmarked a bs
        let s := { s with ueDue := s.ueDue ++ ps.map fun p => (p, core) }
        if rest.isEmpty then s else s.homeWrite b rest

/-- A little-endian number of n bytes written by a unit. -/
def State.putNat (s : State) (a n v : Nat) (core : Nat := 0) : State := s.put a (leBytes n v) core

/-- Memory set to zero over an extent: the cells leave the sparse form. -/
def State.zeroMem (s : State) (a n : Nat) : State :=
  { s with mem := mapErase a n s.mem, poisoned := s.poisoned.filter fun p => p < a || a + n ≤ p }

/-- The same over an extent of one window, which may be the host window (R329). -/
def State.zeroBytes (s : State) (a n : Nat) : State :=
  match place a with
  | .hwin o => { s with hostMem := mapErase (s.hwinPhys o) n s.hostMem }
  | _ => s.zeroMem a n

end Sys2Proof.Machine
end

