-- ==== Sys2Proof/Machine/Units.lean ====
section
/-! DEFINITION. Reading and writing the units of the state: contexts and their registers, cores, engines, solver,
update and digest units, ports. -/

namespace Sys2Proof.Machine

/-- The key of a thread state: core × 128 + context, or 32,768 + p for an application core. -/
def hartKey : Hart → Nat
  | .ctx core c => core.toNat * 128 + c.toNat
  | .px p => 32768 + p.toNat

/-- What a key names: an application core, the global core, the context. -/
def isPx (k : Nat) : Bool := 32768 ≤ k
def coreOf (k : Nat) : Nat := k / 128
def ctxOf (k : Nat) : Nat := k % 128
def pxOf (k : Nat) : Nat := k - 32768
/-- The cluster of a context's core. -/
def clusterOfHart (k : Nat) : Nat := k / 1024
/-- Contexts 124 to 127 are collective contexts (Table 03-1). -/
def isCollective (k : Nat) : Bool := !isPx k && 124 ≤ ctxOf k

def State.ctx (s : State) (k : Nat) : Ctx := mapGet ctxDefault k s.harts
def State.setCtx (s : State) (k : Nat) (c : Ctx) : State := { s with harts := mapSet ctxDefault k c s.harts }
/-- A context changed. -/
def State.onCtx (s : State) (k : Nat) (f : Ctx → Ctx) : State := s.setCtx k (f (s.ctx k))

def State.core (s : State) (g : Nat) : CoreRec := mapGet coreDefault g s.cores
def State.setCore (s : State) (g : Nat) (c : CoreRec) : State := { s with cores := mapSet coreDefault g c s.cores }

def State.engine (s : State) (e : Nat) : Engine := mapGet engineDefault e s.engines
def State.setEngine (s : State) (e : Nat) (v : Engine) : State := { s with engines := mapSet engineDefault e v s.engines }
def State.dsu (s : State) (u : Nat) : Dsu := mapGet dsuDefault u s.dsus
def State.setDsu (s : State) (u : Nat) (v : Dsu) : State := { s with dsus := mapSet dsuDefault u v s.dsus }
def State.puu (s : State) (u : Nat) : Puu := mapGet puuDefault u s.puus
def State.setPuu (s : State) (u : Nat) (v : Puu) : State := { s with puus := mapSet puuDefault u v s.puus }
def State.dig (s : State) (u : Nat) : Dig := mapGet digDefault u s.digs
def State.setDig (s : State) (u : Nat) (v : Dig) : State := { s with digs := mapSet digDefault u v s.digs }
def State.port (s : State) (p : Nat) : Port := mapGet portDefault p s.ports
def State.setPort (s : State) (p : Nat) (v : Port) : State := { s with ports := mapSet portDefault p v s.ports }

/-- Zero defaults of the register files. -/
def zero64 : Nat → Word64 := fun _ => 0
def zero256 : Nat → Word256 := fun _ => 0

/-- Integer register r; x0 reads zero. -/
def Ctx.xr (c : Ctx) (r : Rg) : Word64 := if r = 0 then 0 else mapGet zero64 r.toNat c.x
/-- Integer register r written; a write of x0 is discarded. -/
def Ctx.setX (c : Ctx) (r : Rg) (v : Word64) : Ctx := if r = 0 then c else { c with x := mapSet zero64 r.toNat v c.x }
def Ctx.fr (c : Ctx) (r : Rg) : Word64 := mapGet zero64 r.toNat c.f
def Ctx.setF (c : Ctx) (r : Rg) (v : Word64) : Ctx := { c with f := mapSet zero64 r.toNat v c.f }
def Ctx.vr (c : Ctx) (r : Nat) : Word256 := mapGet zero256 r c.v
def Ctx.setV (c : Ctx) (r : Nat) (v : Word256) : Ctx := { c with v := mapSet zero256 r v c.v }

/-- A status written to an integer register, zero-extended. -/
def Ctx.setStatus (c : Ctx) (r : Rg) (st : Half) : Ctx := c.setX r (BitVec.ofNat 64 st.toNat)

/-- The pc of an instruction of n bytes moved past it. -/
def Ctx.next (c : Ctx) (n : Nat) : Ctx := { c with pc := c.pc + BitVec.ofNat 64 n }

/-- Remote operations outstanding (Table 03-13): those whose quota entry is not yet freed. -/
def Ctx.outstanding (c : Ctx) : Nat := c.rops.length

/-- The context goes READY. -/
def Ctx.ready (c : Ctx) : Ctx := { c with st := .ready, wait := .none }
/-- A waiting Xeol instruction completes: the context moves past it. -/
def Ctx.wake (c : Ctx) : Ctx := (c.next 4).ready
/-- The context waits (Table 03-3: PARKED for a memory response, WAITING otherwise). -/
def Ctx.park (c : Ctx) (w : Wait) : Ctx := { c with st := .parked, wait := w }
def Ctx.waits (c : Ctx) (w : Wait) : Ctx := { c with st := .waiting, wait := w }

/-- A context that no longer holds a thread: only its pc can still be read (Table 03-13), and nothing clears it. Operation numbers
go on, so that no late reply meets another thread's operation (R207). -/
def Ctx.left (c : Ctx) : Ctx := { Ctx.empty with pc := c.pc, nextOp := c.nextOp }

/-- A thread as it starts (R74): every register zero but those named. -/
def Ctx.thread0 (pc a0 a1 sp thread : Nat) : Ctx :=
  { Ctx.empty with
    st := .ready, pc := BitVec.ofNat 64 pc, vtype := BitVec.ofNat 64 (2 ^ 63), xwlim := 1000000, xrlim := 1000000,
    thread := some thread,
    x := mapSet zero64 11 (BitVec.ofNat 64 a1) (mapSet zero64 10 (BitVec.ofNat 64 a0)
          (mapSet zero64 2 (BitVec.ofNat 64 sp) [])) }

/-- A context takes a thread; its operation numbers go on. -/
def Ctx.take (c t : Ctx) : Ctx := { t with nextOp := c.nextOp }

/-- The context parks for the response to an access that has been performed (R62). -/
def Ctx.parkResponse (c : Ctx) (len : Nat) : Ctx :=
  { c with st := .parked, wait := .response c.nextOp len, nextOp := c.nextOp + 1 }

/-- WAIT_KIND of Table 03-13. -/
def Wait.kind : Wait → Nat
  | .none => 0
  | .memory _ | .reply _ | .response _ _ | .fetch | .desc _ _ => 1
  | .quota _ | .quotaStd _ => 9
  | .fence _ | .finishFence _ _ _ _ | .exitFence => 8
  | .handFence _ _ _ _ => 1
  | .baton _ _ _ _ _ => 5
  | .sleep _ _ => 6
  | .finish _ _ _ _ _ => 7
  | .unitQueue _ _ => 10
  | .dsu _ _ _ _ => 3
  | .puu _ _ _ _ => 4
  | .engQueue _ _ | .engWait _ _ _ | .engStat _ _ _ _ => 2
  | .yield _ => 11

/-- The code of a context state (Table 03-3). -/
def HState.code : HState → Nat
  | .empty => 0 | .ready => 1 | .running => 2 | .parked => 3 | .waiting => 4 | .aborted => 5

end Sys2Proof.Machine
end

