-- ==== Sys2Proof/Machine/Log.lean ====
section
/-! DEFINITION. Records of what went wrong: refused inputs (R308), the error log (R303, R304), MSI-X (R338). -/

namespace Sys2Proof.Machine

/-- SOURCE, CORE and CTX of ERR_LAST_REFUSED (Table 13-10). -/
def Source.code : Source → Nat
  | .host => 0 | .mgmt => 1 | .bmc => 2 | .hart (.ctx _ _) => 3 | .hart (.px _) => 4
def Source.core : Source → Nat
  | .hart (.ctx g _) => g.toNat | .hart (.px p) => p.toNat | _ => 0
def Source.ctx : Source → Nat
  | .hart (.ctx _ c) => c.toNat | _ => 0

/-- R308: a refusal is latched and counted; nothing else changes. -/
def State.refuse (s : State) (src : Source) (kind off : Nat) (value : Word64) : State :=
  let f := F.ERR_LAST_REFUSED.SEQ
  let w : Word64 := wordPut (wordPut (wordPut (wordPut (wordPut (wordPut 0
    f.hi f.lo ((s.fld f + 1) % 256))
    F.ERR_LAST_REFUSED.SOURCE.hi F.ERR_LAST_REFUSED.SOURCE.lo (Source.code src))
    F.ERR_LAST_REFUSED.KIND.hi F.ERR_LAST_REFUSED.KIND.lo kind)
    F.ERR_LAST_REFUSED.CORE.hi F.ERR_LAST_REFUSED.CORE.lo (Source.core src))
    F.ERR_LAST_REFUSED.CTX.hi F.ERR_LAST_REFUSED.CTX.lo (Source.ctx src))
    F.ERR_LAST_REFUSED.OFFSET.hi F.ERR_LAST_REFUSED.OFFSET.lo off
  let s := s.setReg R.ERR_LAST_REFUSED 0 w
  let s := s.setReg R.ERR_LAST_REFUSED_VAL 0 value
  s.count F.ERR_STATS.REFUSED_WRITES

/-- What an error record says (Table 13-3). An address is a global one. -/
structure ErrInfo where
  cause  : Cause
  cls    : Nat
  ep     : Option Nat := none
  hart   : Option Nat := none
  core   : Nat := 0
  addr   : Option Nat := none
  status : Half := 0

/-- An error of a cause at its own class. -/
def ErrInfo.of (c : Cause) : ErrInfo := { cause := c, cls := c.cls }

/-- The four words of a record (Table 13-3). -/
def State.recordWords (s : State) (i : ErrInfo) (poisoned : Bool) : List Word64 :=
  let w0 := ((i.ep.getD s.self) % 2 ^ 16) * 2 ^ 48 + i.cause.code * 2 ^ 40 + i.cls * 2 ^ 37 + b2n poisoned * 2 ^ 36
    + b2n i.addr.isSome * 2 ^ 35 + b2n i.hart.isSome * 2 ^ 34 + b2n (i.hart.any isPx) * 2 ^ 33
    + i.status.toNat * 2 ^ 16 + s.jobTag
  let core := match i.hart with
    | some k => if isPx k then pxOf k else coreOf k
    | none => i.core
  let cx := match i.hart with
    | some k => if isPx k then 0 else ctxOf k
    | none => 0
  let pc := match i.hart with
    | some k => (s.ctx k).pc.toNat % 2 ^ 48
    | none => 0
  [BitVec.ofNat 64 w0, BitVec.ofNat 64 (core * 2 ^ 56 + cx * 2 ^ 49 + pc), BitVec.ofNat 64 (i.addr.getD 0),
   BitVec.ofNat 64 s.now]

/-- The order of records of one tick (R304): CAUSE, CORE, CTX. -/
def recordOrder (ws : List Word64) : Nat :=
  wordGet (ws.getD 0 0) 47 40 * 2 ^ 15 + wordGet (ws.getD 1 0) 63 56 * 2 ^ 7 + wordGet (ws.getD 1 0) 55 49

/-- The record in a slot, none where nothing was written. -/
def State.slot (s : State) (n : Nat) : Option (List Word64) := assocGet (n % 64) s.log

/-- The number at which a record of this tick enters, moving later ones of the tick up by one (R304). -/
def recordPlace (s : State) (new : List Word64) : Nat → Nat → State × Nat
  | 0, n => (s, n)
  | fuel + 1, n =>
    match s.slot (n + 63) with
    | some prev =>
      if (prev.getD 3 0).toNat = s.now && recordOrder new < recordOrder prev then
        recordPlace { s with log := assocSet (n % 64) prev s.log } new fuel ((n + 2 ^ 32 - 1) % 2 ^ 32)
      else (s, n)
    | none => (s, n)

/-- ERR_FIRST0 to ERR_FIRST3. -/
def State.firstWords (s : State) : List Word64 :=
  [s.reg R.ERR_FIRST0, s.reg R.ERR_FIRST1, s.reg R.ERR_FIRST2, s.reg R.ERR_FIRST3]
def State.setFirst (s : State) (ws : List Word64) : State :=
  (((s.setReg R.ERR_FIRST0 0 (ws.getD 0 0)).setReg R.ERR_FIRST1 0 (ws.getD 1 0)).setReg R.ERR_FIRST2 0
    (ws.getD 2 0)).setReg R.ERR_FIRST3 0 (ws.getD 3 0)

/-- R303, R304: a record enters the log; the first since FIRST_VALID was cleared is kept; records of class CONTEXT and
above go to the host's ring (R304). -/
def State.record (s : State) (i : ErrInfo) (poisoned : Bool) : State :=
  let ws := s.recordWords i poisoned
  let n := s.fld F.ERR_LOG_HEAD.NEXT
  let displaced := s.slot
  let (s, at_) := recordPlace s ws 63 n
  let old := displaced at_
  let s := { s with log := assocSet (at_ % 64) ws s.log }
  let s := s.setFld F.ERR_LOG_HEAD.NEXT ((n + 1) % 2 ^ 32)
  let s := s.count F.ERR_STATS.RECORDS
  let s := if !s.flag F.ERR_STATUS.FIRST_VALID || (at_ != n && old == some s.firstWords)
    then (s.setFirst ws).hwSet F.ERR_STATUS.FIRST_VALID 1 else s
  if 1 ≤ i.cls then { s with forward := s.forward ++ [(n, ws)] } else s

/-- What hardware offered a VALID log in this tick while the log was full (R12). -/
def State.aside (s : State) (off unit : Nat) : Option Word64 := assocGet (2 ^ 40 + keyOf off unit) s.hw
def State.setAside (s : State) (off unit : Nat) (w : Word64) : State :=
  { s with hw := assocSet (2 ^ 40 + keyOf off unit) w s.hw }

/-- R12: a VALID log word captured by hardware: into an empty log, or kept aside for a clear in the same tick, in place of an earlier
one that it precedes. -/
def State.capture (s : State) (valid : Fld) (w : Word64) (unit : Nat := 0) (precedes : Word64 → Bool := fun _ => false) : State :=
  if !s.flag valid unit then (s.setReg valid.off unit w).hwSet valid 1 unit
  else if (s.aside valid.off unit).any fun v => !precedes v then s
  else s.setAside valid.off unit w

/-- The MSI-X vector v is signalled (R338): sent, or pending while the function or the vector is masked. -/
def State.msix (s : State) (enabled : Bool) (v : Nat) : State :=
  if !enabled then s
  else if wordGet (s.reg (R.MSIX_DATA + 16 * v)) 32 32 = 1
    then s.setReg R.MSIX_PBA 0 (s.reg R.MSIX_PBA ||| BitVec.ofNat 64 (2 ^ v))
  else s.emit (.msix v)

/-- An in-band interrupt of one data byte (Table 16-8): sent while the target has an address and interrupts are on. -/
def State.ibi (s : State) (b : Byte) : State :=
  if s.i3c.dyn.isSome && s.i3c.ibiOn then s.emit (.ibi [b]) else s

/-- A commit counted as refused (R310). -/
def State.commitRefused (s : State) : State := s.count F.ERR_STATS.REFUSED_COMMITS

end Sys2Proof.Machine
end

