-- ==== Sys2Proof/Machine/Link.lean ====
section
/-! DEFINITION. Packets as bytes (R225), flits (R217 to R219), credits and arbitration (R223, R224), routes (R227 to
R230) and the job-tag checks (R235): what sending and accepting a packet does. -/

namespace Sys2Proof.Machine

/-! ### Packets -/

/-- Table 09-8. -/
abbrev PT.LOAD : BitVec 6 := 0x01
abbrev PT.STORE : BitVec 6 := 0x02
abbrev PT.PUT : BitVec 6 := 0x03
abbrev PT.GET : BitVec 6 := 0x04
abbrev PT.AMO : BitVec 6 := 0x05
abbrev PT.CAS : BitVec 6 := 0x06
abbrev PT.FADD : BitVec 6 := 0x07
abbrev PT.HAND : BitVec 6 := 0x08
abbrev PT.DATA : BitVec 6 := 0x10
abbrev PT.ACK : BitVec 6 := 0x11
abbrev PT.COL_DATA : BitVec 6 := 0x20
abbrev PT.COL_CTL : BitVec 6 := 0x21
abbrev PT.TIME : BitVec 6 := 0x30
abbrev PT.POISON : BitVec 6 := 0x31
abbrev PT.LAUNCH : BitVec 6 := 0x32

/-- Whether a type travels on CTL, on a response or on a request channel (Table 09-8). -/
def isCtl (p : Packet) : Bool := p.type == PT.COL_CTL || p.type == PT.TIME || p.type == PT.POISON || p.type == PT.LAUNCH
def isRsp (p : Packet) : Bool := p.type == PT.DATA || p.type == PT.ACK

/-- The channel a packet takes on the hop after which HOPS reads as it stands: REQh or RSPh with h = HOPS - 1 (R222). -/
def channelOf (p : Packet) : Nat :=
  if isCtl p then 16 else if isRsp p then 8 + (p.hops.toNat - 1) % 8 else (p.hops.toNat - 1) % 8

/-- Whole slots of a packet (R225). -/
def packetSlots (p : Packet) : Nat := (16 + 8 + p.data.length + 15) / 16

/-- The two header words of Table 09-7. -/
def headerWord0 (p : Packet) : Nat :=
  p.tag.toNat * 2 ^ 48 + p.dest.toNat * 2 ^ 32 + p.src.toNat * 2 ^ 16 + p.type.toNat * 2 ^ 10 + p.cls.toNat * 2 ^ 7
    + p.hops.toNat * 2 ^ 3 + b2n p.pool * 4 + p.detour.toNat
def headerWord1 (p : Packet) : Nat :=
  p.via.toNat * 2 ^ 48 + p.txn.toNat * 2 ^ 28 + p.data.length % 2 ^ 13 * 2 ^ 15 + p.sub.toNat * 2 ^ 9

/-- A packet's bytes, filled up to whole slots. -/
def packetBytes (p : Packet) : List Byte :=
  let b := leBytes 8 (headerWord0 p) ++ leBytes 8 (headerWord1 p) ++ leBytes 8 p.word.toNat ++ p.data
  b ++ List.replicate (16 * packetSlots p - b.length) 0

/-- The packet that begins a byte stream, and the rest of the stream; none until it has wholly arrived. -/
def parsePacket (bs : List Byte) : Option (Packet × List Byte) :=
  if bs.length < 32 then none
  else
    let w0 := fieldAt bs 0 8
    let w1 := fieldAt bs 8 8
    let len := bitsOf w1 27 15
    let slots := (16 + 8 + len + 15) / 16
    if bs.length < 16 * slots then none
    else some (⟨BitVec.ofNat 16 (bitsOf w0 63 48), BitVec.ofNat 16 (bitsOf w0 47 32), BitVec.ofNat 16 (bitsOf w0 31 16),
      BitVec.ofNat 6 (bitsOf w0 15 10), BitVec.ofNat 3 (bitsOf w0 9 7), BitVec.ofNat 4 (bitsOf w0 6 3), bitOf w0 2,
      BitVec.ofNat 2 (bitsOf w0 1 0), BitVec.ofNat 16 (bitsOf w1 63 48), BitVec.ofNat 20 (bitsOf w1 47 28),
      BitVec.ofNat 6 (bitsOf w1 14 9), BitVec.ofNat 64 (fieldAt bs 16 8), slice bs 24 len⟩, bs.drop (16 * slots))

/-- The packets a byte stream holds whole, and what is left. -/
def parseAll : Nat → List Byte → List Packet × List Byte
  | 0, bs => ([], bs)
  | n + 1, bs =>
    match parsePacket bs with
    | none => ([], bs)
    | some (p, rest) => let r := parseAll n rest; (p :: r.1, r.2)

/-- Bytes of a load or store by its size code (Table 09-8). -/
def sizeOf_ (sub : BitVec 6) : Nat := 2 ^ sub.toNat

/-- R226: a type, SUB, LEN or DETOUR outside Table 09-8. -/
def malformed (p : Packet) : Bool :=
  let n := p.data.length
  let t := p.type
  let ok :=
    if t == PT.LOAD then p.sub.toNat ≤ 6 && n == 0
    else if t == PT.STORE then p.sub.toNat ≤ 6 && n == sizeOf_ p.sub
    else if t == PT.PUT then p.sub == 0 && 1 ≤ n && n ≤ 4096
    else if t == PT.GET then p.sub == 0 && n == 8 && 1 ≤ ofLe p.data && ofLe p.data ≤ 4096
    else if t == PT.AMO then p.sub.toNat ≤ 5 && n == 8
    else if t == PT.CAS then (p.sub == 0 && n == 16) || (p.sub == 1 && n == 32)
    else if t == PT.FADD then p.sub == 0 && n == 8
    else if t == PT.HAND then p.sub == 0 && n == 8
    else if t == PT.DATA then p.sub == 0 && n ≤ 4096
    else if t == PT.ACK then p.sub == 0 && n == 0
    else if t == PT.COL_DATA then p.sub.toNat / 16 != 3 && p.sub.toNat % 8 == 0 && n ≤ 4096
    else if t == PT.COL_CTL then p.sub.toNat ≤ 6 && n == 40
    else if t == PT.TIME then (p.sub == 0 && n == 16) || (p.sub == 1 && n == 40)
    else if t == PT.POISON then p.sub == 0 && n == 16
    else if t == PT.LAUNCH then p.sub == 0 && n == 16
    else false
  !ok || p.detour == 3

/-! ### Job tags -/

/-- The table entry that holds a tag ACTIVE, and one that holds it DRAINING (R234). -/
def State.activeEntry (s : State) (tag : Nat) : Option Nat :=
  (List.range 64).find? fun i => s.fld F.LNK_TAG_ENTRY.STATE i == 1 && s.fld F.LNK_TAG_ENTRY.TAG i == tag
def State.drainingEntry (s : State) (tag : Nat) : Option Nat :=
  (List.range 64).find? fun i => s.fld F.LNK_TAG_ENTRY.STATE i == 2 && s.fld F.LNK_TAG_ENTRY.TAG i == tag

/-- Whether a port carries a tag; the fabric's own tag 0 passes on every port (R234, R235). -/
def State.carries (s : State) (tag port : Nat) : Bool :=
  tag == 0 || (s.activeEntry tag).any fun i => bitOf (s.fld F.LNK_TAG_PORTS.PORTS i) port

/-! ### Flits -/

/-- Port states of Table 09-22. -/
def State.portState (s : State) (p : Nat) : Nat := s.fld F.LNK_PORT_STATE.STATE p
def State.isUp (s : State) (p : Nat) : Bool := s.portState p == 2
/-- Whether the port runs Remal Link 1. -/
def State.isGen1 (s : State) (p : Nat) : Bool := s.flag F.LNK_PORT_STATE.GEN p

/-- Payload slots of a flit (R217). -/
def State.flitSlots (s : State) (p : Nat) : Nat := if s.isGen1 p then 7 else 15

/-- A flit: the header of Table 09-5, the payload, the CRC (R217, R219). -/
def State.flit (s : State) (p seq ftype nslots : Nat) (payload : List Byte) : List Byte :=
  let pt := s.port p
  let h := seq * 2 ^ 52 + pt.rxSeq * 2 ^ 40 + ftype * 2 ^ 37 + pt.crNext * 2 ^ 32
    + mapGet (fun _ => 0) pt.crNext pt.freed % 8192 * 2 ^ 19 + nslots * 2 ^ 15
  let body := leBytes 8 h ++ payload ++ List.replicate (16 * s.flitSlots p - payload.length) 0
  body ++ leBytes 8 (crc64 body)

/-- The 10-bit symbols of a codeword: the framing bits, the 640 bytes, low bits first, and the 30 check symbols of RS(544,514), which the
spec does not state (R213, R214; DESIGN CHOICE, log entry 15). -/
def codeSymbols (counter first : Nat) (message : List Byte) : List Nat :=
  let v := (counter * 2 ^ 10 + first) + ofLe message * 2 ^ 20
  ((List.range 514).map fun i => v / 2 ^ (10 * i) % 2 ^ 10) ++ (List.range 30).map (Config.fecCheck v)

/-- Symbol s goes to lane s mod 4 (R214). -/
def deal (symbols : List Nat) : List (List Nat) :=
  (List.range 4).map fun l => (List.range (symbols.length / 4)).map fun i => symbols.getD (4 * i + l) 0

/-- A flit goes into the FEC messages (R214): each 640 bytes leave as one codeword. -/
def State.frame (s : State) (p : Nat) (f : List Byte) : State :=
  let q := s.port p
  let first := if q.first = 1023 then q.message.length else q.first
  let b := q.message ++ f
  if b.length < 640 then s.setPort p { q with message := b, first := first }
  else
    (s.setPort p { q with message := b.drop 640, first := 1023, codeword := (q.codeword + 1) % 1024 }).emit
      (.lanes p (deal (codeSymbols q.codeword first (b.take 640))))

/-- A flit leaves: the reported credit counter moves on by one (R223). -/
def State.sendFlit (s : State) (p seq ftype nslots : Nat) (payload : List Byte) : State :=
  let f := s.flit p seq ftype nslots payload
  let s := s.setPort p { s.port p with crNext := ((s.port p).crNext + 1) % 18 }
  ((s.moved (.tx p) payload.length).emit (.flit p f)).frame p f

/-- The payload of a PARAM flit (Table 09-26). -/
def State.paramPayload (s : State) (p : Nat) : List Byte :=
  [1, if s.isGen1 p then 1 else 2] ++ leBytes 2 s.self ++ [BitVec.ofNat 8 p, 0x7F, 0, 0]
    ++ leBytes 2 272 ++ leBytes 2 64 ++ leBytes 2 7872 ++ leBytes 2 512 ++ List.replicate 16 0

/-- A PARAM flit leaves the port (R218). -/
def State.sendParam (s : State) (p : Nat) : State :=
  (s.setPort p { s.port p with paramAt := s.now }).sendFlit p 0 3 2 (s.paramPayload p)

/-- A DATA flit leaves and is held for replay (R220). -/
def State.sendData (s : State) (p nslots : Nat) (payload : List Byte) : State :=
  let q := s.port p
  let s := s.setPort p { q with replay := q.replay ++ [(q.nextSeq, nslots, payload, s.now)], nextSeq := (q.nextSeq + 1) % 4096 }
  s.sendFlit p q.nextSeq 1 nslots payload

/-- What is left of the packet under way goes into DATA flits, each begun afresh (DESIGN CHOICE, log entry 15), while the replay buffer has
room (R220). -/
def sendRest (p : Nat) : Nat → State → State
  | 0, s => s
  | n + 1, s =>
    let q := s.port p
    if q.txRest.isEmpty || 512 ≤ q.replay.length then s
    else
      let k := 16 * s.flitSlots p
      let s := s.setPort p { q with txRest := q.txRest.drop k }
      sendRest p n (s.sendData p ((q.txRest.take k).length / 16) (q.txRest.take k))

/-- Receive slots the peer announces for a credit counter (R223). -/
def reserveOf (v : Nat) : Nat := if v = 17 then 7872 else if v = 16 then 64 else 272

/-- Credits the sender holds (R223). -/
def Port.credits (q : Port) (v : Nat) : Nat := reserveOf v - mapGet (fun _ => 0) v q.taken

/-- How a packet's credits would be taken: from the pool, from its channel, or not yet. -/
def Port.grant (q : Port) (pk : Packet) : Option Nat :=
  let n := packetSlots pk
  if n ≤ q.credits 17 then some 17 else if n ≤ q.credits (channelOf pk) then some (channelOf pk) else none

/-- The first packet of each channel in a queue, with its place. -/
def channelHeads (q : List Packet) : List (Nat × Packet) :=
  (q.zipIdx.map fun e => (e.2, e.1)).filter fun e => !(q.take e.1).any fun r => channelOf r == channelOf e.2

/-- The weight of a class (Table 09-25). -/
def State.weight (s : State) (c : Nat) : Nat := bitsOf (s.fld F.LNK_ARB.WEIGHTS) (4 * c + 3) (4 * c)

/-- Of some heads, the one with the highest channel. -/
def topChannel (hs : List (Nat × Packet)) : Option (Nat × Packet) :=
  hs.foldl (fun best e => match best with
    | none => some e
    | some b => if channelOf b.2 < channelOf e.2 then some e else some b) none

/-- R224: the packet that leaves next, its place in the queue, and the round-robin state afterwards. -/
def State.chooseNext (s : State) (p : Nat) : Option (Nat × Packet × Nat × Nat) :=
  let q := s.port p
  let hs := (channelHeads q.queue).filter fun e => (q.grant e.2).isSome
  match hs.find? fun e => isCtl e.2 with
  | some e => some (e.1, e.2, q.rrClass, q.rrLeft)
  | none =>
    match topChannel (hs.filter fun e => isRsp e.2) with
    | some e => some (e.1, e.2, q.rrClass, q.rrLeft)
    | none =>
      -- requests: the class in turn while its weight lasts, else the next class that has one
      let of (c : Nat) := topChannel (hs.filter fun e => e.2.cls.toNat == c % 8)
      let cur := if 0 < q.rrLeft then (of q.rrClass).map fun e => (e.1, e.2, q.rrClass, q.rrLeft - 1) else none
      match cur with
      | some r => some r
      | none =>
        (List.range 8).findSome? fun i =>
          let c := (q.rrClass + 1 + i) % 8
          (of c).map fun e => (e.1, e.2, c, s.weight c - 1)

/-- A queued packet whose tag the port no longer carries is dropped at the head (R237). -/
def State.dropStale (s : State) (p : Nat) : State :=
  let q := s.port p
  let gone := q.queue.filter fun k => !s.carries k.tag.toNat p
  if gone.isEmpty then s
  else
    let s := s.setPort p { q with queue := q.queue.filter fun k => s.carries k.tag.toNat p }
    let stale := (gone.filter fun k => (s.drainingEntry k.tag.toNat).isSome).length
    let s := if stale = 0 then s else s.count F.LNK_PORT_STATS.STALE_DROPS p stale
    if gone.length = stale then s else s.count F.LNK_PORT_STATS.TAG_DROPS p (gone.length - stale)

/-- Packets leave the port while credits and replay buffer allow, each after the slots of the one before (R220, R223, R224). -/
def pumpN (p : Nat) : Nat → State → State
  | 0, s => sendRest p 300 s
  | n + 1, s =>
    let s := sendRest p 300 s
    let q := s.port p
    if !q.txRest.isEmpty || 512 ≤ q.replay.length then s
    else
      match s.chooseNext p with
      | none => s
      | some (i, pk, rc, rl) =>
        let v := (q.grant pk).getD 17
        let pk := { pk with pool := v == 17 }
        pumpN p n (s.setPort p { q with
          queue := q.queue.eraseIdx i, rrClass := rc, rrLeft := rl, txRest := packetBytes pk,
          taken := mapSet (fun _ => 0) v (mapGet (fun _ => 0) v q.taken + packetSlots pk) q.taken })

/-- A full replay buffer with slots or packets waiting: an IDLE flit is sent instead of DATA (R220). -/
def State.idleIfFull (s : State) (p : Nat) : State :=
  let q := s.port p
  if 512 ≤ q.replay.length && (!q.txRest.isEmpty || !q.queue.isEmpty) then s.sendFlit p 0 0 0 [] else s

def State.pump (s : State) (p : Nat) : State :=
  let s := s.dropStale p
  if !s.isUp p || !(s.port p).peerSeen then s else (pumpN p (s.port p).queue.length s).idleIfFull p

/-! ### Routes -/

/-- Whether an entry is valid; routing reads the entries as they stood before this tick's writes (R232). -/
def State.routeValid (s : State) (i : Nat) : Bool := s.fldOld F.LNK_ROUTE_ENTRY.VALID i == 1

/-- The port set of a node or group entry, empty when not valid (R227). -/
def portsOf (mask : Nat) : List Nat := (List.range 32).filter fun i => bitOf mask i
def State.nodeEntry (s : State) (i : Nat) : List Nat :=
  if s.routeValid i then portsOf (s.fldOld F.LNK_ROUTE_ENTRY.PORTS i) else []
def State.groupEntry (s : State) (i : Nat) : List Nat :=
  if s.routeValid (256 + i) then portsOf (s.fldOld F.LNK_ROUTE_ENTRY.PORTS (256 + i)) else []
/-- GPORTS as ports 27 to 31 (Table 09-19). -/
def State.globalPorts (s : State) (g : Nat) : List Nat :=
  if s.routeValid (512 + g) then
    (List.range 5).filterMap fun i => if bitOf (s.fldOld F.LNK_ROUTE_ENTRY.GPORTS (512 + g)) i then some (27 + i) else none
  else []

/-- The capability bit a packet needs of its next hop (R233). -/
def capsFor (p : Packet) : List Nat :=
  (if p.type == PT.FADD then [1] else []) ++ (if p.type == PT.CAS && p.sub == 1 then [2] else [])
    ++ (if p.type == PT.HAND then [3] else []) ++ (if p.detour != 0 then [4] else [])
    ++ (if p.type == PT.COL_DATA && p.sub.toNat / 16 == 2 then [5] else [])

/-- The port's peer has what the packet needs. -/
def State.capable (s : State) (pk : Packet) (p : Nat) : Bool :=
  (capsFor pk).all fun b => bitOf (s.fld F.LNK_PORT_STATE.PEER_CAPS p) b

/-- A usable port: UP, carries the tag, has the capabilities (R228). -/
def State.usable (s : State) (pk : Packet) (p : Nat) : Bool :=
  s.isUp p && s.carries pk.tag.toNat p && s.capable pk p

/-- Whether a route inside the group to an endpoint has a usable first port. -/
def State.routable (s : State) (pk : Packet) (t : Nat) : Bool :=
  if epPos t != epPos s.self then (s.nodeEntry (epPos t)).any (s.usable pk)
  else if epNode t != epNode s.self then (s.groupEntry (epNode t)).any (s.usable pk)
  else false

/-- The gateway through which a packet goes to a group this package has no usable link to: the alternate when no usable route leads to
the first (R228). -/
def State.gatewayFor (s : State) (pk : Packet) (g : Nat) : Nat :=
  let gw := s.fldOld F.LNK_ROUTE_ENTRY.GATEWAY (512 + g)
  if s.routable pk gw then gw else s.fldOld F.LNK_ROUTE_ENTRY.ALT_GATEWAY (512 + g)

/-- The outcome of R228. -/
inductive Hop where
  | ports (ps : List Nat)
  | deliver
  | none
  deriving DecidableEq, Repr

/-- R228: the next hop of a packet, and the packet with a detour point passed. -/
def State.nextPorts (s : State) (pk : Packet) : Packet × Hop :=
  let own := s.self
  let pk := if pk.detour == 1 && epNode own == epNode pk.via.toNat then { pk with detour := 0, via := 0 } else pk
  let pk := if pk.detour == 2 && epGroup own == epGroup pk.via.toNat then { pk with detour := 0, via := 0 } else pk
  let t := if pk.detour == 1 then epGroup own * 64 + epNode pk.via.toNat * 4 + epPos own
    else if pk.detour == 2 then epGroup pk.via.toNat * 64
    else pk.dest.toNat
  let within (t : Nat) : Hop :=
    if epPos t != epPos own then .ports (s.nodeEntry (epPos t))
    else if epNode t != epNode own then .ports (s.groupEntry (epNode t))
    else .deliver
  if epGroup t != epGroup own then
    let gp := s.globalPorts (epGroup t)
    if gp.any (s.usable pk) then (pk, .ports gp)
    else if !s.routeValid (512 + epGroup t) then (pk, .none)
    else
      let t := s.gatewayFor pk (epGroup t)
      if t == own then (pk, .none) else (pk, within t)
  else (pk, within t)

/-- Queued slots of a port; a Remal Link 1 port's count twice in the products of R230. -/
def State.queued (s : State) (p : Nat) : Nat := ((s.port p).queue.map packetSlots).sum
def State.queuedWeighted (s : State) (p : Nat) : Nat := if s.isGen1 p then 2 * s.queued p else s.queued p

/-- The port with the fewest queued slots, the lower number on a tie. -/
def State.leastQueued (s : State) (ps : List Nat) : Option Nat :=
  ps.foldl (fun best p => match best with
    | none => some p
    | some b => if s.queued p < s.queued b then some p else some b) none

/-- Whether a class is ordered (Table 08-3); CTL packets hash as class 0 (R250). -/
def orderedPkt (pk : Packet) : Bool := isCtl pk || pk.cls.toNat < 4

/-- R229: the port a packet takes among those R228 returned; the status when none does. -/
def State.choosePort (s : State) (pk : Packet) (ps : List Nat) : Except Half Nat :=
  let alive := ps.filter fun p => s.isUp p || (orderedPkt pk && s.portState p == 3)
  let tagged := alive.filter fun p => s.carries pk.tag.toNat p
  let u := tagged.filter (s.capable pk)
  if alive.isEmpty then .error ST.UNREACHABLE
  else if tagged.isEmpty then .error ST.TAG_REVOKED
  else if u.isEmpty then .error ST.UNREACHABLE
  else if orderedPkt pk then
    let c := if isCtl pk then 0 else pk.cls.toNat
    .ok (u.getD ((pk.src.toNat + pk.dest.toNat + c) % u.length) 0)
  else match s.leastQueued u with
    | some p => .ok p
    | none => .error ST.UNREACHABLE

/-- A packet put into a port's queue for its next hop: HOPS counts the hop (R231), and what can leave does. -/
def State.enqueue (s : State) (p : Nat) (pk : Packet) : State :=
  let q := s.port p
  (s.setPort p { q with queue := q.queue ++ [{ pk with hops := pk.hops + 1, pool := false }] }).pump p

/-- Hops within a group between two endpoints (R228). -/
def hopsWithin (a b : Nat) : Nat := b2n (epPos a != epPos b) + b2n (epNode a != epNode b)

/-- Hops until a packet lands in another group: the global link, and before it the way to the gateway (R228). -/
def State.landingHops (s : State) (pk : Packet) (g : Nat) : Nat :=
  if (s.globalPorts g).any (s.usable pk) then 1 else hopsWithin s.self (s.gatewayFor pk g) + 1

/-- Minimal hops to an endpoint from here; where the landing endpoint of a global link is not known, two hops are
counted after it (DESIGN CHOICE, log entry 15). -/
def State.minHops (s : State) (pk : Packet) (t : Nat) : Nat :=
  if epGroup t == epGroup s.self then hopsWithin s.self t
  else
    match (s.globalPorts (epGroup t)).find? (s.usable pk) with
    | some p => 1 + hopsWithin (s.fld F.LNK_PORT_STATE.PEER_EP p) t
    | none => s.landingHops pk (epGroup t) + 2

/-- The next number after x in a rotation over 0 .. n - 1 without the excluded ones. -/
def nextRotation (n x : Nat) (excluded : List Nat) : Option Nat :=
  ((List.range n).map fun i => (x + 1 + i) % n).find? fun y => !excluded.contains y

/-- R230: the source's decision on a detour for a relaxed packet. -/
def State.detour (s : State) (pk : Packet) : Packet × State :=
  if orderedPkt pk || !s.flag F.LNK_ARB.NONMIN_EN then (pk, s)
  else
    let own := s.self
    let t := pk.dest.toNat
    let usable (pk : Packet) : List Nat := match (s.nextPorts pk).2 with
      | .ports ps => ps.filter (s.usable pk)
      | _ => []
    let fewest (ps : List Nat) : Option Nat := minOf (ps.map s.queuedWeighted)
    let same := epGroup t == epGroup own
    let cand := if same then nextRotation 16 s.rotNode [epNode own, epNode t]
      else nextRotation 256 s.rotGroup [epGroup own, epGroup t]
    match cand with
    | none => (pk, s)
    | some c =>
      let s' := if same then { s with rotNode := c } else { s with rotGroup := c }
      let via := if same then epGroup own * 64 + c * 4 else c * 64
      let dp : Packet := { pk with detour := if same then 1 else 2, via := BitVec.ofNat 16 via }
      -- a detour ends where it lands in group c; from there at most five hops (R228; DESIGN CHOICE, log entry 15)
      let hn := if same then 2 + b2n (epPos own != epPos t) else s.landingHops dp c + 5
      match fewest (usable pk), fewest (usable dp) with
      | some qm, some qn =>
        if hn ≤ 8 && qn * hn + s.fld F.LNK_ARB.BIAS < qm * s.minHops pk t then (dp, s') else (pk, s')
      | _, _ => (pk, s')

/-- A relaxed packet of this package is sent, on a detour or not (LNK_LEVEL_UTIL.NONMIN, Table 09-24). -/
def State.countSent (s : State) (pk : Packet) (detoured : Bool) : State :=
  if orderedPkt pk then s
  else { s with traffic := { s.traffic with relaxed := s.traffic.relaxed + 1, detours := s.traffic.detours + b2n detoured } }

/-- A packet sent by this package: routed and queued, or the status that refuses it (R203, R210, R229). -/
def State.send (s : State) (pk : Packet) : Except Half State :=
  if s.self = 0xFFFF then .error ST.UNREACHABLE
  else
    let (pk, s) := s.detour pk
    let detoured := pk.detour != 0
    match s.nextPorts pk with
    | (pk, .ports ps) =>
      match s.choosePort pk ps with
      | .ok p => .ok ((s.countSent pk detoured).enqueue p pk)
      | .error e => .error e
    | _ => .error ST.UNREACHABLE

/-- The same where nobody takes the status. -/
def State.sendQuiet (s : State) (pk : Packet) : State :=
  match s.send pk with
  | .ok s' => s'
  | .error _ => s

/-- A plain packet of this package. -/
def State.mkPacket (s : State) (tag dest : Nat) (type : BitVec 6) (cls txn sub : Nat) (word : Nat)
    (data : List Byte) : Packet :=
  ⟨BitVec.ofNat 16 tag, BitVec.ofNat 16 dest, BitVec.ofNat 16 s.self, type, BitVec.ofNat 3 cls, 0, false, 0, 0,
   BitVec.ofNat 20 txn, BitVec.ofNat 6 sub, BitVec.ofNat 64 word, data⟩

/-! ### Arrival -/

/-- A packet can be taken up: it heads its channel in the buffer (R222), or comes over an UP port whose buffer holds none of its
channel. -/
def State.arrives (s : State) (p : Nat) (pk : Packet) : Bool :=
  let first := (s.port p).rx.find? fun r => channelOf r == channelOf pk
  first == some pk || (s.isUp p && first.isNone)

/-- A received packet leaves its buffer and its slots are returned (R223). -/
def State.takeRx (s : State) (p : Nat) (pk : Packet) : State :=
  let q := s.port p
  if q.rx.contains pk then
    let v := if pk.pool then 17 else channelOf pk
    let back := (mapGet (fun _ => 0) v q.freed + packetSlots pk) % 8192
    s.setPort p { q with rx := q.rx.erase pk, freed := mapSet (fun _ => 0) v back q.freed }
  else s

/-- A packet forwarded in transit (R228 to R231): dropped and counted where it cannot go on. -/
def State.forwardPacket (s : State) (p : Nat) (pk : Packet) : State :=
  if pk.hops.toNat = 8 then s.count F.LNK_PORT_STATS.ROUTE_DROPS p
  else
    match s.nextPorts pk with
    | (pk, .ports ps) =>
      match s.choosePort pk ps with
      | .ok o => s.enqueue o pk
      | .error e => if e = ST.TAG_REVOKED then s.count F.LNK_PORT_STATS.TAG_DROPS p else s.count F.LNK_PORT_STATS.ROUTE_DROPS p
    | _ => s.count F.LNK_PORT_STATS.ROUTE_DROPS p

/-- R226, R235: what becomes of a packet that arrived on a port: handed to its receiver here, or done with. -/
def State.accept (s : State) (p : Nat) (pk : Packet) : Bool × State :=
  if !s.arrives p pk then (false, s)
  else
    let s := s.takeRx p pk
    if malformed pk then (false, s.count F.LNK_PORT_STATS.ROUTE_DROPS p)
    else if pk.type == PT.TIME || pk.type == PT.LAUNCH then
      (pk.tag == 0, if pk.tag == 0 then s else s.count F.LNK_PORT_STATS.TAG_DROPS p)
    else if (s.drainingEntry pk.tag.toNat).isSome then (false, s.count F.LNK_PORT_STATS.STALE_DROPS p)
    else
      match s.activeEntry pk.tag.toNat with
      | none => (false, s.count F.LNK_PORT_STATS.TAG_DROPS p)
      | some i =>
        if !bitOf (s.fld F.LNK_TAG_PORTS.PORTS i) p then (false, s.count F.LNK_PORT_STATS.TAG_DROPS p)
        else if pk.type == PT.POISON then (true, s)
        else if pk.dest.toNat = s.self then
          if s.flag F.LNK_TAG_ENTRY.LOCAL i then (true, s) else (false, s.count F.LNK_PORT_STATS.TAG_DROPS p)
        else (false, s.forwardPacket p pk)

end Sys2Proof.Machine
end

