-- ==== Sys2Proof/Machine/Transfer.lean ====
section
/-! DEFINITION. Transfer descriptors (Table 10-3), completion words (Table 10-5) and the end of a transfer (R244 to
R247); communicator lookups. -/

namespace Sys2Proof.Machine

/-- The completion word of Table 10-5. -/
def completionWord (st : Half) (chunks : Nat) : Nat := st.toNat * 2 ^ 48 + 2 ^ 47 + chunks % 2 ^ 32

/-! ### The descriptor's fields -/

def Xfer.kind (x : Xfer) : Nat := fieldAt x.desc 0 1
def Xfer.op (x : Xfer) : Nat := fieldAt x.desc 1 1
def Xfer.form (x : Xfer) : Nat := fieldAt x.desc 2 1 % 16
def Xfer.rm (x : Xfer) : Nat := fieldAt x.desc 2 1 / 16 % 8
def Xfer.baton (x : Xfer) : Bool := bitOf (fieldAt x.desc 3 1) 0
def Xfer.relay (x : Xfer) : Bool := bitOf (fieldAt x.desc 3 1) 1
def Xfer.park (x : Xfer) : Bool := bitOf (fieldAt x.desc 3 1) 2
def Xfer.count (x : Xfer) : Nat := fieldAt x.desc 4 4
def Xfer.local_ (x : Xfer) : Nat := offOf (fieldAt x.desc 8 8)
def Xfer.peer (x : Xfer) : Nat := fieldAt x.desc 16 2
def Xfer.nsrc (x : Xfer) : Nat := fieldAt x.desc 18 2
def Xfer.comm (x : Xfer) : Nat := fieldAt x.desc 20 2
def Xfer.chunkLog2 (x : Xfer) : Nat := fieldAt x.desc 22 1
def Xfer.seq (x : Xfer) : Nat := fieldAt x.desc 24 4
def Xfer.step (x : Xfer) : Nat := fieldAt x.desc 28 4
def Xfer.doneAt (x : Xfer) : Nat := offOf (fieldAt x.desc 32 8)
def Xfer.out (x : Xfer) : Nat := fieldAt x.desc 40 8
def Xfer.relayTag (x : Xfer) : Nat := fieldAt x.desc 48 4
def Xfer.tilesWanted (x : Xfer) : Nat := fieldAt x.desc 52 4
def Xfer.lap (x : Xfer) : Nat := fieldAt x.desc 56 8

/-- Bytes of one element or cell of a form (Tables 02-8, 02-9, 04-3, 10-4). -/
def formBytes (f : Nat) : Nat :=
  if f = 0 || f = 11 then 8 else if f = 1 then 4 else if f = 2 || f = 3 then 2 else if f = 12 then 64
  else if f = 13 then 320 else 1

/-- The piece [a, a + n) joined with pieces it meets. -/
def addPiece (a n : Nat) : List (Nat × Nat) → List (Nat × Nat)
  | [] => if n = 0 then [] else [(a, n)]
  | (b, m) :: ps =>
    if n = 0 then (b, m) :: ps
    else if a + n < b then (a, n) :: (b, m) :: ps
    else if b + m < a then (b, m) :: addPiece a n ps
    else addPiece (Nat.min a b) (Nat.max (a + n) (b + m) - Nat.min a b) ps

/-- Whether the pieces cover [a, a + n). -/
def covers (ps : List (Nat × Nat)) (a n : Nat) : Bool := n = 0 || ps.any fun p => p.1 ≤ a && a + n ≤ p.1 + p.2

/-- Leading complete chunks of a RECV under BATON (R246): every SEND's pieces cover them. -/
def Xfer.chunks (x : Xfer) : Nat :=
  if !x.baton then 0
  else
    let e := formBytes x.form
    let total := x.count * e
    let size := 2 ^ x.chunkLog2
    let n := (total + size - 1) / size
    let full (j : Nat) : Bool :=
      let lo := j * size / e
      let hi := (Nat.min total ((j + 1) * size) + e - 1) / e
      x.srcs.length == x.nsrc && x.srcs.all fun r => r.whole || covers r.got lo (hi - lo)
    ((List.range n).find? fun j => !full j).getD n

def State.xfer (s : State) (id : Nat) : Option Xfer := assocGet id s.xfers
def State.setXfer (s : State) (id : Nat) (x : Xfer) : State := { s with xfers := assocSet id x s.xfers }
def State.dropXfer (s : State) (id : Nat) : State := { s with xfers := s.xfers.filter fun e => e.1 != id }

/-- The loaded communicator with an ID, and its index. -/
def State.commOf (s : State) (id : Nat) : Option (Nat × Comm) := s.comms.find? fun e => e.2.comm == id

/-- A match entry's generation, and the entry freed: its generation moves on. -/
def State.matchGen (s : State) (e : Nat) : Nat := mapGet (fun _ => 0) e s.matchGens
def State.freeEntry (s : State) (e : Nat) : State :=
  { s with matchGens := mapSet (fun _ => 0) e ((s.matchGen e + 1) % 128) s.matchGens }

/-- The match entries in use. -/
def State.entriesUsed (s : State) : List Nat :=
  s.xfers.filterMap fun e => match e.2.phase with
    | .open_ n _ => some n
    | _ => none

/-- A RECV that waited for a match entry takes one freed in its communicator's reserve (R245). -/
def State.grantEntries (s : State) : State :=
  s.xfers.foldl (fun s e =>
    match e.2.phase with
    | .waitEntry =>
      match s.commOf e.2.comm with
      | none => s
      | some (_, c) =>
        match (List.range c.reserve).find? fun i => !s.entriesUsed.contains (c.base + i) with
        | none => s
        | some i => s.setXfer e.1 { e.2 with phase := .open_ (c.base + i) (s.matchGen (c.base + i)) }
    | _ => s) s

/-- A transfer leaves the unit; its match entry is freed. -/
def State.removeXfer (s : State) (id : Nat) : State :=
  match s.xfer id with
  | none => s
  | some x =>
    let s := s.dropXfer id
    match x.phase with
    | .open_ e _ => (s.freeEntry e).grantEntries
    | _ => s

/-- A transfer ends with a status: its completion word is written (R246) and the unit's counters move. -/
def State.endXfer (s : State) (id : Nat) (st : Half) : State :=
  match s.xfer id with
  | none => s
  | some x =>
    let s := s.putNat x.doneAt 8 (completionWord st x.chunks)
    let s := s.count F.COL_UNIT_STATS.DONE x.unit
    let s := if st = ST.COLL_MISMATCH then s.count F.COL_UNIT_STATS.MISMATCH x.unit else s
    let s := if st = ST.TIMEOUT then s.count F.COL_UNIT_STATS.TIMEOUTS x.unit else s
    s.removeXfer id

end Sys2Proof.Machine
end

