-- ==== Sys2Proof/Machine/Abort.lean ====
section
/-! DEFINITION. What a context abort does to the commands the context issued (chapters 03 to 06), and the ends of an
engine instruction that a context sees. -/

namespace Sys2Proof.Machine

/-- Fences (R300). -/
def State.packageFenced (s : State) : Bool := s.flag F.ERR_STATUS.PACKAGE_FENCED
def State.engFenced (s : State) (e : Nat) : Bool := (s.engine e).fenced || s.packageFenced
def State.dsuFenced (s : State) (u : Nat) : Bool := (s.dsu u).fenced || s.packageFenced
def State.puuFenced (s : State) (u : Nat) : Bool := (s.puu u).fenced || s.packageFenced || s.fencedStacks.contains u
def State.digFenced (s : State) (u : Nat) : Bool := (s.dig u).fenced || s.packageFenced || s.fencedStacks.contains u
def State.colFenced (s : State) (u : Nat) : Bool := s.fencedCols.contains u || s.packageFenced
def State.splFenced (s : State) : Bool := s.fencedSplit || s.packageFenced

/-- OP codes of Table 04-13. -/
def EngOp.code : EngOp → Nat
  | .mma => 0 | .cvt => 1 | .rd => 2 | .zero => 3 | .fill => 4 | .spill => 5

/-- The FLAGS byte of an engine instruction's descriptor and its SREC_ADDR (Tables 04-6, 04-7). -/
def EngInstr.flags (i : EngInstr) : Nat :=
  match i.op with
  | .mma => fieldAt i.desc 55 1
  | .cvt | .rd => fieldAt i.desc 15 1
  | _ => 0
def EngInstr.srec (i : EngInstr) : Bool := bitOf i.flags (if i.op = .mma then 1 else 0)
def EngInstr.srecAddr (i : EngInstr) : Nat := offOf (fieldAt i.desc 56 8)
/-- DONE of XTCVT and XTRD (Table 04-7). -/
def EngInstr.done (i : EngInstr) : Nat :=
  match i.op with
  | .cvt | .rd => fieldAt i.desc 15 1 / 2 % 4
  | _ => 0
/-- Lane: XTMMA runs in the array lane, the others in the transfer lane (R87). -/
def EngInstr.array (i : EngInstr) : Bool := i.op == .mma
/-- The slot an instruction names; XTCVT names none (R98). -/
def EngInstr.names (i : EngInstr) (slot : Nat) : Bool := i.op != .cvt && i.slot == slot

/-- A status of class Success (Table 01-15, R30). -/
def isSuccess (st : Half) : Bool := st.toNat < 0x10

/-- XTWAIT and XTSTAT of a context look again after an instruction of theirs completed (R100, R101). -/
def State.engWake (s : State) (k : Nat) : State :=
  let c := s.ctx k
  let all (eng : Nat) : Bool := c.tensor.all fun t => t.1 != eng || t.2.2.isSome
  let first (eng : Nat) : Half :=
    ((c.tensor.find? fun t => t.1 == eng && t.2.2 != some ST.OK).bind (·.2.2)).getD ST.OK
  match c.wait with
  | .engWait rd eng _ =>
    if all eng then
      s.setCtx k ({ c with tensor := c.tensor.filter fun t => t.1 != eng }.setStatus rd (first eng)).wake
    else s
  | .engStat rd eng w _ =>
    if all eng then
      let e := coreOf k * 4 + eng
      let v := if w = 0 then s.reg R.CMP_ENG_REC0 e else if w = 1 then s.reg R.CMP_ENG_REC1 e else 0
      s.setCtx k (c.setX rd v).wake
    else s
  | _ => s

/-- An engine instruction completes (R114): the record is kept and, with SREC, stored; the counters move; the issuing
context's waits look again. -/
def State.engDone (s : State) (e : Nat) (i : EngInstr) (st : Half) (w0 w1 : Word64) : State :=
  let s := (s.setReg R.CMP_ENG_REC0 e w0).setReg R.CMP_ENG_REC1 e w1
  let s := if i.srec then s.put i.srecAddr (leBytes 8 w0.toNat ++ leBytes 8 w1.toNat) else s
  let s := if isSuccess st then s else s.count F.CMP_ENG_STATS.REFUSED e
  let k := e / 4 * 128 + i.ctx
  let s := s.onCtx k fun c =>
    { c with tensor := c.tensor.map fun t => if t.1 == e % 4 && t.2.1 == i.id && t.2.2.isNone then (t.1, t.2.1, some st) else t }
  s.engWake k

/-- A record with only a status (R114): of an instruction that never started, or was refused at its start. -/
def plainRecord (i : EngInstr) (st : Half) : Word64 :=
  BitVec.ofNat 64 (st.toNat * 2 ^ 48 + i.op.code * 2 ^ 45 + i.ctx * 2 ^ 31 + i.slot * 2 ^ 30)

/-- The engine side of a context abort: entries that have not started complete with ST_ABORTED, started ones are marked. -/
def engAbort (k : Nat) (s : State) (e : Nat) : State :=
  let en := s.engine e
  let mine (i : EngInstr) : Bool := i.ctx == ctxOf k
  let gone := en.queue.filter mine
  let mark (r : EngRun) : EngRun := if mine r.ins then { r with ins := { r.ins with aborted := true } } else r
  let s := s.setEngine e { en with queue := en.queue.filter (!mine ·), array := en.array.map mark, xfer := en.xfer.map mark }
  gone.foldl (fun s i => s.engDone e i ST.ABORTED (plainRecord i ST.ABORTED) 0) s

/-- The solver side: heats that have not started are removed, started ones are marked (R119). -/
def dsuAbort (k : Nat) (s : State) (u : Nat) : State :=
  let d := s.dsu u
  s.setDsu u { d with
    queue := d.queue.filter fun h => h.hart != k,
    running := d.running.map fun r => if r.heat.hart == k then { r with heat := { r.heat with aborted := true } } else r }

/-- The update side. -/
def puuAbort (k : Nat) (s : State) (u : Nat) : State :=
  let d := s.puu u
  s.setPuu u { d with
    queue := d.queue.filter fun h => h.hart != k,
    run := d.run.map fun r => if r.cmd.hart == k then { r with cmd := { r.cmd with aborted := true } } else r }

/-- A context stops (R61): ABORTED, its remote operations forgotten, its reservation broken, its commands ended by each
unit's rules. -/
def State.abortCtx (s : State) (k : Nat) : State :=
  let c := s.ctx k
  if c.st = .empty || c.st = .aborted then s
  else
    let s := s.setCtx k { c with st := .aborted, wait := .none, rops := [], failed := [], resv := none, tensor := [], late := [] }
    -- a parked access is not performed, the data of a late get is not written (R207)
    let s := { s with heldWrites := s.heldWrites.filter fun h => match h.op with
      | .core x | .getData x _ _ _ => hartKey x != k
      | _ => true }
    if isPx k then s
    else
      let s := (List.range 4).foldl (fun s e => engAbort k s (coreOf k * 4 + e)) s
      let s := dsuAbort k s (clusterOfHart k)
      (List.range 16).foldl (puuAbort k) s

/-- A collective context holds a thread. -/
def State.collectiveBusy (s : State) : Bool := s.harts.any fun e => isCollective e.1 && e.2.st != .empty

/-- Every context and application core that holds a thread. -/
def State.busyHarts (s : State) : List Nat :=
  (s.harts.filter fun e => e.2.st != .empty).map (·.1)

/-- A context of a launch that is not EMPTY: a thread context or an application-core thread still running (R73). -/
def State.launchBusy (s : State) : Bool :=
  s.harts.any fun e => !isCollective e.1 && e.2.st != .empty && !(isPx e.1 && e.2.st == .aborted)

end Sys2Proof.Machine
end

