-- ==== Sys2Proof/Machine/Errors.lean ====
section
/-! DEFINITION. Raising an error (R300 to R305), poisoning the job (R305, R306), refusing a launch and flooding the
refusal (R275 to R277), unloading the run image (R354). -/

namespace Sys2Proof.Machine

/-! ### Launch refusal -/

/-- The fields of a launch record (Table 11-3). -/
def recTag (r : List Byte) : Nat := fieldAt r 2 2
def recFlags (r : List Byte) : Nat := fieldAt r 4 1
def recStart (r : List Byte) : Nat := fieldAt r 8 8
def recLap (r : List Byte) : Nat := fieldAt r 16 8
def recArg (r : List Byte) : Nat := fieldAt r 24 8
def recT0 (r : List Byte) : Nat := fieldAt r 32 4
def recThreads (r : List Byte) : Nat := fieldAt r 36 4
def recNotify (r : List Byte) : Nat := fieldAt r 40 8
def recCanonical (r : List Byte) : Bool := bitOf (recFlags r) 0
def recPasses (r : List Byte) : Nat := recFlags r / 2 % 4

/-- Canonical mode and the default pass count of the running launch (R25). -/
def State.canonical (s : State) : Bool := s.running.any fun l => recCanonical l.bytes
def State.passes (s : State) : Nat := (s.running.map fun l => recPasses l.bytes).getD 0

/-- A key still recorded (R275). -/
def State.keyKnown (s : State) (tag start : Nat) : Bool :=
  s.keys.any fun k => k.tag == tag && k.start == start && s.now ≤ k.keep

/-- A key recorded; with 64 recorded, the one whose retention ends first is forgotten (R275). -/
def State.recordKey (s : State) (tag start origin : Nat) : State :=
  let live := s.keys.filter fun k => s.now ≤ k.keep
  let live := if live.length < 64 then live
    else match minOf (live.map (·.keep)) with
      | some m => match firstIdx (fun k => k.keep == m) live with
        | some i => live.eraseIdx i
        | none => live
      | none => live
  { s with keys := live ++ [⟨tag, start, Nat.max start (s.now + 20000), origin⟩] }

/-- A CTL packet on every UP port but one (R239, R275). -/
def State.flood (s : State) (pk : Packet) (except : Option Nat) (ok : Nat → Bool) : State :=
  (List.range 32).foldl (fun s p =>
    if s.isUp p && ok p && except != some p then
      s.enqueue p { pk with dest := BitVec.ofNat 16 (s.fld F.LNK_PORT_STATE.PEER_EP p) }
    else s) s

/-- The REFUSE packet of R275. -/
def State.refusePacket (s : State) (tag start reason : Nat) : Packet :=
  s.mkPacket 0 0 PT.LAUNCH 0 0 0 0 (leBytes 8 start ++ leBytes 2 tag ++ [BitVec.ofNat 8 reason, 0] ++ leBytes 2 s.self ++ [0, 0])

/-- Whether a NOTIFY address is one: 8-byte aligned in this package's SRAM or stacks (Table 11-3). -/
def State.notifyOk (s : State) (r : List Byte) : Bool :=
  s.isSelf (recNotify r) && recNotify r % 8 == 0 && s.extentIn isSramStack (offOf (recNotify r)) 8

/-- The NOTIFY word of a decided launch (R277). -/
def State.notify (s : State) (r : List Byte) (st : Half) : State :=
  if recNotify r = 0 || !s.notifyOk r then s else s.putNat (offOf (recNotify r)) 8 (completionWord st 0)

/-- STATUS, REASON and ORIGIN of a decided launch (Table 11-15). -/
def State.launchDecided (s : State) (st : Half) (reason origin : Nat) : State :=
  ((s.setFld F.TIM_LAUNCH_STATE.STATUS st.toNat).setFld F.TIM_LAUNCH_STATE.REASON reason).setFld
    F.TIM_LAUNCH_STATE.ORIGIN origin

/-- A launch of this package runs until its share is complete; one that starts no thread, while its collective contexts run (R73, R274,
DEDUCED, log entry 28). -/
def State.launchOn (s : State) : Bool :=
  s.running.any fun l => s.launchBusy || (l.next == 0 && !(s.image.any fun m => fieldAt m.hdr 112 8 != 0) && s.collectiveBusy)

/-- The pending launch is discarded with a reason (R275, R276, R306). -/
def State.dropPending (s : State) (reason origin : Nat) : State :=
  match s.pendingLaunch with
  | none => s
  | some l =>
    let s := s.notify l.bytes ST.FALSE_START
    let s := { s with pendingLaunch := none }
    let s := s.count F.TIM_STATS.FALSE_STARTS
    s.launchDecided ST.FALSE_START reason origin

/-- A key refused by this package: recorded and flooded unless known (R275). -/
def State.refuseKey (s : State) (tag start reason : Nat) : State :=
  if s.keyKnown tag start then s
  else (s.recordKey tag start s.self).flood (s.refusePacket tag start reason) none fun _ => true

/-! ### Unloading -/

/-- Every transfer discarded without its completion word, every entry freed, every intake and finish line emptied
(R261). -/
def State.clearCollectives (s : State) : State :=
  let s := s.entriesUsed.foldl (fun s e => s.freeEntry e) s
  { s with
    xfers := [], tiles := [],
    comms := s.comms.map fun e => (e.1, { e.2 with lap := none, arrived := 0, atNode := none, atGroup := none, atRoot := none }) }

/-- Collective contexts ended (R261, R354). -/
def State.endCollectiveContexts (s : State) : State :=
  s.busyHarts.foldl (fun s k => if isCollective k then (s.abortCtx k).onCtx k Ctx.left else s) s

/-- The run image is unloaded (R354): LOADED and PROG clear, the communicators go. -/
def State.unloadImage (s : State) : State :=
  let s := s.endCollectiveContexts
  let s := s.clearCollectives
  let s := s.setFld F.HIF_BOOT_STATUS.LOADED 0
  { s with image := none, comms := [], unloadDue := false }

/-- R306: once every context of the job is EMPTY, the image unloads. -/
def State.unloadIfDue (s : State) : State :=
  if s.unloadDue && s.busyHarts.all (fun k => isPx k && (s.ctx k).st == .aborted) then s.unloadImage else s

/-! ### Poison -/

/-- R306. -/
def State.poisonAct (s : State) : State :=
  let s := s.busyHarts.foldl State.abortCtx s
  let s := (s.xfers.map (·.1)).foldl (fun s id => s.endXfer id ST.POISONED) s
  let s := match s.pendingLaunch with
    | some l =>
      if recTag l.bytes = s.jobTag then
        let tag := recTag l.bytes
        let start := recStart l.bytes
        (s.dropPending 11 s.self).refuseKey tag start 11
      else s
    | none => s
  { s with unloadDue := true }.unloadIfDue

/-- ERR_POISON and ERR_POISON_TICK take the first poison and keep it while VALID; vector 3 is signalled (R305, R338). -/
def State.notePoison (s : State) (own : Bool) (cause origin tick : Nat) : State :=
  let w := BitVec.ofNat 64 (2 ^ 63 + b2n own * 2 ^ 62 + cause * 2 ^ 48 + origin * 2 ^ 32 + s.jobTag)
  let s := if s.flag F.ERR_POISON.VALID then
      if (s.aside R.ERR_POISON 0).isSome then s
      else (s.setAside R.ERR_POISON 0 w).setAside R.ERR_POISON_TICK 0 (BitVec.ofNat 64 tick)
    else ((((s.setReg R.ERR_POISON 0 w).hwSet F.ERR_POISON.VALID 1).setFld F.ERR_POISON_TICK.TICK tick).ibi 3).msix s.msixOn 3
  { s with poisonMet := true }

/-- A tag entry's POISON sent on every UP port in its PORTS but the arrival port, once per installation (R239). -/
def State.floodPoison (s : State) (entry : Nat) (pk : Packet) (arrival : Option Nat) : State :=
  if s.forwarded.contains entry then s
  else
    let s := { s with forwarded := setInsert entry s.forwarded }
    s.flood pk arrival fun p => bitOf (s.fld F.LNK_TAG_PORTS.PORTS entry) p

/-- R305: this package poisons its job, if it has not already met a poison under the installation. -/
def State.originate (s : State) (i : ErrInfo) : State :=
  match s.localEntry with
  | none => s.record i false
  | some e =>
    if s.poisonMet then s.record i false
    else
      let s := s.record i true
      let s := s.notePoison true i.cause.code s.self s.now
      let s := s.count F.ERR_STATS.POISON_SENT
      let data := leBytes 2 s.self ++ [BitVec.ofNat 8 i.cause.code] ++ List.replicate 5 0 ++ leBytes 8 s.now
      let s := s.floodPoison e (s.mkPacket s.jobTag 0 PT.POISON 0 0 0 0 data) none
      s.poisonAct

/-- Whether an error of a class poisons the job (Table 13-1). -/
def State.poisons (s : State) (cls : Nat) : Bool := 2 ≤ cls || (cls == 1 && s.flag F.ERR_CFG.CTX_POISON)

/-- R300, R303: an error is raised. Its context aborts; a poisoning class poisons the job; class PACKAGE fences. -/
def State.raise (s : State) (i : ErrInfo) : State :=
  let words := s
  let s := if i.cls = 4 then s.setFld F.ERR_STATUS.PACKAGE_FENCED 1 else s
  let s := if words.poisons i.cls then s.originate i else s.record i false
  match i.hart with
  | some k => if 1 ≤ i.cls then s.abortCtx k else s
  | none => s

/-- The cause of an uncorrectable line or word by its place (Table 13-2). -/
def ueCause (a : Nat) : Cause :=
  match place a with
  | .stack _ _ => .memUe
  | .csram _ _ | .lsram _ _ => .sramUe
  | _ => .tierUe

/-- The unit's own count of a report of an uncorrectable line (R168). -/
def State.countUe (s : State) (a : Nat) : State :=
  match place a with
  | .stack k _ => s.count F.MEM_ERR_STATS.UNCORRECTED k
  | .near c _ => s.count F.TIER_STATS.UNCORRECTED c
  | .far p _ => s.count F.TIER_STATS.UNCORRECTED (8 + p)
  | _ => s

/-- R168: the line or word is marked, and the mark counted as a report. -/
def State.markUe (s : State) (a : Nat) : State :=
  match place a with
  | .hwin _ => s
  | _ => { s with poisoned := setInsert (a / poisonUnit a * poisonUnit a) s.poisoned }

/-- R301: a reader or a partial writer met an uncorrectable line: the report, the record, the poison. A context is
aborted; who else waits is told by the caller. -/
def State.uncorrectable (s : State) (a : Nat) (hart : Option Nat) (core : Nat) (ep : Option Nat) (st : Half) : State :=
  let s := s.countUe a
  s.raise { cause := ueCause a, cls := 2, ep := ep, hart := hart, core := core, addr := some (s.global a), status := st }

/-- The writes of units that met a marked line in this command are reported (R168, R301). -/
def settleN : Nat → State → State
  | 0, s => s
  | n + 1, s =>
    match s.ueDue with
    | [] => s
    | (a, core) :: rest => settleN n (({ s with ueDue := rest } : State).uncorrectable a none core none ST.ABORTED)

/-- The next state of a meaning: every such write reported. A command makes far fewer of them than the bound. -/
def State.settle (s : State) : State := { settleN 1048576 s with ueDue := [] }

/-- A meaning's outcome: the next state, every report of the command made. -/
def done (s : State) : Host.Outcome State Fault Refusal := .next s.settle

end Sys2Proof.Machine
end

