-- ==== Sys2Proof/Machine/Exact.lean ====
section
/-! DEFINITION. Exact accumulators (R48 to R53): terms, merges, one rounding, and the cell's bytes (Tables 02-8, 02-9). -/

namespace Sys2Proof.Machine

/-- Bits of an accumulator's value, and the weight exponent of its bit 0 (Table 02-7). -/
def accWidth (k64 : Bool) : Nat := if k64 then 2176 else 320
def accL (k64 : Bool) : Nat := if k64 then 1074 else 149
def accBytes (k64 : Bool) : Nat := accWidth k64 / 8
def cellBytes (k64 : Bool) : Nat := if k64 then 320 else 64

/-- An accumulator: the control word's fields of Table 02-9 and the value modulo 2^width. -/
structure Acc_ where
  nan  : Bool
  pinf : Bool
  ninf : Bool
  nz   : Bool
  exceeded : Bool
  terms : Nat
  val  : Nat
  deriving DecidableEq, Repr

def Acc_.empty : Acc_ := ⟨false, false, false, false, false, 0, 0⟩

/-- TERMS saturates at 2^48 - 1; TERMS_EXCEEDED belongs to the FP32-range kind (R50). -/
def satTerms (n : Nat) : Nat := Nat.min (2 ^ 48 - 1) n
def exceeds (k64 : Bool) (n : Nat) : Bool := !k64 && decide (2 ^ 42 < n)

/-- One term (R49, R50): a finite value is added as an integer in units of bit 0. -/
def Acc_.add (k64 : Bool) (a : Acc_) (x : Num) : Acc_ :=
  let n := satTerms (a.terms + 1)
  let negZero := match x with
    | .fin true 0 _ => true
    | _ => false
  let a := { a with terms := n, exceeded := a.exceeded || exceeds k64 (a.terms + 1), nz := a.nz || !negZero }
  match x with
  | .nan => { a with nan := true }
  | .inf neg => if neg then { a with ninf := true } else { a with pinf := true }
  | .fin _ _ _ =>
    let w := accWidth k64
    let v := x.units (-(accL k64 : Int))
    { a with val := ((a.val : Int) + v) % (2 ^ w : Nat) |>.toNat }

/-- R52. -/
def Acc_.merge (k64 : Bool) (a b : Acc_) : Acc_ :=
  ⟨a.nan || b.nan, a.pinf || b.pinf, a.ninf || b.ninf, a.nz || b.nz,
   !k64 && (a.exceeded || b.exceeded || decide (2 ^ 42 < a.terms + b.terms)),
   satTerms (a.terms + b.terms), (a.val + b.val) % 2 ^ accWidth k64⟩

/-- The signed value. -/
def Acc_.signed (k64 : Bool) (a : Acc_) : Int := toSigned (accWidth k64) a.val

/-- The value that the final rounding starts from (Table 02-10). -/
def Acc_.num (k64 : Bool) (rm : Nat) (a : Acc_) : Num :=
  if a.nan || (a.pinf && a.ninf) || (!k64 && a.exceeded) then .nan
  else if a.pinf then .inf false
  else if a.ninf then .inf true
  else if a.terms = 0 then .fin false 0 0
  else if a.val = 0 then .fin (!a.nz || rm == 2) 0 0
  else ofUnits (a.signed k64) (-(accL k64 : Int)) false

/-- R53: rounded once into a format. -/
def Acc_.round (k64 : Bool) (f : Fmt) (rm : Nat) (a : Acc_) : Nat := (encodeFp f rm (a.num k64 rm)).1

/-- The control word (Table 02-9); bit 59 belongs to the FP32-range kind. -/
def Acc_.ctl (k64 : Bool) (a : Acc_) : Nat :=
  b2n a.nan * 2 ^ 63 + b2n a.pinf * 2 ^ 62 + b2n a.ninf * 2 ^ 61 + b2n a.nz * 2 ^ 60
    + b2n (!k64 && a.exceeded) * 2 ^ 59 + a.terms

def ofCtl (k64 : Bool) (c v : Nat) : Acc_ :=
  ⟨bitOf c 63, bitOf c 62, bitOf c 61, bitOf c 60, !k64 && bitOf c 59, c % 2 ^ 48, v⟩

/-- A cell's bytes (Table 02-8): reserved bytes written as zero, ignored on read. -/
def Acc_.bytes (k64 : Bool) (a : Acc_) : List Byte :=
  leBytes (accBytes k64) a.val ++ leBytes 8 (a.ctl k64) ++ List.replicate (cellBytes k64 - accBytes k64 - 8) 0
def ofCell (k64 : Bool) (bs : List Byte) : Acc_ :=
  ofCtl k64 (fieldAt bs (accBytes k64) 8) (fieldAt bs 0 (accBytes k64))

/-- The formats of codes 0 to 3 (Table 04-3). -/
def fmtOf : Nat → Fmt
  | 0 => fp64
  | 1 => fp32
  | 2 => bf16
  | _ => fp16

end Sys2Proof.Machine
end

