-- ==== Sys2Proof/Machine/Home.lean ====
section
/-! DEFINITION. Memory operations at their home (R186 to R190), regions and hand-offs (R197 to R204), and what a remote
request does when it arrives. -/

namespace Sys2Proof.Machine

/-! ### The operations -/

/-- The value an atomic of n bytes stores (R189; MINU, MAXU and XOR are the A extension's). -/
def amoResult (k : AmoKind) (n old x : Nat) : Nat :=
  let b := 8 * n
  let less := decide (toSigned b x < toSigned b old)
  let r := match k with
    | .add => old + x
    | .min => if less then x else old
    | .max => if less then old else x
    | .minu => Nat.min old x
    | .maxu => Nat.max old x
    | .and => old.land x
    | .or => old.lor x
    | .xor => old.xor x
    | .swap => x
  r % 2 ^ b

/-- What came of an operation at its home: done with the data it returns, waiting, or met an uncorrectable line, and others
beside it. -/
inductive HomeRes where
  | done (data : List Byte)
  | held (g : Nat)
  | ue (a : Nat) (more : List Nat)
  deriving DecidableEq, Repr

/-- A write by an agent of the package (R198) or for a remote request. -/
def State.agentWrite (s : State) (home : Bool) (a : Nat) (bs : List Byte) (writer : Option Nat) : State :=
  if home then s.homeWrite a bs writer else s.writeBytes a bs writer

/-- A store: what it covers only in part of marked lines is not written, and those lines are told (R168, R188). -/
def State.storeAt (s : State) (home : Bool) (writer : Option Nat) (a : Nat) (bs : List Byte) : State × List Nat :=
  match s.poisonParts a bs.length with
  | [] => (s.agentWrite home a bs writer, [])
  | ps =>
    let (b, rest) := s.unmarked a bs
    (if rest.isEmpty then s else s.agentWrite home b rest writer, ps)

/-- An atomic update of n bytes: the old value read, the new one written (R189). -/
def State.update (s : State) (home : Bool) (a n : Nat) (writer : Option Nat) (f : List Byte → Option (List Byte)) :
    HomeRes × State :=
  match s.writeHold a n with
  | some g => (.held g, s)
  | none =>
    match s.poisonIn a n with
    | some p => (.ue p [], s)
    | none =>
      let (old, s) := s.read a n
      match f old with
      | some new => (.done old, s.agentWrite home a new writer)
      | none => (.done old, s)

/-- A memory operation performed at its home. -/
def State.homeOp (s : State) (home : Bool) (a : Nat) (op : MemOp) (writer : Option Nat := none) : HomeRes × State :=
  match op with
  | .load n =>
    if s.memWaits a n then (.held resetHold, s)
    else match s.poisonIn a n with
      | some p => (.ue p [], s)
      | none => let (d, s) := s.read a n; (.done d, s)
  | .store bs =>
    match s.writeHold a bs.length with
    | some g => (.held g, s)
    | none =>
      match s.storeAt home writer a bs with
      | (s, p :: ps) => (.ue p ps, s)
      | (s, []) => (.done [], s)
  | .amo k n x => s.update home a n writer fun old => some (leBytes n (amoResult k n (ofLe old) x))
  | .cas n e x => s.update home a n writer fun old => if ofLe old = e % 2 ^ (8 * n) then some (leBytes n x) else none
  | .fadd t => s.update home a 320 writer fun old =>
      some (((ofCell true old).add true (decodeFp fp64 t.toNat)).bytes true)

/-- Bytes an operation reads or writes at its address. -/
def MemOp.len : MemOp → Nat
  | .load n => n
  | .store bs => bs.length
  | .amo _ n _ => n
  | .cas n _ _ => n
  | .fadd _ => 320

/-- The columns of Tables 08-1, 08-5 and 08-15. -/
def MemOp.atomic : MemOp → Bool
  | .amo _ _ _ | .cas _ _ _ | .fadd _ => true
  | _ => false
def MemOp.isLoad : MemOp → Bool
  | .load _ => true
  | _ => false

/-- Table 08-1: whether the whole extent of an operation is reachable by a remote request. -/
def State.remoteReach (s : State) (a : Nat) (op : MemOp) : Bool :=
  s.extentIn (if op.atomic then isStackCsram else fun k => isStackCsram k || isTier k) a op.len

/-- Table 08-15. -/
def State.selfReach (s : State) (a : Nat) (op : MemOp) : Bool :=
  s.extentIn (if op.atomic then isSramStack else fun k => isSramStack k || isTier k || k == .hwin) a op.len

/-! ### Regions -/

/-- Table 08-5. -/
def Region.allows (r : Region) (op : MemOp) (src : Nat) : Bool :=
  if r.state = 1 then op.isLoad
  else if r.state = 2 then r.owner.toNat == src
  else if r.state = 3 then op.atomic
  else false

/-- Every region of an extent allows an operation. -/
def State.regionsAllow (s : State) (a : Nat) (op : MemOp) (src : Nat) : Bool :=
  (s.region (regionOf a)).allows op src && (s.region (regionOf (a + op.len - 1))).allows op src

/-- R208: a refusal with ST_REFUSED_OWNER counted and logged. -/
def State.refusedOwner (s : State) (code : Nat) (a src : Nat) : State :=
  let w := 2 ^ 63 + code * 2 ^ 59 + (s.region (regionOf a)).state * 2 ^ 57 + src * 2 ^ 41 + regionOf a * 2 ^ 14
  (s.count F.FAB_STATS.REFUSED_OWNER).capture F.FAB_REFUSED_LOG.VALID (BitVec.ofNat 64 w)

/-- R201, R202: what the home answers to a hand-off at once, or none when it performs it: the region's change begins, and ends
20 ticks after every request accepted before it is complete. who = none is the home itself, told is who hears of it. -/
def State.handOff (s : State) (a operand : Nat) (who : Option Nat) (told : HandTo) : Option Half × State :=
  let r := regionOf a
  if !s.regionGoverned r then (some ST.RANGE, s)
  else
    let st := bitsOf operand 17 16
    let given := bitsOf operand 15 0
    let owner := if given = 0xFFFF then who.getD s.self else given
    let new : Nat × Nat := if st = 2 then (if owner = s.self then (0, 0) else (2, owner)) else (st, 0)
    let cur := s.region r
    if cur.state = new.1 && cur.owner.toNat = new.2 then (some ST.OK, s)
    else if who.all fun e => cur.state == 2 && cur.owner.toNat == e then
      let due := if s.regionBusy r then none else some (s.now + 20)
      (none, { s with changes := s.changes ++ [⟨r, new.1, BitVec.ofNat 16 new.2, due, told⟩] })
    else (some ST.REFUSED_OWNER, s.refusedOwner 8 a (who.getD 0))

/-- The hold of a request that waits for a region to change: granule numbers are below. -/
abbrev regionHold (r : Nat) : Nat := 0x20000000000 + r

/-- The region of a request's extent that changes while it arrives. -/
def State.changingFor (s : State) (pk : Packet) : Option Nat :=
  let (a, b) := requestRegions pk
  if s.changing a then some a else if s.changing b then some b else none

/-! ### Requests from other endpoints -/

/-- PHASE = READY (R344). -/
def State.bootReady (s : State) : Bool := s.fld F.HIF_BOOT_STATUS.PHASE == 5

/-- The operation a request packet asks for (Table 09-8), and its code in FAB_REFUSED_LOG. -/
def requestOp (pk : Packet) : MemOp × Nat :=
  let n := sizeOf_ pk.sub
  let t := pk.type
  if t == PT.LOAD then (.load n, 0)
  else if t == PT.STORE then (.store pk.data, 1)
  else if t == PT.PUT then (.store pk.data, 2)
  else if t == PT.GET then (.load (ofLe pk.data), 3)
  else if t == PT.AMO then
    let k : AmoKind := match pk.sub.toNat with
      | 0 => .add | 1 => .min | 2 => .max | 3 => .and | 4 => .or | _ => .swap
    (.amo k 8 (ofLe pk.data), 4)
  else if t == PT.CAS then
    let h := pk.data.length / 2
    (.cas h (ofLe (pk.data.take h)) (ofLe (pk.data.drop h)), if pk.sub == 0 then 5 else 6)
  else (.fadd (BitVec.ofNat 64 (ofLe pk.data)), 7)

/-- The reply to a request: its status, and data where it returns some (R225). -/
def State.reply (s : State) (pk : Packet) (st : Half) (data : List Byte) : State :=
  let t := pk.type
  let rsp := if t == PT.LOAD || t == PT.GET || t == PT.AMO || t == PT.CAS then PT.DATA else PT.ACK
  let data := if rsp == PT.DATA && st = ST.OK then data else []
  s.sendQuiet (s.mkPacket pk.tag.toNat pk.src.toNat rsp pk.cls.toNat pk.txn.toNat 0 st.toNat data)

/-- Lines that a remote request met uncorrectable, each reported (R168, R301). -/
def State.remoteUes (s : State) (pk : Packet) (ps : List Nat) : State :=
  ps.foldl (fun s p => s.uncorrectable p none 0 (some pk.src.toNat) ST.POISONED) s

/-- Two requests of one endpoint, core and class. The home knows a context only by the core in TXN (DEDUCED, log entry 55). -/
def sameFlow (p q : Packet) : Bool :=
  p.src == q.src && p.cls == q.cls && bitsOf p.txn.toNat 19 12 == bitsOf q.txn.toNat 19 12

/-- The hold of an earlier request of the same flow, in an ordered class, that waits here, accepted or not yet judged: the later
one waits behind it (R192). -/
def State.orderHold (s : State) (judged : Bool) (pk : Packet) : Option Nat :=
  if 4 ≤ pk.cls.toNat then none
  else (s.heldWrites.find? fun h => match h.op with
    | .remote _ q => judged && q.type.toNat < 9 && sameFlow q pk
    | .arrived _ q => !judged && sameFlow q pk
    | _ => false).map (·.granule)

/-- A request that its region's state has allowed: performed, held, or ended by an uncorrectable line (R301). -/
def State.performRequest (s : State) (port : Nat) (pk : Packet) : State :=
  match s.orderHold true pk with
  | some g => s.holdOp g (.remote port pk)
  | none =>
    match s.homeOp false (offOf pk.word.toNat) (requestOp pk).1 with
    | (.done d, s) => s.reply pk ST.OK d
    | (.held g, s) => s.holdOp g (.remote port pk)
    | (.ue p ps, s) => (s.remoteUes pk (p :: ps)).reply pk ST.POISONED []

/-- R186, R197, R202, R203: a request at its home. -/
def State.homeRequest (s : State) (port : Nat) (pk : Packet) : State :=
  let a := offOf pk.word.toNat
  if !s.bootReady || s.memInReset a then s.reply pk ST.NOT_READY []
  else match (s.orderHold false pk).or ((s.changingFor pk).map regionHold) with
    | some g => s.holdOp g (.arrived port pk)
    | none =>
      if pk.type == PT.HAND then
        match s.handOff a (ofLe pk.data) (some pk.src.toNat) (.packet pk) with
        | (some st, s) => s.reply pk st []
        | (none, s) => s
      else
        let (op, code) := requestOp pk
        if !s.remoteReach a op then s.reply pk ST.RANGE []
        else if !s.regionsAllow a op pk.src.toNat then (s.refusedOwner code a pk.src.toNat).reply pk ST.REFUSED_OWNER []
        else s.performRequest port pk

/-- A packet of one type that arrived: handled when it is for this package (R226, R235). -/
def State.onPacket (s : State) (type : BitVec 6) (port : Nat) (pk : Packet) (act : State → State) : State :=
  if pk.type != type then s
  else match s.accept port pk with
    | (true, s) => act s
    | (false, s) => s

/-- A request packet of one type. -/
def State.onRequest (s : State) (type : BitVec 6) (port : BitVec 5) (pk : Packet) : State :=
  s.onPacket type port.toNat pk fun s => s.homeRequest port.toNat pk

/-- LOAD_REQ (R197). -/
def execLoadReq (port : BitVec 5) (pk : Packet) (s : State) := done (s.onRequest PT.LOAD port pk)
/-- STORE_REQ (R197). -/
def execStoreReq (port : BitVec 5) (pk : Packet) (s : State) := done (s.onRequest PT.STORE port pk)
/-- PUT_REQ (R188). -/
def execPutReq (port : BitVec 5) (pk : Packet) (s : State) := done (s.onRequest PT.PUT port pk)
/-- GET_REQ (R188). -/
def execGetReq (port : BitVec 5) (pk : Packet) (s : State) := done (s.onRequest PT.GET port pk)
/-- AMO_REQ (R189). -/
def execAmoReq (port : BitVec 5) (pk : Packet) (s : State) := done (s.onRequest PT.AMO port pk)
/-- CAS_REQ (R189). -/
def execCasReq (port : BitVec 5) (pk : Packet) (s : State) := done (s.onRequest PT.CAS port pk)
/-- FADD_REQ (R190). -/
def execFaddReq (port : BitVec 5) (pk : Packet) (s : State) := done (s.onRequest PT.FADD port pk)
/-- HAND_REQ (R201). -/
def execHandReq (port : BitVec 5) (pk : Packet) (s : State) := done (s.onRequest PT.HAND port pk)

/-! ### Responses -/

/-- The context with the outstanding operation a response's TXN names (R226, DEDUCED, log entry 14). -/
def State.ropOwner (s : State) (txn : Nat) : Option Nat :=
  let g := bitsOf txn 19 12
  let hit (c : Ctx) : Bool := c.rops.any fun r =>
    r.entry == bitsOf txn 11 2 && r.gen == bitsOf txn 1 0 && r.reply.isNone
  (s.harts.find? fun e => (if isPx e.1 then pxOf e.1 == g else coreOf e.1 == g) && hit e.2).map (·.1)

/-- A response at its source FX: kept for its context, or discarded and counted (R207). -/
def State.onResponse (s : State) (pk : Packet) : State :=
  match s.ropOwner pk.txn.toNat with
  | none => s.count F.FAB_STATS.LATE_RESP
  | some k =>
    let mine (r : Rop) : Bool := r.entry == bitsOf pk.txn.toNat 11 2 && r.gen == bitsOf pk.txn.toNat 1 0
    let take (r : Rop) : Rop := if mine r then { r with reply := some (BitVec.ofNat 16 pk.word.toNat, pk.data) } else r
    s.onCtx k fun c => { c with rops := c.rops.map take }

/-- DATA_RSP (R207). -/
def execDataRsp (port : BitVec 5) (pk : Packet) (s : State) :=
  done (s.onPacket PT.DATA port.toNat pk fun s => s.onResponse pk)
/-- ACK_RSP (R207). -/
def execAckRsp (port : BitVec 5) (pk : Packet) (s : State) :=
  done (s.onPacket PT.ACK port.toNat pk fun s => s.onResponse pk)

/-- Whether a row of its own takes packets of a TYPE and SUB (Tables 09-8, 10-22); one that names none of them is malformed. -/
def hasRow (pk : Packet) : Bool :=
  [PT.LOAD, PT.STORE, PT.PUT, PT.GET, PT.AMO, PT.CAS, PT.FADD, PT.HAND, PT.DATA, PT.ACK, PT.COL_DATA, PT.POISON, PT.LAUNCH].contains pk.type
    || (pk.type == PT.COL_CTL && pk.sub.toNat ≤ 6) || (pk.type == PT.TIME && pk.sub.toNat ≤ 1)

/-- PACKET_TRANSIT (R226, R228 to R231): a packet for another endpoint; one whose TYPE or SUB no table lists is dropped and counted here,
wherever it goes. -/
def execPacketTransit (port : BitVec 5) (pk : Packet) (s : State) :=
  done (if pk.dest.toNat = s.self && hasRow pk then s else (s.accept port.toNat pk).2)

/-! ### Clearing every region -/

/-- Hand-offs of regions that become LOCAL (R199) are not performed: they are judged anew. -/
def State.dropChanges (s : State) (p : Nat → Bool) : State :=
  let gone := s.changes.filter fun c => p c.region
  let s := { s with changes := s.changes.filter fun c => !p c.region }
  gone.foldl (fun (s : State) c => match c.told with
    | .packet pk => s.holdOp (regionHold c.region) (.arrived 0 pk)
    | .self h n => s.holdOp (regionHold c.region) (.selfHand h n (c.region * 2 ^ 21) (c.state * 2 ^ 16 + c.owner.toNat))
    | .nobody => s) s

/-- R204: the clear begins. -/
def State.startClear (s : State) : State :=
  if s.clearing.isSome then s else (({ s with clearing := some s.now } : State).setFld F.FAB_REGION_CLEAR.CLEARING 1)

/-- The greatest number of regions one home controller keeps. -/
def State.mostRegions (s : State) : Nat :=
  maxOf [49152, ((List.range 8).map fun i => s.tierBytes i / 2 ^ 21).sum, ((List.range 2).map fun i => s.tierBytes (8 + i) / 2 ^ 21).sum]

/-- The tick by which a clear has changed its last region (R204). -/
def State.clearEnd (s : State) (t : Nat) : Nat := t + (s.mostRegions - 1) / 4 + 20

/-- REGION_CLEAR_DONE (R204): every region that the clear took up is LOCAL; a later hand-off stays. -/
def execRegionClearDone (s : State) : Host.Outcome State Fault Refusal :=
  done (match s.clearing with
    | none => s
    | some t =>
      if s.now < s.clearEnd t || (s.heldWrites.any fun h => match h.op with
          | .remote _ pk => s.clearWaits (requestRegions pk).1 || s.clearWaits (requestRegions pk).2
          | _ => false) then s
      else
        let kept := s.regions.filter fun e => !s.clearTakes e.1
        ({ s with clearing := none, regions := kept } : State).setFld F.FAB_REGION_CLEAR.CLEARING 0)

end Sys2Proof.Machine
end

