-- ==== Sys2Proof/Machine/Ring.lean ====
section
/-! DEFINITION. The parking rings of the update units (R157, R158). -/

namespace Sys2Proof.Machine

/-- The active pair of R161 for unit k. -/
def State.parkSlots (s : State) (k : Nat) : Nat := s.fld F.PUU_PARK_SLOTS.SLOTS k
def State.parkBase (s : State) (k : Nat) : Nat := stackBase k + s.fld F.PUU_PARK_BASE.BASE k * 65536

/-- Ring slots of unit k: all but the journal's four. -/
def State.ringSlots (s : State) (k : Nat) : Nat := s.parkSlots k - 4

/-- The offset of ring slot i. -/
def State.ringSlotAt (s : State) (k i : Nat) : Nat := s.parkBase k + 65536 * (4 + i % Nat.max 1 (s.ringSlots k))

/-- The slot a block would take next, if one is free. -/
def State.ringFree (s : State) (k : Nat) : Option Nat :=
  let p := s.puu k
  if p.ring.length < s.ringSlots k then some (s.ringSlotAt k (p.head + p.ring.length)) else none

/-- A slot stamped with its lap and block, its values written by the caller (R158). -/
def State.ringStamp (s : State) (k lap block : Nat) : State :=
  s.setPuu k { s.puu k with ring := (s.puu k).ring ++ [(lap, block)] }

/-- The head slot freed. -/
def State.ringPop (s : State) (k : Nat) : State :=
  let p := s.puu k
  s.setPuu k { p with ring := p.ring.tail, head := (p.head + 1) % Nat.max 1 (s.ringSlots k) }

end Sys2Proof.Machine
end

