-- ==== Sys2Proof/Machine/Summary.lean ====
section
/-! DEFINITION. The launch summary registers (R58). -/

namespace Sys2Proof.Machine

/-- Flag bits [6:0] of CMP_NUM_SUMMARY set. -/
def State.numFlags (s : State) (flags : Nat) : State :=
  (List.range 7).foldl (fun s i => if bitOf flags i then s.hwSet ⟨R.CMP_NUM_SUMMARY, i, i⟩ 1 else s) s

/-- CMP_NUM_FIRST (Table 02-12): the first event while VALID is 0; of one tick's events, the lowest engine. -/
def State.numFirst (s : State) (kind engine row col : Nat) : State :=
  let w : Word64 := BitVec.ofNat 64 (s.now % 2 ^ 32 * 2 ^ 32 + engine * 2 ^ 22 + 2 ^ 21 + kind * 2 ^ 19 + row * 2 ^ 8 + col)
  if s.flag F.CMP_NUM_FIRST.VALID && s.fld F.CMP_NUM_FIRST.TICK == s.now % 2 ^ 32
      && engine < s.fld F.CMP_NUM_FIRST.ENGINE && wordGet (s.hwWord R.CMP_NUM_FIRST 0) 21 21 == 1
  then { s with regs := mapSet regReset R.CMP_NUM_FIRST w s.regs }
  else s.capture F.CMP_NUM_FIRST.VALID w 0 fun v => engine < wordGet v 31 22

/-- An accumulator rounding (R53) by cluster c's unit: NaN and infinite results are flagged and captured as KIND 1. -/
def State.accEvent (s : State) (cluster : Nat) (nan inf : Bool) : State :=
  if !nan && !inf then s
  else (s.numFlags (b2n nan * 32 + b2n inf * 16)).numFirst 1 (32 * cluster) 0 0

end Sys2Proof.Machine
end

