-- ==== Sys2Proof/Machine/Collectives.lean ====
section
/-! DEFINITION. Transfers (R244 to R253): posting, matching, data, rounding, relay. -/

namespace Sys2Proof.Machine

/-- A packet of the package's job (R234); without an ACTIVE LOCAL entry none may leave (R237). -/
def State.sendJob (s : State) (pk : Packet) : Except Half State :=
  if s.self = 0xFFFF then .error ST.UNREACHABLE
  else match s.localEntry with
    | none => .error ST.TAG_REVOKED
    | some _ => s.send { pk with tag := BitVec.ofNat 16 s.jobTag }

/-! ### Control packets (R251, Table 10-22) -/

/-- The transfer key, bytes 0 to 11. -/
def keyBytes (comm seq step : Nat) : List Byte := leBytes 2 comm ++ [0, 0] ++ leBytes 4 seq ++ leBytes 4 step
def Xfer.key (x : Xfer) : List Byte := keyBytes x.comm x.seq x.step

def State.ctlPacket (s : State) (dest sub : Nat) (payload : List Byte) : Packet :=
  s.mkPacket s.jobTag dest PT.COL_CTL 0 0 sub 0 (slice payload 0 40)

/-- A control packet sent; one that cannot leave is lost. -/
def State.sendCtl (s : State) (dest sub : Nat) (payload : List Byte) : State :=
  match s.sendJob (s.ctlPacket dest sub payload) with
  | .ok s' => s'
  | .error _ => s

def rtsPayload (x : Xfer) (id sig : Nat) : List Byte :=
  x.key ++ [BitVec.ofNat 8 x.op, BitVec.ofNat 8 (fieldAt x.desc 2 1), 0, 0] ++ leBytes 4 x.count ++ leBytes 4 id ++ leBytes 8 sig
def ctsPayload (key : List Byte) (count sref rref : Nat) : List Byte :=
  key ++ List.replicate 4 0 ++ leBytes 4 count ++ leBytes 4 sref ++ leBytes 4 rref
def busyPayload (key : List Byte) (sref : Nat) : List Byte := key ++ List.replicate 8 0 ++ leBytes 4 sref
def mismatchPayload (key : List Byte) (cause sref rref : Nat) : List Byte :=
  key ++ leBytes 2 ST.COLL_MISMATCH.toNat ++ [BitVec.ofNat 8 cause] ++ List.replicate 5 0 ++ leBytes 4 sref ++ leBytes 4 rref
def cancelPayload (key : List Byte) (st : Half) (sref rref : Nat) : List Byte :=
  key ++ leBytes 2 st.toNat ++ List.replicate 6 0 ++ leBytes 4 sref ++ leBytes 4 rref

/-- RREF of a RECV's match entry (R251). -/
def Xfer.rref (x : Xfer) : Nat :=
  match x.phase with
  | .open_ e g => e * 128 + g
  | _ => 0

/-- The first core of the unit's cluster, for error records (Table 13-3). -/
def Xfer.core (x : Xfer) : Nat := 8 * x.unit

/-- A SEND to the package itself (R245). -/
def State.ownPeer (s : State) (x : Xfer) : Bool := x.peer == 0xFFFF || x.peer == s.self

/-! ### Ends that reach the other side (R245, R247) -/

/-- CANCEL to every bound SEND of a RECV that has not sent all; one of this package ends at once. -/
def State.cancelSends (s : State) (x : Xfer) (st : Half) : State :=
  x.srcs.foldl (fun s r =>
    if r.whole then s
    else if r.ep = s.self then s.endXfer r.sref st
    else s.sendCtl r.ep 4 (cancelPayload x.key st r.sref x.rref)) s

/-- The RECV of this package that a local SEND is bound to. -/
def State.localRecv (s : State) (id : Nat) : Option (Nat × Xfer) :=
  s.xfers.find? fun e => e.2.kind == 1 && e.2.srcs.any fun r => r.ep == s.self && r.sref == id

/-- A transfer ends with a failure and its matched peer hears of it. -/
def State.failXfer (s : State) (id : Nat) (st : Half) : State :=
  match s.xfer id with
  | none => s
  | some x =>
    let mine := s.localRecv id
    let s := s.endXfer id st
    match x.phase with
    | .open_ _ _ => s.cancelSends x st
    | .rts _ false => if s.ownPeer x then s else s.sendCtl x.peer 4 (cancelPayload x.key st id 0)
    | .bound _ true => match mine with
      | some (r, _) => s.endXfer r st
      | none => s
    | .bound rref false => s.sendCtl x.peer 4 (cancelPayload x.key st id rref)
    | _ => s

/-- A transfer that met an uncorrectable line, and others beside it, ends with ST_ABORTED and the errors are raised (R301). -/
def State.abortXfer (s : State) (id : Nat) (x : Xfer) (a : Nat) (more : List Nat := []) : State :=
  (a :: more).foldl (fun s a => s.uncorrectable a none x.core none ST.ABORTED) (s.failXfer id ST.ABORTED)

/-! ### Matching (R245) -/

/-- The accepted RECV with a key. -/
def State.findRecv (s : State) (comm seq step : Nat) : Option (Nat × Xfer) :=
  s.xfers.find? fun e => e.2.kind == 1 && e.2.comm == comm && e.2.seq == seq && e.2.step == step
    && (match e.2.phase with
      | .open_ _ _ => true
      | _ => false)

/-- Why a SEND and a RECV do not fit: the CAUSE of MISMATCH. -/
def matchCause (x : Xfer) (mySig ep op count sig : Nat) : Option Nat :=
  if op != x.op then some 0
  else if count != x.count then some 1
  else if sig != mySig then some 2
  else if x.nsrc ≤ x.srcs.length then some 3
  else if x.srcs.any fun r => r.ep == ep then some 4
  else none

/-- The MEMBER_SIG of a transfer's communicator. -/
def State.sigOf (s : State) (x : Xfer) : Nat := ((s.commOf x.comm).map fun c => c.2.sig).getD 0

/-- A SEND bound to a RECV; one of zero elements is whole at once. -/
def State.bindSend (s : State) (id : Nat) (x : Xfer) (ep sref fmt : Nat) : State :=
  s.setXfer id { x with srcs := x.srcs ++ [⟨ep, sref, fmt, [], x.count == 0⟩] }

/-- RTS at the destination. -/
def State.onRts (s : State) (pk : Packet) : State :=
  let d := pk.data
  let ep := pk.src.toNat
  let comm := fieldAt d 0 2
  let seq := fieldAt d 4 4
  let step := fieldAt d 8 4
  let sref := fieldAt d 20 4
  let key := keyBytes comm seq step
  match s.findRecv comm seq step with
  | none => s.sendCtl ep 2 (busyPayload key sref)
  | some (id, x) =>
    match matchCause x (s.sigOf x) ep (fieldAt d 12 1) (fieldAt d 16 4) (fieldAt d 24 8) with
    | none => (s.bindSend id x ep sref (fieldAt d 13 1 % 16)).sendCtl ep 1 (ctsPayload key x.count sref x.rref)
    | some c =>
      let s := s.sendCtl ep 3 (mismatchPayload key c sref x.rref)
      (s.endXfer id ST.COLL_MISMATCH).cancelSends x ST.COLL_MISMATCH

/-- A SEND to this package looks for its RECV over the package's own paths. -/
def State.matchLocal (s : State) (id : Nat) (x : Xfer) : State :=
  match s.findRecv x.comm x.seq x.step with
  | none => s.setXfer id { x with phase := .rts s.now true }
  | some (r, y) =>
    match matchCause y (s.sigOf y) s.self x.op x.count (s.sigOf x) with
    | none => (s.bindSend r y s.self id x.form).setXfer id { x with phase := .bound y.rref true }
    | some _ => ((s.endXfer id ST.COLL_MISMATCH).endXfer r ST.COLL_MISMATCH).cancelSends y ST.COLL_MISMATCH

/-- An RTS leaves, or the SEND ends with the status that keeps it here (R247). -/
def State.sendRts (s : State) (id : Nat) (x : Xfer) : State :=
  if s.ownPeer x then s.matchLocal id x
  else
    let s := s.setXfer id { x with phase := .rts s.now false }
    match s.sendJob (s.ctlPacket x.peer 0 (rtsPayload x id (s.sigOf x))) with
    | .ok s' => s'
    | .error e => s.endXfer id e

/-! ### Packed cells (R249) -/

/-- The greatest LO + N of a packed cell. -/
def packedLimit (k64 : Bool) : Nat := if k64 then 272 else 40

/-- The packed form of a cell, reserved bits of its control word zero (R50); none when it is too long. -/
def packCell (k64 : Bool) (cell : List Byte) : Option (List Byte) :=
  let n := accBytes k64
  let cell := (ofCell k64 cell).bytes k64
  let v := slice cell 0 n
  let ctl := slice cell n 8
  match firstIdx (· != 0) v with
  | none => some (ctl ++ [0, 0, 0, 0])
  | some lo =>
    let ok (m : Nat) : Bool :=
      let top := (v.getD (lo + m - 1) 0)
      1 ≤ m && (v.drop (lo + m)).all (· == if top.toNat < 128 then 0 else 0xFF)
    let m := ((List.range (n - lo + 1)).find? ok).getD (n - lo)
    if packedLimit k64 < lo + m then none
    else some (ctl ++ leBytes 2 lo ++ leBytes 2 m ++ slice v lo m)

/-- The accumulator a packed cell holds, and its length. -/
def unpackCell (k64 : Bool) (bs : List Byte) : Acc_ × Nat :=
  let lo := fieldAt bs 8 2
  let m := fieldAt bs 10 2
  let v := slice bs 12 m
  let fill : Byte := if m != 0 && 128 ≤ (v.getD (m - 1) 0).toNat then 0xFF else 0
  let all := (List.replicate lo 0 ++ v ++ List.replicate (accBytes k64 - lo - m) fill).take (accBytes k64)
  (ofCtl k64 (fieldAt bs 0 8) (ofLe all), 12 + m)

/-- The cells of a packet, with their element indices. -/
def unpackCells (k64 : Bool) : Nat → Nat → List Byte → List (Nat × Acc_)
  | 0, _, _ => []
  | fuel + 1, i, bs =>
    if bs.length < 12 then []
    else
      let (a, n) := unpackCell k64 bs
      (i, a) :: unpackCells k64 fuel (i + 1) (bs.drop n)

/-- A packed cell of a packet is too long (R249). -/
def packedTooLong (k64 : Bool) : Nat → List Byte → Bool
  | 0, _ => false
  | fuel + 1, bs =>
    if bs.length < 12 then false
    else packedLimit k64 < fieldAt bs 8 2 + fieldAt bs 10 2 || packedTooLong k64 fuel (bs.drop (12 + fieldAt bs 10 2))

/-! ### Contributions (R248, Table 10-4) -/

/-- One contribution to a RECV. -/
inductive Contrib where
  | bytes (off : Nat) (bs : List Byte)
  | cell (i : Nat) (a : Acc_)
  | term (i : Nat) (x : Num)
  | int (i v : Nat)

/-- Whether a reduction is FP64-range. -/
def Xfer.k64 (x : Xfer) : Bool := x.op == 2

/-- Bytes of one destination element. -/
def Xfer.destBytes (x : Xfer) : Nat := if x.op = 0 then 1 else if x.op = 1 then 64 else if x.op = 2 then 320 else 8

/-- What a packet's data contribute: form 0 plain elements, 1 packed cells, 2 relay bytes (R250). -/
def contribs (x : Xfer) (form index fmt : Nat) (data : List Byte) : List Contrib :=
  if x.op = 0 || form = 2 then [.bytes index data]
  else if x.op = 1 || x.op = 2 then
    if form = 1 then (unpackCells x.k64 400 index data).map fun e => .cell e.1 e.2
    else
      let e := formBytes fmt
      (List.range (data.length / e)).map fun i => .term (index + i) (decodeFp (fmtOf fmt) (fieldAt data (i * e) e))
  else (List.range (data.length / 8)).map fun i => .int (index + i) (fieldAt data (8 * i) 8)

/-- The first index and the number of elements or bytes contributed. -/
def contribSpan (cs : List Contrib) : Nat × Nat :=
  match cs with
  | [] => (0, 0)
  | .bytes o bs :: _ => (o, bs.length)
  | .cell i _ :: _ | .term i _ :: _ | .int i _ :: _ => (i, cs.length)

/-- Integer operators 3 to 9. -/
def intCombine (op old v : Nat) : Nat :=
  if op = 3 then (old + v) % 2 ^ 64
  else if op = 4 then if toSigned 64 v < toSigned 64 old then v else old
  else if op = 5 then if toSigned 64 old < toSigned 64 v then v else old
  else if op = 6 then Nat.min old v
  else if op = 7 then Nat.max old v
  else if op = 8 then old.lor v
  else old.land v

/-- A cell in memory changed; one that newly exceeds its terms is flagged (R50, R58). -/
def State.putCell (s : State) (k64 : Bool) (a : Nat) (f : Acc_ → Acc_) : State :=
  let old := ofCell k64 (s.peek a (cellBytes k64))
  let new := f old
  let s := s.homeWrite a (new.bytes k64)
  if new.exceeded && !old.exceeded then s.numFlags 8 else s

/-- One contribution written into the destination. -/
def applyContrib (x : Xfer) (s : State) (c : Contrib) : State :=
  let at_ (i : Nat) : Nat := x.local_ + i * x.destBytes
  match c with
  | .bytes o bs => if bs.isEmpty then s else s.homeWrite (x.local_ + o) bs
  | .cell i a => s.putCell x.k64 (at_ i) fun old => old.merge x.k64 a
  | .term i v => s.putCell x.k64 (at_ i) fun old => old.add x.k64 v
  | .int i v => s.homeWrite (at_ i) (leBytes 8 (intCombine x.op (s.peekNat (at_ i) 8) v))

/-- A packet's contributions combined into the destination of a RECV, unless it must wait or meets a marked line. -/
def State.combine (s : State) (x : Xfer) (cs : List Contrib) : HomeRes × State :=
  let (i, n) := contribSpan cs
  let a := x.local_ + i * x.destBytes
  let len := n * x.destBytes
  if len = 0 then (.done [], s)
  else match s.writeHold a len with
    | some g => (.held g, s)
    | none =>
      match cs with
      | .bytes o bs :: _ =>
        match s.storeAt true none (x.local_ + o) bs with
        | (s, p :: ps) => (.ue p ps, s)
        | (s, []) => (.done [], s)
      | _ => match s.poisonIn a len with
        | some p => (.ue p [], s)
        | none => (.done [], cs.foldl (applyContrib x) s)

/-- The pieces of a source grow; its contribution is whole once all COUNT have arrived (R250). -/
def XSrc.grow (count : Nat) (i n : Nat) (r : XSrc) : XSrc :=
  let got := addPiece i n r.got
  { r with got := got, whole := r.whole || covers got 0 count }

/-- A RECV's source advanced; CHUNKS is written when it moves (R246). -/
def State.advance (s : State) (id : Nat) (x : Xfer) (ep : Nat) (cs : List Contrib) : State :=
  let (i, n) := contribSpan cs
  let x' := { x with srcs := x.srcs.map fun r => if r.ep == ep then XSrc.grow x.count i n r else r }
  let s := s.setXfer id x'
  if x'.chunks != x.chunks then s.putNat x.doneAt 8 (x'.chunks % 2 ^ 32) x.core else s

/-- COL_DATA at its RECV. -/
def State.onColData (s : State) (port : Nat) (pk : Packet) : State :=
  let e := pk.txn.toNat / 128
  let g := pk.txn.toNat % 128
  let ep := pk.src.toNat
  match s.xfers.find? fun r => r.2.phase == .open_ e g && r.2.srcs.any fun q => q.ep == ep with
  | none => s.count F.FAB_STATS.LATE_RESP
  | some (id, x) =>
    let fmt := ((x.srcs.find? fun q => q.ep == ep).map (·.fmt)).getD 0
    let cs := contribs x (pk.sub.toNat / 16) pk.word.toNat fmt pk.data
    let (i, n) := contribSpan cs
    if x.count < i + n then s
    else if pk.sub.toNat / 16 == 1 && (x.op == 1 || x.op == 2) && packedTooLong x.k64 400 pk.data then s.failXfer id ST.RANGE
    else match s.combine x cs with
      | (.held h, s) => s.holdOp h (.remote port pk)
      | (.ue p ps, s) => s.abortXfer id x p ps
      | (.done _, s) => s.advance id x ep cs

/-! ### Acceptance (R244) -/

/-- Table 10-4: the forms an operator allows. -/
def formOk (kind op form : Nat) : Bool :=
  if kind = 2 then op == 1 && (form == 1 || form == 2 || form == 3) || op == 2 && form ≤ 3
  else if op = 0 then form == 15
  else if op = 1 then if kind = 0 then form == 1 || form == 2 || form == 3 || form == 12 else form == 12
  else if op = 2 then if kind = 0 then form ≤ 3 || form == 13 else form == 13
  else op ≤ 9 && form == 11

/-- A local address of a descriptor: this package's (R65). -/
def State.ownAddr (s : State) (v : Nat) : Bool := s.isSelf v

/-- Bytes of the extent at LOCAL. -/
def Xfer.localBytes (x : Xfer) : Nat :=
  x.count * (if x.kind = 0 then formBytes x.form else if x.kind = 2 then cellBytes x.k64 else x.destBytes)

/-- The alignment of LOCAL: element size, 64 for cells. -/
def Xfer.localAlign (x : Xfer) : Nat :=
  if x.kind = 2 || x.form = 12 || x.form = 13 then 64 else formBytes x.form

/-- Fields of Table 10-3 in range. -/
def State.xferFields (s : State) (x : Xfer) : Bool :=
  let d := x.desc
  let k := x.kind
  let flags := fieldAt d 3 1
  let zero (i n : Nat) : Bool := zeroAt d i n
  k ≤ 2 && flags < 8 && (!x.baton || k == 1) && (!x.relay || k == 0) && (!x.park || k == 2)
    && fieldAt d 2 1 < 128 && (if k = 2 then x.rm ≤ 3 else x.rm == 0) && formOk k x.op x.form
    && (!x.park || x.form == 1 || x.form == 2)
    && (if k = 0 then x.peer < 0x4000 || x.peer == 0xFFFF || x.peer == s.self else x.peer == 0)
    && (if k = 1 then 1 ≤ x.nsrc && x.nsrc ≤ 16384 && (x.op != 0 || x.nsrc == 1) else x.nsrc == 0)
    && (if x.baton then 12 ≤ x.chunkLog2 && x.chunkLog2 ≤ 22 else x.chunkLog2 == 0) && zero 23 1
    && (if k = 2 then (if x.park then bitsOf x.out 31 4 == 0 else s.ownAddr x.out) else x.out == 0)
    && (if x.relay then 1 ≤ x.tilesWanted && (x.op == 0 || x.op == 1 && x.form == 1 || x.op == 2 && x.form == 0)
        else x.relayTag == 0 && x.tilesWanted == 0)
    && (x.park || x.lap == 0) && s.ownAddr (fieldAt d 8 8)

/-- An extent that touches the host window (R163: populated or not). -/
def touchesHwin (a n : Nat) : Bool := 0 < n && a < 0x100000000000 && 0x0F0000000000 < a + n

/-- The checks of R244 in order; ST_OK when the descriptor stands. -/
def State.xferCheck (s : State) (x : Xfer) : Half :=
  let dataOk : Kind → Bool := fun k => isStackCsram k || isTier k
  let ob := if x.kind = 2 && !x.park then x.count * formBytes x.form else 0
  let o := offOf x.out
  if !s.xferFields x then ST.RANGE
  else if x.local_ % x.localAlign != 0 || x.doneAt % 8 != 0 || (x.kind == 2 && !x.park && o % formBytes x.form != 0) then ST.ALIGN
  else match s.commOf x.comm with
    | none => ST.COMM_UNKNOWN
    | some (_, c) =>
      if (x.baton && c.mode == 1) || (x.relay && c.mode == 0) || touchesHwin x.local_ x.localBytes || touchesHwin o ob then
        ST.MODE_CONFLICT
      else
        let cells := x.kind == 2 || (x.kind == 1 && (x.op == 1 || x.op == 2))
        let cellPlace := (match place x.local_, place (x.local_ + x.localBytes - 1) with
          | .csram k _, .csram k' _ => k == x.unit && k' == x.unit
          | .stack k _, .stack k' _ => k == x.unit / 2 && k' == x.unit / 2
          | _, _ => false)
        if cells && x.count != 0 && !cellPlace then ST.RANGE
        else if !s.extentIn dataOk x.local_ x.localBytes || !s.extentIn dataOk o ob then ST.RANGE
        else ST.OK

/-- The value a RECV's destination elements take at acceptance (Table 10-4). -/
def Xfer.initBytes (x : Xfer) : List Byte :=
  if x.op = 1 || x.op = 2 then (Acc_.empty).bytes x.k64
  else leBytes 8 (if x.op = 4 then 2 ^ 63 - 1 else if x.op = 5 then 2 ^ 63 else if x.op = 6 || x.op = 9 then 2 ^ 64 - 1 else 0)

/-- A RECV's destination prepared, and its match entry taken if one is free (R245). -/
def State.openRecv (s : State) (id : Nat) (x : Xfer) : State :=
  let s := if x.op = 0 then s
    else foldRange x.count (fun s i => s.put (x.local_ + i * x.destBytes) x.initBytes x.core) s
  (s.setXfer id { x with phase := .waitEntry }).grantEntries

/-! ### Data of a SEND -/

/-- The packets of plain elements: index of the first and bytes, at most 4,096. -/
def plainPackets (esz : Nat) : Nat → Nat → List Byte → List (Nat × List Byte)
  | 0, _, _ => []
  | fuel + 1, i, bs =>
    if bs.isEmpty then []
    else
      let n := 4096 / esz
      (i, bs.take (n * esz)) :: plainPackets esz fuel (i + n) (bs.drop (n * esz))

/-- Packed cells gathered into packets of at most 4,096 bytes. -/
def cellPackets : Nat → Nat → List Byte → List (List Byte) → List (Nat × List Byte)
  | i, _, acc, [] => if acc.isEmpty then [] else [(i, acc)]
  | i, n, acc, c :: cs =>
    if 4096 < acc.length + c.length then (i, acc) :: cellPackets (i + n) 1 c cs
    else cellPackets i (n + 1) (acc ++ c) cs

/-- The packets of a SEND: form, index and data; none when a cell is too long (R249). -/
def sendPackets (x : Xfer) (data : List Byte) : Option (List (Nat × Nat × List Byte)) :=
  if x.form = 12 || x.form = 13 then
    let k64 := x.form == 13
    let n := cellBytes k64
    let cells := (List.range (data.length / n)).map fun i => packCell k64 (slice data (i * n) n)
    if cells.any (·.isNone) then none
    else some ((cellPackets 0 0 [] (cells.filterMap id)).map fun p => (1, p.1, p.2))
  else
    some ((plainPackets (formBytes x.form) (data.length / 2048 + 1) 0 data).map fun p => (0, p.1, p.2))

/-- COL_DATA packets sent in order, the final one marked LAST when it ends the SEND; the status that stops them. -/
def State.sendColData (s : State) (x : Xfer) (rref : Nat) (last : Bool) (ps : List (Nat × Nat × List Byte)) :
    Except Half State :=
  let cls := ((s.commOf x.comm).map fun c => c.2.cls).getD 0
  ps.zipIdx.foldlM (fun s (e : (Nat × Nat × List Byte) × Nat) =>
    let fin := last && e.2 + 1 == ps.length
    s.sendJob (s.mkPacket s.jobTag x.peer PT.COL_DATA cls rref (e.1.1 * 16 + b2n fin * 8) e.1.2.1 e.1.2.2)) s

/-- Contributions of a local SEND taken directly, without packing. -/
def localContribs (x y : Xfer) (data : List Byte) : List Contrib :=
  if x.form = 12 || x.form = 13 then
    let k64 := x.form == 13
    let n := cellBytes k64
    (List.range (data.length / n)).map fun i => .cell i (ofCell k64 (slice data (i * n) n))
  else contribs y 0 0 x.form data

/-- A bound SEND reads its source and sends it (R246). -/
def State.completeSend (s : State) (id : Nat) (x : Xfer) (rref : Nat) (own : Bool) : State :=
  let n := x.localBytes
  if s.memWaits x.local_ then s.holdOp resetHold (.unit (.transfer id))
  else match s.poisonIn x.local_ n with
    | some p => s.abortXfer id x p
    | none =>
      let (data, s') := s.read x.local_ n
      if own then
        match s.localRecv id with
        | none => s
        | some (r, y) =>
          let cs := localContribs x y data
          match s'.combine y cs with
          | (.held g, _) => s.holdOp g (.unit (.transfer id))
          | (.ue p ps, s) => s.abortXfer r y p ps
          | (.done _, s) => (s.advance r y s.self cs).endXfer id ST.OK
      else match sendPackets x data with
        | none => s'.failXfer id ST.RANGE
        | some ps =>
          match s'.sendColData x rref true ps with
          | .ok s => s.endXfer id ST.OK
          | .error e => s'.failXfer id e

/-! ### ROUND (R252) -/

/-- The rounded bytes of n cells from index i on. -/
def State.roundCells (s : State) (x : Xfer) (i n : Nat) : List Byte :=
  let k64 := x.op == 2
  let cb := cellBytes k64
  (List.range n).flatMap fun j =>
    leBytes (formBytes x.form) ((ofCell k64 (s.peek (x.local_ + (i + j) * cb) cb)).round k64 (fmtOf x.form) x.rm)

/-- R58: rounded values that are NaN or infinite. -/
def State.roundEvents (s : State) (x : Xfer) (bs : List Byte) : State :=
  let w := formBytes x.form
  let vals := (List.range (bs.length / w)).map fun j => decodeFp (fmtOf x.form) (fieldAt bs (w * j) w)
  s.accEvent x.unit (vals.any Num.isNan) (vals.any Num.isInf)

/-- The blocks of a PARK ROUND written while slots are free. -/
def State.parkBlocks (id : Nat) (x : Xfer) : Nat → State → State
  | 0, s => s.endXfer id ST.OK
  | fuel + 1, s =>
    let j := ((s.xfer id).map (·.tiles)).getD 0
    let u := x.out % 16
    if x.count ≤ 16384 * j then s.endXfer id ST.OK
    else match s.ringFree u with
      | none =>
        let was := ((s.xfer id).map (·.stalled)).getD false
        let s := if was then s else s.count F.PUU_STATS.PARK_FULL_WAITS u
        s.setXfer id { x with tiles := j, stalled := true }
      | some a =>
        let n := Nat.min 16384 (x.count - 16384 * j)
        let bs := s.roundCells x (16384 * j) n
        match s.writeHold a bs.length with
        | some g => s.holdOp g (.unit (.transfer id))
        | none =>
          match s.poisonPart a bs.length with
          | some p => s.abortXfer id x p
          | none =>
            let s := ((s.homeWrite a bs).ringStamp u x.lap (x.out / 2 ^ 32 + j)).roundEvents x bs
            State.parkBlocks id x fuel (s.setXfer id { x with tiles := j + 1, stalled := false })

/-- ROUND. -/
def State.completeRound (s : State) (id : Nat) (x : Xfer) : State :=
  let n := x.localBytes
  if s.memWaits x.local_ then s.holdOp resetHold (.unit (.transfer id))
  else match s.poisonIn x.local_ n with
    | some p => s.abortXfer id x p
    | none =>
      if x.park then State.parkBlocks id x (x.count / 16384 + 2) s
      else
        let bs := s.roundCells x 0 x.count
        match s.homeOp true (offOf x.out) (.store bs) with
        | (.held g, _) => s.holdOp g (.unit (.transfer id))
        | (.ue p ps, s) => s.abortXfer id x p ps
        | (.done _, s) => (s.roundEvents x bs).endXfer id ST.OK

/-- A bound SEND sends its source, a RECV whose sources are whole completes, a ROUND rounds (R246, R252). -/
def State.transferStep (s : State) (id : Nat) : State :=
  match s.xfer id with
  | none => s
  | some x =>
    match x.phase with
    | .bound rref own => if x.relay then s else s.completeSend id x rref own
    | .round => s.completeRound id x
    | .open_ _ _ => if x.srcs.length = x.nsrc && x.srcs.all (·.whole) then s.endXfer id ST.OK else s
    | _ => s

/-- TRANSFER_COMPLETE. -/
def execTransferComplete (transfer : Nat) (s : State) : Host.Outcome State Fault Refusal := done (s.transferStep transfer)

/-! ### Relay (R253) -/

/-- The bytes of a tile as packets of a SEND; none when a byte lies outside its extent. -/
def State.tilePackets (s : State) (x : Xfer) (t : Tile) : Option (List (Nat × Nat × List Byte)) :=
  let e := if x.op = 0 then 1 else formBytes x.form
  let ok := t.parts.all fun p => x.local_ ≤ p.1 && p.1 + p.2 ≤ x.local_ + x.count * e && (p.1 - x.local_) % e == 0
  if !ok then none
  else some (t.parts.flatMap fun p =>
    (plainPackets e (p.2 / 2048 + 1) ((p.1 - x.local_) / e) (s.peek p.1 p.2)).map fun q => (if x.op = 0 then 2 else 0, q.1, q.2))

/-- The tiles of a SEND to this package taken into its RECV, or the granule they wait for. -/
def State.relayLocal (s : State) (id : Nat) (x : Xfer) (ps : List (Nat × Nat × List Byte)) : Except Nat State :=
  match s.localRecv id with
  | none => .ok s
  | some (r, _) => ps.foldlM (fun s p =>
      match s.xfer r with
      | none => .ok s
      | some y =>
        let cs := contribs y p.1 p.2.1 x.form p.2.2
        match s.combine y cs with
        | (.held g, _) => .error g
        | (.ue a ps, s) => .ok (s.abortXfer r y a ps)
        | (.done _, s) => .ok (s.advance r y s.self cs)) s

/-- One tile offered to the bound RELAY SEND with its tag. -/
def relayTile (s : State) (t : Tile) : State :=
  let hit := s.xfers.find? fun e => e.2.unit == t.unit && e.2.relay && e.2.relayTag == t.tag
    && (match e.2.phase with
      | .bound _ _ => true
      | _ => false)
  match hit with
  | none => s
  | some (id, x) =>
    let gone : State := { s with tiles := s.tiles.erase t }
    match s.tilePackets x t with
    | none => gone.failXfer id ST.RANGE
    | some ps =>
      let final := x.tiles + 1 == x.tilesWanted
      let counted (s : State) : State :=
        if final then s.endXfer id ST.OK
        else match s.xfer id with
          | some y => s.setXfer id { y with tiles := y.tiles + 1 }
          | none => s
      match x.phase with
      | .bound _ true =>
        match gone.relayLocal id x ps with
        | .ok s => counted s
        | .error g => s.holdOp g (.unit (.relay t.unit))
      | .bound rref false =>
        match gone.sendColData x rref final ps with
        | .ok s => counted s
        | .error e => gone.failXfer id e
      | _ => s

/-- A unit's waiting tiles offered again. -/
def State.relayPump (s : State) (unit : Nat) : State :=
  (s.tiles.filter fun t => t.unit == unit).foldl relayTile s

/-- Whether a unit's relay intake has room: 64 tiles. -/
def State.relayRoom (s : State) (unit : Nat) : Bool := (s.tiles.filter fun t => t.unit == unit).length < 64

/-- A tile enters a unit's intake (R253). -/
def State.relayIn (s : State) (unit tag fmt : Nat) (parts : List (Nat × Nat)) : State :=
  ({ s with tiles := s.tiles ++ [⟨unit, tag, fmt, parts, s.now⟩] } : State).relayPump unit

/-- A SEND looks for its RECV; one to this package that finds it takes the tiles that wait (R245, R253). -/
def State.sendGo (s : State) (id : Nat) (x : Xfer) : State := (s.sendRts id x).relayPump x.unit

/-! ### Acceptance -/

/-- A descriptor that passed every check. -/
def State.acceptXfer (s : State) (x : Xfer) : State :=
  let id := s.nextXfer
  let s := { s with nextXfer := (id + 1) % 2 ^ 32 }
  if x.kind = 0 then s.sendGo id x
  else if x.kind = 1 then s.openRecv id x
  else s.setXfer id { x with phase := .round }

/-- Descriptors accepted on a unit and not complete. -/
def State.unitQueued (s : State) (k : Nat) : Nat := (s.xfers.filter fun e => e.2.unit == k).length

/-- The place of a completion word: this package's SRAM or stacks. -/
def State.wordPlace (s : State) (v : Nat) : Bool := s.isSelf v && s.extentIn isSramStack (offOf v) 8

/-- The register-space offset of COL_POST_k. -/
def colPostAt (k : Nat) : Nat := R.COL_POST + 8 * k

/-- R244: a write of COL_POST_k. -/
def State.colPost (s : State) (src : Source) (k : Nat) (v : Word64) : State :=
  let a := offOf v.toNat
  let bad (s : State) : State := s.refuse src 3 (colPostAt k) v
  let inPlace := match place a with
    | .csram c _ => c == k
    | _ => false
  if !s.isSelf v.toNat || a % 64 != 0 || !inPlace then bad s
  else if 256 ≤ s.unitQueued k then bad (s.count F.COL_UNIT_STATS.REFUSED k)
  else match s.poisonIn a 64 with
    | some p => (bad (s.count F.COL_UNIT_STATS.REFUSED k)).uncorrectable p none (8 * k) none 0
    | none =>
      let (d, s) := s.read a 64
      let x : Xfer := ⟨k, d, s.now + s.fld F.COL_CFG.XLIM, s.fld F.COL_CFG.RETRY, .waitEntry, [], 0, false⟩
      if !s.wordPlace (fieldAt d 32 8) then bad (s.count F.COL_UNIT_STATS.REFUSED k)
      else
        let s := s.putNat x.doneAt 8 0 x.core
        let st := if s.colFenced k then ST.ABORTED else s.xferCheck x
        if st = ST.OK then s.acceptXfer x
        else (s.putNat x.doneAt 8 (completionWord st 0) x.core).count F.COL_UNIT_STATS.DONE k

/-- RELAY_ORPHAN_TIMEOUT (R253). -/
def execRelayOrphanTimeout (unit : BitVec 5) (s : State) : Host.Outcome State Fault Refusal :=
  done (match s.tiles.find? fun t => t.unit == unit.toNat && t.since + s.fld F.COL_CFG.XLIM ≤ s.now with
    | none => s
    | some t => ({ s with tiles := s.tiles.erase t } : State).count F.COL_UNIT_STATS.RELAY_ORPHANS unit.toNat)

/-! ### Control packets received -/

/-- A COL_CTL packet of one SUB. -/
def State.onColCtl (s : State) (sub : Nat) (port : BitVec 5) (pk : Packet) (act : State → State) : State :=
  if pk.sub.toNat != sub then s else s.onPacket PT.COL_CTL port.toNat pk act

/-- The live SEND that a control packet's SREF and sender name (R251). -/
def State.sendNamed (s : State) (pk : Packet) : Option (Nat × Xfer) :=
  s.xfers.find? fun e => e.1 == fieldAt pk.data 20 4 && e.2.kind == 0 && e.2.peer == pk.src.toNat
    && e.2.key == slice pk.data 0 12

def State.late (s : State) : State := s.count F.FAB_STATS.LATE_RESP

/-- RTS (R245). -/
def execRts (port : BitVec 5) (pkt : Packet) (s : State) := done (s.onColCtl 0 port pkt fun s => s.onRts pkt)

/-- CTS (R245): the SEND is bound; a RELAY SEND takes the tiles that wait. -/
def execCts (port : BitVec 5) (pkt : Packet) (s : State) : Host.Outcome State Fault Refusal :=
  done (s.onColCtl 1 port pkt fun s =>
    match s.sendNamed pkt with
    | some (id, x) =>
      match x.phase with
      | .rts _ _ => (s.setXfer id { x with phase := .bound (fieldAt pkt.data 24 4) false }).relayPump x.unit
      | _ => s.late
    | none => s.late)

/-- BUSY (R245). -/
def execBusy (port : BitVec 5) (pkt : Packet) (s : State) : Host.Outcome State Fault Refusal :=
  done (s.onColCtl 2 port pkt fun s =>
    match s.sendNamed pkt with
    | some (id, x) =>
      match x.phase with
      | .rts _ _ => s.setXfer id { x with phase := .rts s.now true }
      | _ => s.late
    | none => s.late)

/-- MISMATCH (R245): the offending SEND ends. -/
def execMismatch (port : BitVec 5) (pkt : Packet) (s : State) : Host.Outcome State Fault Refusal :=
  done (s.onColCtl 3 port pkt fun s =>
    match s.sendNamed pkt with
    | some (id, _) => s.endXfer id ST.COLL_MISMATCH
    | none => s.late)

/-- CANCEL (R245, R247): the RECV it binds, or the SEND it names, ends with its status. -/
def execCancel (port : BitVec 5) (pkt : Packet) (s : State) : Host.Outcome State Fault Refusal :=
  done (s.onColCtl 4 port pkt fun s =>
    let st := BitVec.ofNat 16 (fieldAt pkt.data 12 2)
    let sref := fieldAt pkt.data 20 4
    let rref := fieldAt pkt.data 24 4
    let recv := s.xfers.find? fun e => e.2.kind == 1 && e.2.key == slice pkt.data 0 12 && (rref == 0 || rref == e.2.rref)
      && e.2.srcs.any fun r => r.ep == pkt.src.toNat && r.sref == sref
    match recv with
    | some (id, _) => s.endXfer id st
    | none =>
      match s.sendNamed pkt with
      | some (id, _) => s.endXfer id st
      | none => s.late)

/-- COL_DATA (R248, R250). -/
def execColData (port : BitVec 5) (pkt : Packet) (s : State) :=
  done (s.onPacket PT.COL_DATA port.toNat pkt fun s => s.onColData port.toNat pkt)

/-- RTS_RETRY (R245): RETRY ticks after a BUSY. -/
def execRtsRetry (transfer : Nat) (s : State) : Host.Outcome State Fault Refusal :=
  done (match s.xfer transfer with
    | none => s
    | some x =>
      match x.phase with
      | .rts t true =>
        if s.now < t + x.retry then s else (s.count F.COL_UNIT_STATS.RTS_RETRIES x.unit).sendGo transfer x
      | _ => s)

/-- TRANSFER_TIMEOUT (R247). -/
def execTransferTimeout (transfer : Nat) (s : State) : Host.Outcome State Fault Refusal :=
  done (match s.xfer transfer with
    | none => s
    | some x => if s.now < x.deadline then s else s.failXfer transfer ST.TIMEOUT)

/-- COL_UNIT_FAULT (R300): the unit is fenced and its transfers end with ST_ABORTED. -/
def execColUnitFault (unit : BitVec 5) (s : State) : Host.Outcome State Fault Refusal :=
  done (
    let k := unit.toNat
    let ids := (s.xfers.filter fun e => e.2.unit == k).map (·.1)
    let s := { s with fencedCols := setInsert k s.fencedCols }
    let s := ids.foldl (fun s id => s.failXfer id ST.ABORTED) s
    s.raise { ErrInfo.of .colFault with core := 8 * k })

end Sys2Proof.Machine
end

