-- ==== Sys2Proof/Machine/Power.lean ====
section
/-! DEFINITION. Input power, pacing, rest and wake (R368 to R381), the stack thermal states (R170 to R173). -/

namespace Sys2Proof.Machine

/-! ### Clocks -/

/-- A pair's clocks are stopped by heat (R172, R380). -/
def State.pairStopped (s : State) (k : Nat) : Bool := s.flag F.PWR_PAIR_STATE.STOPPED k

/-- A cluster rests (R376). -/
def State.resting (s : State) (c : Nat) : Bool :=
  s.flag (if c % 2 = 0 then F.PWR_PAIR_STATE.REST_A else F.PWR_PAIR_STATE.REST_B) (c / 2)
def State.setRest (s : State) (c : Nat) (b : Bool) : State :=
  s.setFld (if c % 2 = 0 then F.PWR_PAIR_STATE.REST_A else F.PWR_PAIR_STATE.REST_B) (b2n b) (c / 2)

/-- The rails are on and no shutdown is under way (R370). -/
def State.powered (s : State) : Bool := !s.pwr.off && s.pwr.stopping.isNone

/-- A cluster's cores, engines and solver unit are clocked. -/
def State.clockOn (s : State) (c : Nat) : Bool :=
  s.powered && !s.pairStopped (c / 2) && !s.resting c && (assocGet c s.pwr.waking).isNone

/-- A cluster's PLL runs and has locked. -/
def State.pllRuns (s : State) (c : Nat) : Bool :=
  (!s.resting c || s.pwr.pllOnly.contains c) && (assocGet c s.pwr.waking).isNone

/-- Update unit k is clocked: a PLL of its pair runs (R377). A stopped pair's PLLs stay locked, and the unit's clock gate is its own
(R141, R172, R380). -/
def State.unitClock (s : State) (k : Nat) : Bool := s.powered && (s.pllRuns (2 * k) || s.pllRuns (2 * k + 1))

/-- A cluster is busy: a context that is not EMPTY, an engine entry, a heat (R376). -/
def State.clusterBusy (s : State) (c : Nat) : Bool :=
  (s.harts.any fun e => !isPx e.1 && clusterOfHart e.1 == c && e.2.st != .empty)
    || (s.engines.any fun e => e.1 / 32 == c && (!e.2.queue.isEmpty || e.2.array.isSome || e.2.xfer.isSome))
    || (s.dsus.any fun e => e.1 == c && (!e.2.queue.isEmpty || !e.2.running.isEmpty))

/-- The clusters that could be busy: those with an entry in the state. -/
def State.touchedClusters (s : State) : List Nat :=
  setUnion (s.harts.foldl (fun l e => if isPx e.1 then l else setInsert (clusterOfHart e.1) l) [])
    (setUnion (s.engines.map fun e => e.1 / 32) (s.dsus.map (·.1)))

/-- A resting cluster's PLL starts; it locks within 8,000 ticks (R375, R376). -/
def State.startPll (s : State) (c : Nat) : State :=
  { s with pwr := { s.pwr with waking := assocSet c s.pwr.ticks s.pwr.waking } }

/-- A cluster wakes: its PLL starts unless it runs already for the update unit (R376). -/
def State.wakeCluster (s : State) (c : Nat) : State :=
  if !s.resting c then s
  else if s.pwr.pllOnly.contains c then
    ({ s with pwr := { s.pwr with pllOnly := s.pwr.pllOnly.filter (· != c) } } : State).setRest c false
  else (s.setRest c false).startPll c

/-- Update unit k needs a clock: with both clusters of its pair at rest and neither PLL running, that of cluster 2k alone starts
(R376). -/
def State.clockUnit (s : State) (k : Nat) : State :=
  if s.resting (2 * k) && s.resting (2 * k + 1) && !s.pwr.pllOnly.contains (2 * k) && !s.pwr.pllOnly.contains (2 * k + 1) then
    ({ s with pwr := { s.pwr with pllOnly := setInsert (2 * k) s.pwr.pllOnly } } : State).startPll (2 * k)
  else s

/-- PLL_LOCKED (R375). -/
def execPllLocked (cluster : BitVec 5) (s : State) : Host.Outcome State Fault Refusal :=
  done { s with pwr := { s.pwr with waking := s.pwr.waking.filter fun e => e.1 != cluster.toNat } }

/-- The update unit of a pair holds a queued or running command, or a parked gradient (R141). -/
def State.puuBusy (s : State) (k : Nat) : Bool :=
  !(s.puu k).queue.isEmpty || (s.puu k).run.isSome || !(s.puu k).ring.isEmpty

/-- A launch that has been accepted names a core of the cluster: it does not rest before the start (R376). -/
def State.launchNames (s : State) (c : Nat) : Bool :=
  s.pendingLaunch.isSome && s.image.any fun m => (List.range 8).any fun i => bitOf (fieldAt m.hdr 56 32) (8 * c + i)

/-- REST_ENTRY (R376): a cluster idle for DELAY ticks rests; the last PLL of its pair keeps running while update unit k needs it
(R141). -/
def execRestEntry (cluster : BitVec 5) (s : State) : Host.Outcome State Fault Refusal :=
  done (
    let c := cluster.toNat
    if s.resting c then
      -- the PLL that ran for the update unit alone stops with it
      if s.pwr.pllOnly.contains c && (!s.puuBusy (c / 2) || !s.resting (if c % 2 = 0 then c + 1 else c - 1)) then
        { s with pwr := { s.pwr with pllOnly := s.pwr.pllOnly.filter (· != c) } }
      else s
    else if s.flag F.PWR_REST.FORCE_AWAKE || s.clusterBusy c || s.launchNames c || !s.powered || (assocGet c s.pwr.waking).isSome
        || s.pwr.ticks < mapGet (fun _ => 0) c s.pwr.busyAt + s.fld F.PWR_REST.DELAY then s
    else
      let s := s.setRest c true
      let other := if c % 2 = 0 then c + 1 else c - 1
      if s.puuBusy (c / 2) && s.resting other && !s.pwr.pllOnly.contains other then
        { s with pwr := { s.pwr with pllOnly := setInsert c s.pwr.pllOnly } }
      else s)

/-- FORCE_AWAKE written with 1 wakes every cluster (R376). -/
def State.forceAwakeWritten (s : State) : State :=
  if s.flag F.PWR_REST.FORCE_AWAKE then (List.range 32).foldl State.wakeCluster s else s

/-! ### Pacing -/

/-- The steps that a pair's clock and its core rails run at: the larger and the smaller of STEP and the one still left behind. -/
def State.lagOf (s : State) (k : Nat) : Option Nat :=
  match assocGet k s.pwr.lag with
  | some (step, due) => if s.pwr.ticks < due then some step else none
  | none => none
def State.clockStep (s : State) (k : Nat) : Nat :=
  let st := s.fld F.PWR_PAIR_STATE.STEP k
  Nat.max st ((s.lagOf k).getD st)
def State.railStep (s : State) (k : Nat) : Nat :=
  let st := s.fld F.PWR_PAIR_STATE.STEP k
  Nat.min st ((s.lagOf k).getD st)

/-- A pair's step is the larger of its two (R377). A rising step lowers the clock at once and the rail follows; a falling step
raises the rail at once and the clock follows; the follower takes the 1,000 ticks that R372 allows (DESIGN CHOICE, log entry
59). -/
def State.repace (s : State) (k : Nat) : State :=
  let new := Nat.max (s.fld F.PWR_PAIR_STATE.POWER_STEP k) (s.fld F.PWR_PAIR_STATE.THERM_STEP k)
  if new = s.fld F.PWR_PAIR_STATE.STEP k then s
  else
    let clock := s.clockStep k
    let rail := s.railStep k
    let behind := if new ≤ rail then clock else rail
    let s := s.setFld F.PWR_PAIR_STATE.STEP new k
    { s with pwr := { s.pwr with lag := assocSet k (behind, s.pwr.ticks + 1000) s.pwr.lag } }

/-- A power step changed, within 0 to 20. -/
def State.setPower (s : State) (k v : Nat) : State := (s.setFld F.PWR_PAIR_STATE.POWER_STEP (Nat.min 20 v) k).repace k

/-- The frequency of a pair's step, in MHz (R377). -/
def State.stepFreq (s : State) (k : Nat) : Nat := 3300 - 100 * s.clockStep k

/-- The clock of a pair in MHz (Table 16-12), 0 while none of its clocks runs. -/
def State.pairFreq (s : State) (k : Nat) : Nat :=
  if s.powered && s.fld F.HIF_BOOT_STATUS.PHASE = 5 && !s.pairStopped k && (s.pllRuns (2 * k) || s.pllRuns (2 * k + 1))
  then s.stepFreq k else 0

/-- An offset entry of TRIMS applied to a reading of rail or sensor i, which has its fused trim already: the entry takes the fused
trim's place (R374). Readings do not go below zero. -/
def State.trimmed (s : State) (kind i v : Nat) : Nat :=
  match assocGet (256 * kind + i) s.cfg.trims with
  | none => v
  | some e => ((v : Int) + toSigned 16 (fieldAt e 2 2) - Config.fusedTrim kind i).toNat

/-- The set value of a rail in 0.1 mV (Table 16-3, R372, R376). -/
def State.railSet (s : State) (r : Nat) : Nat :=
  if r < 32 then (if s.resting r then 6500 else 9000 - 125 * s.railStep (r / 2))
  else match r with
    | 32 | 33 | 37 => 8000
    | 39 => 9000
    | 41 => 60000
    | _ => 7500

/-- MV of PWR_RAIL: the rail at its set value and its trim (DESIGN CHOICE, log entry 59). -/
def State.railMv (s : State) (r : Nat) : Nat := s.trimmed 0 r (s.railSet r / 10)

/-- The cap L of R369 in mW. -/
def State.powerCap (s : State) : Nat := Nat.min (s.fld F.PWR_LIMIT.WATTS * 1000) (120 * s.fld F.PWR_INPUT.VIN_MV)

/-- Pairs of the package. -/
def pairs : List Nat := List.range 16

/-- POWER_EVALUATION (R378, R379): the power steps change by Table 16-4. -/
def execPowerEvaluation (watts : BitVec 13) (pairWatts : List (BitVec 10)) (s : State) : Host.Outcome State Fault Refusal :=
  done (
    if !s.powered then s
    else
      let s := s.setFld F.PWR_INPUT.PIN_W watts.toNat
      let w (k : Nat) : Nat := (pairWatts.getD k 0).toNat
      let s := pairs.foldl (fun s k => s.setFld F.PWR_PAIR_STATE.PAIR_W (w k) k) s
      let pol := s.fld F.PWR_LIMIT.POLICY
      let step (s : State) (k : Nat) : Nat := s.fld F.PWR_PAIR_STATE.POWER_STEP k
      -- a change to UNIFORM levels the power steps
      let s := if pol = 0 && s.pwr.policy = 1 then
          let m := maxOf (pairs.map (step s))
          pairs.foldl (fun s k => s.setPower k m) s
        else s
      let p := watts.toNat * 1000
      let l := s.powerCap
      let floor := pairs.all fun k => s.fld F.PWR_PAIR_STATE.STEP k == 20
      let below := if p * 100 < 95 * l then s.pwr.below + 1 else 0
      let up : Nat := if 105 * l < p * 100 then 2 else if l < p then 1 else 0
      let total := (pairs.map w).sum
      let hot := pairs.filter fun k => total < 16 * w k
      let who := if pol = 1 && !hot.isEmpty then hot else pairs
      let down := below = 10
      let calm := if s.fld F.PWR_INPUT.IIN < 1200 then s.pwr.calm + 1 else 0
      let s := { s with pwr := { s.pwr with policy := pol, below := if down then 0 else below, calm := calm } }
      let s := if 0 < up then
          (who.foldl (fun s k => s.setPower k (step s k + up)) s).count F.PWR_STATS.PACE_INCS
        else s
      let s := if down then
          (pairs.foldl (fun s k => s.setPower k (step s k - 1)) s).count F.PWR_STATS.PACE_DECS
        else s
      let s := if 10 ≤ calm then s.setFld F.PWR_INPUT.CURRENT_LIMITED 0 else s
      let atFloor := floor && decide (l < p)
      let s := if atFloor then s.count F.PWR_STATS.FLOOR_EVALS else s
      let s := if atFloor && !s.flag F.PWR_INPUT.AT_FLOOR then s.ibi 5 else s
      s.setFld F.PWR_INPUT.AT_FLOOR (b2n atFloor))

/-- STOPPED of a pair: its stack CRITICAL or without sensors (R172, R173), or its junction (R380). -/
def State.restop (s : State) (k : Nat) : State :=
  s.setFld F.PWR_PAIR_STATE.STOPPED (b2n (decide (2 ≤ s.fld F.MEM_STATE.THERM k) || s.pwr.tjStop.contains k)) k

/-- A pair's thermal request at a sample (R380): asserted while its stack is HOT or its junction at PACE. The step moves
at the sample that first finds the request changed and every 10,000 ticks after. -/
def State.thermalStep (s : State) (k : Nat) : State :=
  let on := s.fld F.MEM_STATE.THERM k == 1 || decide (4 * s.fldOld F.PWR_TJ.PACE ≤ s.fld F.PWR_PAIR_STATE.TJ k)
  let was := s.pwr.thermOn.contains k
  let due := on != was || decide (mapGet (fun _ => 0) k s.pwr.thermAt + 10000 ≤ s.pwr.ticks)
  let st := s.fld F.PWR_PAIR_STATE.THERM_STEP k
  if !due then s
  else
    let s := { s with pwr := { s.pwr with
      thermOn := if on then setInsert k s.pwr.thermOn else s.pwr.thermOn.filter (· != k),
      thermAt := mapSet (fun _ => 0) k s.pwr.ticks s.pwr.thermAt } }
    (s.setFld F.PWR_PAIR_STATE.THERM_STEP (if on then Nat.min 20 (st + 1) else st - 1) k).repace k

/-- THERMAL_PACING_SAMPLE (R380). -/
def execThermalPacingSample (junctions : List (BitVec 10)) (s : State) : Host.Outcome State Fault Refusal :=
  done (if !s.powered then s else
    pairs.foldl (fun s k =>
      let pick (i : Nat) : Nat := s.trimmed 1 i (junctions.getD i 0).toNat
      let t := Nat.max (pick (2 * k)) (pick (2 * k + 1))
      let s := s.setFld F.PWR_PAIR_STATE.TJ t k
      let stop := 4 * s.fldOld F.PWR_TJ.STOP
      let s := { s with pwr := { s.pwr with
        tjStop := if stop ≤ t then setInsert k s.pwr.tjStop
          else if t + 12 < stop then s.pwr.tjStop.filter (· != k) else s.pwr.tjStop } }
      (s.restop k).thermalStep k) s)

/-- A commit of PWR_TJ (R380). -/
def State.pwrCommit (s : State) : State :=
  let w := s.stgOld R.PWR_TJ
  let stop := wordGet w 23 16
  let pace := wordGet w 15 8
  if 80 ≤ pace && pace ≤ 110 && 90 ≤ stop && stop ≤ 120 && pace + 5 ≤ stop then
    ((s.hold R.PWR_TJ 0).setReg R.PWR_TJ 0 w).setFld F.PWR_COMMIT.REFUSED 0
  else (s.setFld F.PWR_COMMIT.REFUSED 1).commitRefused

/-! ### Stack temperature -/

/-- Table 07-4: the state a reading gives, in 0.25 degree steps. From SENSOR_FAIL the reading decides alone. -/
def thermState (was t hot crit : Nat) : Nat :=
  if crit ≤ t then 2
  else if was = 2 && crit ≤ t + 12 then 2
  else if was = 2 then 1
  else if hot ≤ t then 1
  else if was = 0 then 0
  else if t + 12 < hot then 0
  else 1

/-- STACK_THERMAL_SAMPLE (R170 to R173). -/
def execStackThermalSample (stack : BitVec 4) (readings : List (Option (BitVec 10))) (s : State) :
    Host.Outcome State Fault Refusal :=
  done (if !s.powered then s else
    let k := stack.toNat
    let vals := (List.zip [0, 1, 2, 3] readings).filterMap fun r => r.2.map fun v => s.trimmed 1 (36 + 4 * k + r.1) v.toNat
    let miss := mapGet (fun _ => 0) k s.pwr.thermMiss
    let setMiss (s : State) (n : Nat) : State :=
      { s with pwr := { s.pwr with thermMiss := mapSet (fun _ => 0) k n s.pwr.thermMiss } }
    let s := if vals.isEmpty then
        let s := setMiss s (Nat.min 3 (miss + 1))
        if 2 ≤ miss then s.setFld F.MEM_STATE.THERM 3 k else s
      else
        let t := maxOf vals
        let s := setMiss s 0
        let s := s.setFld F.MEM_STATE.TEMP t k
        s.setFld F.MEM_STATE.THERM
          (thermState (s.fld F.MEM_STATE.THERM k) t (4 * s.fldOld F.MEM_THERM.HOT) (4 * s.fldOld F.MEM_THERM.CRIT)) k
    let s := s.setFld F.MEM_STATE.REFRESH (Nat.min 2 (s.fld F.MEM_STATE.THERM k)) k
    (s.restop k).thermalStep k)

/-! ### Input power -/

/-- A POWER_FAULT (R370, Table 16-2): latched, clocks stop, the record is written and the job poisoned, the shutdown
begins. During a shutdown no second one arises, but for one in the tick in which PWR_GOOD fell (R405). -/
def State.powerFault (s : State) (kind rail vin : Nat) : State :=
  let latched := wordGet (s.hwWord R.PWR_FAULT 0) 63 63 == 1
  if s.pwr.off || !s.pwr.alive || s.pwr.stopping.any (fun t => t < s.pwr.ticks || latched) then s
  else
    let w := 2 ^ 63 + kind * 2 ^ 60 + rail * 2 ^ 54 + vin * 2 ^ 38
    let s := (s.setReg R.PWR_FAULT 0 (BitVec.ofNat 64 w)).hwSet F.PWR_FAULT.VALID 1
    let s := s.count F.PWR_STATS.FAULTS
    let s := { s with pwr := { s.pwr with stopping := some s.pwr.ticks, needGood := decide (3 ≤ kind) } }
    let s := if s.resetting.any fun d => d.1 == 5 then s else s.raise (ErrInfo.of .powerFault)
    s.ibi 1

/-- CURRENT_LIMITED's event (R369): once in 200 ticks, every pair's power step rises by 4. -/
def State.currentLimit (s : State) (iin200 : Nat) : State :=
  if iin200 ≤ 1260 || s.pwr.limitAt.any (fun t => s.pwr.ticks < t + 200) then s
  else
    let s := { s with pwr := { s.pwr with limitAt := some s.pwr.ticks, calm := 0 } }
    let s := pairs.foldl (fun s k => s.setPower k (s.fld F.PWR_PAIR_STATE.POWER_STEP k + 4)) s
    (s.setFld F.PWR_INPUT.CURRENT_LIMITED 1).count F.PWR_STATS.CURRENT_LIMITS

/-- Since when a condition has held. -/
def since (now : Nat) (holds : Bool) (was : Option Nat) : Option Nat := if holds then some (was.getD now) else none

/-- The readings of an input sample: state of Table 16-1, times out of range, faults and the current limit (R368 to
R370). -/
def State.inputSample (s : State) (vin iin iin200 : Nat) : State :=
  let t := s.pwr.ticks
  let low := decide (28000 ≤ vin ∧ vin < 30000)
  let high := decide (40000 < vin ∧ vin ≤ 42000)
  let newly := (low && !s.flag F.PWR_INPUT.LOW) || (high && !s.flag F.PWR_INPUT.HIGH)
  let s := s.setFld F.PWR_INPUT.VIN_MV vin
  let s := s.setFld F.PWR_INPUT.IIN iin
  let s := (s.setFld F.PWR_INPUT.LOW (b2n low)).setFld F.PWR_INPUT.HIGH (b2n high)
  let s := { s with pwr := { s.pwr with
    lowSince := since t (decide (vin < 28000)) s.pwr.lowSince,
    highSince := since t (decide (42000 < vin)) s.pwr.highSince,
    goodSince := since t (decide (29000 ≤ vin ∧ vin ≤ 41000)) s.pwr.goodSince } }
  let s := if newly then s.ibi 6 else s
  let held (o : Option Nat) (n : Nat) : Bool := o.any fun u => decide (u + n ≤ t)
  let s := if s.powered then s.currentLimit iin200 else s
  let s := if held s.pwr.lowSince 5000 then s.powerFault 1 0 vin else s
  if held s.pwr.highSince 1000 then s.powerFault 2 0 vin else s

/-- RAIL_FAULT (R373, R370): KIND 3 for stage 1, 4 for a rail, 5 for an FX or PX junction at 125 degrees. -/
def execRailFault (rail : Option (BitVec 6)) (overheat : Bool) (s : State) : Host.Outcome State Fault Refusal :=
  done (
    let vin := s.fld F.PWR_INPUT.VIN_MV
    if overheat then s.powerFault 5 0 vin
    else match rail with
      | none => s.powerFault 3 0 vin
      | some r => s.powerFault 4 r.toNat vin)

end Sys2Proof.Machine
end

