-- ==== Sys2Proof/Machine/Measure.lean ====
section
/-! DEFINITION. The measurement registers (R364, R365). -/

namespace Sys2Proof.Machine

def State.mr (s : State) (n : Nat) : Mr := mapGet mrDefault n s.mrs

/-- R364: measurement register n extended with a 64-byte value. -/
def State.extendMr (s : State) (n : Nat) (v : List Byte) : State :=
  { s with mrs := mapSet mrDefault n ⟨sha3 ((s.mr n).value ++ v), ((s.mr n).count + 1) % 2 ^ 32⟩ s.mrs }

/-- A value of fewer bytes filled with zeros to 64. -/
def pad64 (v : List Byte) : List Byte := slice v 0 64

end Sys2Proof.Machine
end

