-- ==== Sys2Proof/Machine/Ports.lean ====
section
/-! DEFINITION. Remal Link ports: training (R216), the peer check (R212, R218), flits received (R219 to R221), commits of
the tag table (R236, R237) and the wiring (R211, R232). -/

namespace Sys2Proof.Machine

/-! ### Port states -/

/-- The parent port is no longer UP (R266): HOLDOVER, or FREE if the package was never locked. -/
def State.parentLost (s : State) (p : Nat) : State :=
  if wordGet s.sync.cfg 5 5 = 1 || wordGet s.sync.cfg 4 0 != p then s
  else
    let st := s.fld F.TIM_STATE.SYNC
    if st = 2 || (st = 1 && s.sync.locked) then
      let s := if st = 2 then s.count F.TIM_STATS.SYNC_LOSS else s
      { s with sync := { s.sync with holdAt := s.now, expired := false, good := 0 } }.setFld F.TIM_STATE.SYNC 3
    else if st = 1 then ({ s with sync := { s.sync with good := 0 } } : State).setFld F.TIM_STATE.SYNC 0
    else s

/-- A port's state of Table 09-22 changed; the time tree hears when its parent port is not UP. -/
def State.setPortState (s : State) (p st : Nat) : State :=
  let was := s.portState p
  let s := s.setFld F.LNK_PORT_STATE.STATE st p
  if was = 2 && st != 2 then s.parentLost p else s

/-- A port's buffers discarded (R216, R221): sequence numbers and credits begin again (DEDUCED, log entry 23). -/
def State.dropBuffers (s : State) (p : Nat) : State :=
  let q := s.port p
  s.setPort p { Port.empty with
    crNext := q.crNext, rrClass := q.rrClass, rrLeft := q.rrLeft, peer := q.peer, since := q.since, paramAt := q.paramAt }

/-- A port goes DOWN (R216, R221). -/
def State.portDown (s : State) (p : Nat) : State :=
  let s := (s.dropBuffers p).setPortState p 0
  s.setPort p { s.port p with since := s.now }

/-- R211: the endpoint and port that a port of this package is wired to; none for a global port. -/
def State.wiredPeer (s : State) (p : Nat) : Option (Nat × Nat) :=
  let own := s.self
  if p < 12 then
    let j := p / 4
    some (epGroup own * 64 + epNode own * 4 + (epPos own + j + 1) % 4, 4 * (2 - j) + p % 4)
  else if p < 27 then
    let k := p - 12
    some (epGroup own * 64 + (epNode own + k + 1) % 16 * 4 + epPos own, 12 + (14 - k))
  else none

/-- R212, R218: the peer check against the last PARAM payload received. -/
def State.peerOk (s : State) (p : Nat) (b : List Byte) : Bool :=
  let ep := fieldAt b 2 2
  let port := fieldAt b 4 1
  let caps := fieldAt b 5 1
  let form := fieldAt b 0 1 == 1 && fieldAt b 1 1 == (if s.isGen1 p then 1 else 2) && zeroAt b 6 2 && !bitOf caps 7
    && fieldAt b 8 2 == 272 && fieldAt b 10 2 == 64 && fieldAt b 12 2 == 7872 && fieldAt b 14 2 == 512 && zeroAt b 16 16
  form && bitOf caps 6 && (match s.wiredPeer p with
    | some w => w == (ep, port)
    | none => ep < 0x4000 && epGroup ep != epGroup s.self && (s.globalPorts (epGroup ep)).contains p)

/-- The peer check repeated on an UP or ISOLATED port (R212). -/
def State.recheck (s : State) (p : Nat) : State :=
  match (s.port p).peer with
  | none => s
  | some b =>
    if s.portState p != 2 && s.portState p != 4 then s
    else if s.peerOk p b then (s.setPortState p 2).pump p else s.setPortState p 4

/-- Held flits sent again from the oldest (R220, R221). -/
def State.resend (s : State) (p : Nat) : State :=
  let q := s.port p
  let s := s.setPort p { q with replay := q.replay.map fun e => (e.1, e.2.1, e.2.2.1, s.now) }
  q.replay.foldl (fun s e => s.sendFlit p e.1 1 e.2.1 e.2.2.1) s

/-- A resend sequence counted; the sixteenth in a row escalates (R221). -/
def State.resendSequence (s : State) (p : Nat) : State :=
  if (s.port p).replay.isEmpty then s
  else
    let s := (s.resend p).count F.LNK_PORT_STATS.REPLAYS p
    let q := s.port p
    let s := s.setPort p { q with resends := q.resends + 1 }
    if q.resends + 1 < 16 then s
    else
      let s := s.count F.LNK_PORT_STATS.RETRAINS p
      (s.setPort p { s.port p with resends := 0, full := false, trained := false }).setPortState p 3

/-- A port that has trained: UP, or still TRAINING while the package has no endpoint ID (R210). PARAM flits go out in every flit slot
until the peer's has come, and nothing else does (R218). -/
def State.portTrained (s : State) (p : Nat) : State :=
  let q := s.port p
  let s := s.setPort p { q with peerSeen := false, full := false, resends := 0, trained := s.self == 0xFFFF }
  let s := if s.self = 0xFFFF then s else s.setPortState p 2
  s.sendParam p

/-- Whether LNK_PORT_CFG.GEN allows a generation (R216). -/
def genAllowed (cfg : Nat) (gen1 : Bool) : Bool := cfg == 0 || cfg == (if gen1 then 1 else 2)

/-- PORT_TRAINING_DONE (R216, Table 09-6). Full training sets every credit counter to zero (R218). -/
def execPortTrainingDone (port : BitVec 5) (gen1 : Option Bool) (s : State) : Host.Outcome State Fault Refusal :=
  done (
    let p := port.toNat
    let st := s.portState p
    let q := s.port p
    if !(st == 1 && !q.trained || st == 3 && q.full) then s
    else match gen1 with
      | some g =>
        if !genAllowed (s.fld F.LNK_PORT_CFG.GEN p) g then s
        else
          let s := s.setFld F.LNK_PORT_STATE.GEN (b2n g) p
          let s := s.setPort p { q with taken := [], returned := [], freed := [] }
          s.portTrained p
      | none =>
        if s.self = 0xFFFF then s
        else if st = 3 then (s.portDown p).raise { ErrInfo.of .linkDown with core := 0 }
        else s.portDown p)

/-- PORT_TRAINING_RETRY (R216): a DOWN port tries again 100,000,000 ticks after it went DOWN. -/
def execPortTrainingRetry (port : BitVec 5) (s : State) : Host.Outcome State Fault Refusal :=
  done (
    let p := port.toNat
    if s.portState p = 0 && s.flag F.LNK_PORT_CFG.ENABLE p && (s.port p).since + 100000000 ≤ s.now then
      (s.setPort p { s.port p with trained := false }).setPortState p 1
    else s)

/-- FAST_RETRAIN_DONE (Table 09-6). -/
def execFastRetrainDone (port : BitVec 5) (ok : Bool) (s : State) : Host.Outcome State Fault Refusal :=
  done (
    let p := port.toNat
    if !(s.portState p == 3 && !(s.port p).full) then s
    else if ok then s.portTrained p
    else s.setPort p { s.port p with full := true })

/-- A port's full training begins (R216): buffers discarded. -/
def State.startTraining (s : State) (p : Nat) : State :=
  if s.flag F.LNK_PORT_CFG.ENABLE p then (s.dropBuffers p).setPortState p 1 else s

/-- A write of LNK_PORT_CFG: RETRAIN on every enabled port it names, ENABLE as the state follows it (DEDUCED, log entry 23). -/
def State.portCfgWritten (s : State) (p : Nat) (retrain : Bool) : State :=
  if !s.flag F.LNK_PORT_CFG.ENABLE p then (s.dropBuffers p).setPortState p 5
  else if retrain then s.startTraining p
  else if s.portState p = 5 then s.portDown p
  else s

/-! ### Flits received -/

/-- Slots of a received flit's payload. -/
def flitPayload (f : List Byte) (n : Nat) : List Byte := slice f 8 (16 * n)

/-- R219: a bad flit. -/
def State.badFlit (s : State) (p : Nat) (f : List Byte) (marked : Bool) : Bool :=
  let n := 8 + 16 * s.flitSlots p
  let h := fieldAt f 0 8
  marked || f.length != n + 8 || crc64 (slice f 0 n) != fieldAt f n 8 || 3 < bitsOf h 39 37 || 17 < bitsOf h 36 32

/-- One NAK until a flit is accepted again (R220); none while PARAM flits fill every slot (R218). -/
def State.nakOnce (s : State) (p : Nat) : State :=
  let q := s.port p
  if q.nakSent || !q.peerSeen then s else (s.setPort p { q with nakSent := true }).sendFlit p 0 2 0 []

/-- The ACK and the credit counter a good flit carries (R220, R223). -/
def State.takeHeader (s : State) (p : Nat) (h : Nat) : State :=
  let q := s.port p
  let ack := bitsOf h 51 40
  let q := match firstIdx (fun e => e.1 == ack) q.replay with
    | some i => { q with replay := q.replay.drop (i + 1), resends := 0 }
    | none => q
  let v := bitsOf h 36 32
  let c := bitsOf h 31 19
  let z : Nat → Nat := fun _ => 0
  let back := (c + 8192 - mapGet z v q.returned) % 8192
  s.setPort p { q with
    returned := mapSet z v c q.returned, taken := mapSet z v (mapGet z v q.taken - back) q.taken }

/-- A DATA flit in sequence is accepted; any other is discarded with a NAK (R220). -/
def State.takeData (s : State) (p : Nat) (f : List Byte) : State :=
  let h := fieldAt f 0 8
  let q := s.port p
  if bitsOf h 63 52 != (q.rxSeq + 1) % 4096 then s.nakOnce p
  else
    let n := Nat.min (bitsOf h 18 15) (s.flitSlots p)
    let r := parseAll 16 (q.partial_ ++ flitPayload f n)
    (s.setPort p { q with rxSeq := bitsOf h 63 52, nakSent := false, partial_ := r.2, rx := q.rx ++ r.1 }).moved (.rx p) (16 * n)

/-- After the first PARAM flit the port resumes from its oldest unacknowledged flit (R218, R221). -/
def State.resumePort (s : State) (p : Nat) (first : Bool) : State := if first then s.resend p else s

/-- A PARAM flit: what the peer is, and the peer check when that is new (R212, R218). -/
def State.takeParam (s : State) (p : Nat) (f : List Byte) : State :=
  let b := slice f 8 32
  let q := s.port p
  let clean := bitsOf (fieldAt f 0 8) 63 52 == 0 && bitsOf (fieldAt f 0 8) 18 15 == 2
    && zeroAt f 40 (16 * s.flitSlots p - 32)
  let fresh := !q.peerSeen || (q.peer.map fun o => slice o 2 4) != some (slice b 2 4) || !clean || !s.peerOk p b
  let s := s.setPort p { q with peerSeen := true, peer := some b }
  let s := s.setFld F.LNK_PORT_STATE.PEER_EP (fieldAt b 2 2) p
  let s := s.setFld F.LNK_PORT_STATE.PEER_PORT (fieldAt b 4 1) p
  let s := s.setFld F.LNK_PORT_STATE.PEER_CAPS (fieldAt b 5 1) p
  if !fresh then s.pump p
  else if s.portState p != 2 && s.portState p != 4 then s
  else if clean && s.peerOk p b then ((s.setPortState p 2).resumePort p (!q.peerSeen)).pump p
  else s.setPortState p 4

/-- A flit of one type that arrives at a port whose link has trained. -/
def State.onFlit (s : State) (ftype : Nat) (port : BitVec 5) (f : List Byte) (marked : Bool) : State :=
  let p := port.toNat
  let st := s.portState p
  if !(st == 2 || st == 4 || st == 1 && (s.port p).trained) then s
  else if s.badFlit p f marked then
    let s := s.count F.LNK_PORT_STATS.CRC_ERRS p
    if st = 2 then s.nakOnce p else s
  else
    let h := fieldAt f 0 8
    if bitsOf h 39 37 != ftype then s
    else if ftype = 3 then (s.takeHeader p h).takeParam p f
    else if st != 2 then s
    else
      let s := s.takeHeader p h
      let s := if ftype = 1 then s.takeData p f else if ftype = 2 && (s.port p).peerSeen then s.resendSequence p else s
      s.pump p

/-- DATA_FLIT (R220). -/
def execDataFlit (port : BitVec 5) (flit : List Byte) (marked : Bool) (s : State) := done (s.onFlit 1 port flit marked)
/-- NAK (R220). -/
def execNak (port : BitVec 5) (flit : List Byte) (marked : Bool) (s : State) := done (s.onFlit 2 port flit marked)
/-- IDLE_FLIT (R217). -/
def execIdleFlit (port : BitVec 5) (flit : List Byte) (marked : Bool) (s : State) := done (s.onFlit 0 port flit marked)
/-- PARAM (R218). -/
def execParam (port : BitVec 5) (flit : List Byte) (marked : Bool) (s : State) := done (s.onFlit 3 port flit marked)

/-- PARAM_PERIODIC_SEND (R218): every 1,048,576 ticks, and in every flit slot until the peer's PARAM flit has come. -/
def execParamPeriodicSend (port : BitVec 5) (s : State) : Host.Outcome State Fault Refusal :=
  done (
    let p := port.toNat
    let st := s.portState p
    let q := s.port p
    if (st == 2 || st == 4 || st == 1 && q.trained) && (!q.peerSeen || q.paramAt + 1048576 ≤ s.now) then s.sendParam p
    else s)

/-- REPLAY_TIMEOUT (R220): the oldest held flit has gone 4,096 ticks without an ACK. -/
def execReplayTimeout (port : BitVec 5) (s : State) : Host.Outcome State Fault Refusal :=
  done (
    let p := port.toNat
    match (s.port p).replay.head? with
    | none => s
    | some e => if s.isUp p && (s.port p).peerSeen && e.2.2.2 + 4096 ≤ s.now then s.resendSequence p else s)

/-! ### The wiring and the tag table -/

/-- The node table of R211 (TABLE 0) for the package's position. -/
def State.wireNode (s : State) : State :=
  (List.range 4).foldl (fun s q =>
    let pos := s.fld F.LNK_ID.POSITION
    if q = pos then s.setReg R.LNK_ROUTE_ENTRY q 0
    else s.setReg R.LNK_ROUTE_ENTRY q (BitVec.ofNat 64 (2 ^ 63 + 15 * 2 ^ (4 * ((q + 3 - pos) % 4))))) s

/-- The group table of R211 (TABLE 1) for the package's node, once LNK_ID names it: every entry that still holds what the device wrote at
cold reset, for node 0, follows; one that software wrote stays (DEDUCED, log entry 24). -/
def State.wireGroup (s : State) : State :=
  (List.range 16).foldl (fun s m =>
    let n := s.fld F.LNK_ID.NODE
    if s.reg R.LNK_ROUTE_ENTRY (256 + m) != groupWord 0 m then s
    else s.setReg R.LNK_ROUTE_ENTRY (256 + m) (groupWord n m)) s

/-- The staged OP, LOCAL, TAG and PORTS of an entry as a commit takes them (R310). -/
def State.stgTag (s : State) (i : Nat) : Nat × Bool × Nat × Nat :=
  let w := s.stgOld R.LNK_TAG_ENTRY i
  (wordGet w 19 18, wordGet w 17 17 == 1, wordGet w 15 0, wordGet (s.stgOld R.LNK_TAG_PORTS i) 31 0)

/-- Whether an entry would be ACTIVE, or DRAINING, after the commit, other than entry i (R236). -/
def State.tagAfter (s : State) (j : Nat) : Nat :=
  let (op, _, _, _) := s.stgTag j
  let st := s.fld F.LNK_TAG_ENTRY.STATE j
  if op = 1 then 1 else if op = 2 && st = 1 then 2 else st

/-- R236: the check of one entry; ST_OK when it passes. -/
def State.tagCheck (s : State) (i : Nat) : Half :=
  let (op, local_, tag, ports) := s.stgTag i
  let st := s.fld F.LNK_TAG_ENTRY.STATE i
  let others := (List.range 64).filter (· != i)
  let tagOf (j : Nat) : Nat := if (s.stgTag j).1 = 1 then (s.stgTag j).2.2.1 else s.fld F.LNK_TAG_ENTRY.TAG j
  let localOf (j : Nat) : Bool := if (s.stgTag j).1 = 1 then (s.stgTag j).2.1 else s.flag F.LNK_TAG_ENTRY.LOCAL j
  if op = 1 then
    if others.any fun j => s.tagAfter j == 2 && tagOf j == tag then ST.TAG_REVOKED
    else if st != 0 || tag = 0 || tag = 0xFFFF || (others.any fun j => s.tagAfter j == 1 && tagOf j == tag)
      || (local_ && others.any fun j => s.tagAfter j == 1 && localOf j) || (!local_ && ports == 0) then ST.PAIR_MISMATCH
    else ST.OK
  else if op = 2 then
    if st = 1 && s.fld F.LNK_TAG_ENTRY.TAG i = tag then ST.OK else ST.PAIR_MISMATCH
  else ST.OK

/-- R236: the first failing check of a commit. -/
def State.tagChecks (s : State) : Half :=
  match ((List.range 64).map s.tagCheck).find? (· != ST.OK) with
  | some e => e
  | none =>
    let w := s.stgOld R.LNK_ID
    let moved := wordGet w 13 6 != s.fld F.LNK_ID.GROUP || wordGet w 5 2 != s.fld F.LNK_ID.NODE
    let busy := (List.range 64).any fun i => s.flag F.LNK_TAG_ENTRY.LOCAL i && s.fld F.LNK_TAG_ENTRY.STATE i != 0
    if moved && busy then ST.PAIR_MISMATCH else ST.OK

/-- Staged values equal the active ones after a commit, OP reads 0; a write of the commit's own tick belongs to the next (R310). -/
def State.restage (s : State) (off i : Nat) : State :=
  if (assocGet (keyOf off i) s.heldStage).isSome then s else s.setStg off i (s.reg off i)

/-- One entry's staged operation applied (R236, R237); a LOCAL install extends MR6 (R364). -/
def applyTag (s : State) (i : Nat) : State :=
  let (op, local_, tag, ports) := s.stgTag i
  let s := if op = 0 then s else (s.hold R.LNK_TAG_ENTRY i).hold R.LNK_TAG_PORTS i
  let s :=
    if op = 1 then
      let s := s.setFld F.LNK_TAG_ENTRY.TAG tag i
      let s := s.setFld F.LNK_TAG_ENTRY.LOCAL (b2n local_) i
      let s := s.setFld F.LNK_TAG_ENTRY.STATE 1 i
      let s := s.setFld F.LNK_TAG_PORTS.PORTS ports i
      let s := s.setFld F.LNK_TAG_TIME.TICK s.now i
      if local_ then
        { s.extendMr 6 (pad64 (leBytes 2 tag ++ leBytes 2 s.self ++ leBytes 8 s.now)) with poisonMet := false, origins := [] }
      else s
    else if op = 2 then (s.setFld F.LNK_TAG_ENTRY.STATE 2 i).setFld F.LNK_TAG_TIME.TICK (s.now + 2 ^ 20) i
    else s
  (s.restage R.LNK_TAG_ENTRY i).restage R.LNK_TAG_PORTS i

/-- The endpoint ID takes the staged LNK_ID (R210); the first one completes the wiring tables (DEDUCED, log entry 24). -/
def State.assignId (s : State) : State :=
  let w := s.stgOld R.LNK_ID
  let first := s.self == 0xFFFF
  let s := ((s.hold R.LNK_ID 0).setFld F.LNK_ID.GROUP (wordGet w 13 6)).setFld F.LNK_ID.NODE (wordGet w 5 2)
  let id := s.fld F.LNK_ID.GROUP * 64 + s.fld F.LNK_ID.NODE * 4 + s.fld F.LNK_ID.POSITION
  let changed := id != s.self
  let s := s.setFld F.FAB_SELF.ENDPOINT id
  let s := if first then s.wireGroup else s
  if !changed then s
  else (List.range 32).foldl (fun s p =>
    let st := s.portState p
    let q := s.port p
    if st = 1 && q.trained then
      let s := ((s.setPort p { q with trained := false }).setPortState p 2).sendParam p
      if q.peerSeen then s.recheck p else s
    else if st = 2 || st = 4 then s.sendParam p
    else s) s

/-- R236: a commit. -/
def State.lnkCommit (s : State) : State :=
  let st := s.tagChecks
  if st != ST.OK then (s.setFld F.LNK_COMMIT.STATUS st.toNat).commitRefused
  else
    let s := s.assignId
    let s := (List.range 64).foldl applyTag s
    s.setFld F.LNK_COMMIT.STATUS ST.OK.toNat

/-- TAG_DRAIN_END (R237): the entry becomes FREE; with LOCAL, every region becomes LOCAL and the installation's poison
state ends (R305). -/
def execTagDrainEnd (entry : BitVec 6) (s : State) : Host.Outcome State Fault Refusal :=
  done (
    let i := entry.toNat
    if s.fld F.LNK_TAG_ENTRY.STATE i != 2 || s.now < s.fld F.LNK_TAG_TIME.TICK i then s
    else
      let s := (s.setFld F.LNK_TAG_ENTRY.STATE 0 i).setFld F.LNK_TAG_TIME.TICK 0 i
      let s := { s with forwarded := s.forwarded.filter (· != i) }
      if s.flag F.LNK_TAG_ENTRY.LOCAL i then
        let s := { s with regions := [] }.dropChanges fun _ => true
        let s := if s.localEntry.isNone then { s with poisonMet := false, origins := [] } else s
        if s.fld F.ERR_POISON.TAG = s.fld F.LNK_TAG_ENTRY.TAG i then
          s.setFld F.ERR_POISON.VALID 0
        else s
      else s)

/-- A routing entry replaced (R212, R232): ports whose bit in the global table changed are checked again. -/
def State.routeWritten (s : State) (table : Nat) (old new : Word64) : State :=
  if table != 2 then s
  else
    let bits (w : Word64) : Nat := if wordGet w 63 63 = 1 then wordGet w 57 53 else 0
    (List.range 5).foldl (fun s i => if bitOf (bits old) i != bitOf (bits new) i then s.recheck (27 + i) else s) s

end Sys2Proof.Machine
end

