-- ==== Sys2Proof/Machine/Time.lean ====
section
/-! DEFINITION. The counter and the time tree (R264 to R270). -/

namespace Sys2Proof.Machine

/-- ROOT, SRC and PARENT of the configuration in effect (Table 11-9). -/
def Sync.root (y : Sync) : Bool := wordGet y.cfg 5 5 == 1
def Sync.src (y : Sync) : Bool := wordGet y.cfg 6 6 == 1
def Sync.out (y : Sync) : Bool := wordGet y.cfg 7 7 == 1
def Sync.parent (y : Sync) : Nat := wordGet y.cfg 4 0

/-- The correction made over one interval: at most 200 ppm of 2^20 ticks, in 1/16 tick (R267). -/
def slewLimit (v : Int) : Int := max (-3355) (min 3355 v)

/-- One nanosecond of the clock (R264, R267): the ticks the counter advances, one, or none or two where the rate has gathered a whole
one, and what is left. -/
def Sync.step (y : Sync) (now : Nat) : Nat × Sync :=
  let p := y.phase + slewLimit (y.rate + if 0 < y.left then y.slew else 0)
  let y := { y with left := y.left - 1, was := now }
  if 2 ^ 24 ≤ p then (2, { y with phase := p - 2 ^ 24 })
  else if p ≤ -(2 ^ 24) then (0, { y with phase := p + 2 ^ 24 })
  else (1, { y with phase := p })

/-- TIM_STATE of a root (R268). -/
def State.rootState (s : State) : State := s.setReg R.TIM_STATE 0 0

/-- The synchronisation state of Table 11-2 changed; an exit from LOCKED is counted. -/
def State.setSync (s : State) (st : Nat) : State :=
  let was := s.fld F.TIM_STATE.SYNC
  let s := if was = 2 && st != 2 then s.count F.TIM_STATS.SYNC_LOSS else s
  let s := if st = 3 && was != 3 then { s with sync := { s.sync with holdAt := s.now, expired := false } } else s
  s.setFld F.TIM_STATE.SYNC st

/-- Table 11-2: whether launches are accepted now. -/
def State.launchable (s : State) : Bool :=
  let st := s.fld F.TIM_STATE.SYNC
  s.sync.root || st == 2 || (st == 3 && !s.sync.expired && decide (s.now ≤ s.sync.holdAt + 4194304))

/-- A written TIM_CFG takes effect (R266): a non-root is in ACQUIRE, or at a port not UP in HOLDOVER or FREE. -/
def State.takeCfg (s : State) : State :=
  if !s.sync.changed then s
  else
    let y := s.sync
    let s := { s with sync := { y with cfg := s.reg R.TIM_CFG, changed := false, good := 0, missed := 0, sent := none } }
    if s.sync.root then (s.setSync 0).rootState
    else
      let s := s.setSync 1
      if s.isUp s.sync.parent then s else s.parentLost s.sync.parent

/-- SYNC_EXCHANGE (R267): every 1,048,576 ticks a non-root sends SYNC_REQ to its parent; three intervals without an
answer leave LOCKED (Table 11-2). -/
def execSyncExchange (frac : BitVec 4) (s : State) : Host.Outcome State Fault Refusal :=
  done (
    if s.sync.last.any fun t => s.now < t + 1048576 then s
    else
      let s := { s with sync := { s.sync with last := some s.now } }
      let s := s.takeCfg
      let y := s.sync
      if y.root then s
      else
        let miss := if y.sent.isSome then y.missed + 1 else y.missed
        let s := { s with sync := { y with missed := miss, sent := none } }
        let s := if 3 ≤ miss && s.fld F.TIM_STATE.SYNC = 2 then s.setSync 3 else s
        let p := y.parent
        if !s.isUp p then s
        else
          let s := { s with sync := { s.sync with sent := some (s.now, frac.toNat) } }
          let data := leBytes 8 s.now ++ [BitVec.ofNat 8 frac.toNat] ++ List.replicate 7 0
          s.enqueue p (s.mkPacket 0 (s.fld F.LNK_PORT_STATE.PEER_EP p) PT.TIME 0 0 0 0 data))

/-- SYNC_REQ (R267): the parent answers on the arrival port with its times, depth and state (Table 11-1). -/
def execSyncReq (port : BitVec 5) (pkt : Packet) (frac : BitVec 4) (turnaround : Word32) (s : State) :
    Host.Outcome State Fault Refusal :=
  done (if pkt.sub != 0 then s else s.onPacket PT.TIME port.toNat pkt fun s =>
    let st := if s.sync.root then 0 else s.fld F.TIM_STATE.SYNC
    let data := slice pkt.data 0 8 ++ slice pkt.data 8 2 ++ List.replicate 6 0 ++ leBytes 8 s.now
      ++ [BitVec.ofNat 8 frac.toNat, 0, BitVec.ofNat 8 (s.fld F.TIM_STATE.DEPTH), BitVec.ofNat 8 st] ++ List.replicate 4 0
      ++ leBytes 4 turnaround.toNat ++ List.replicate 4 0
    s.enqueue port.toNat (s.mkPacket 0 pkt.src.toNat PT.TIME 0 0 1 0 data))

/-- Half of a sum, in 1/16 tick; the spec does not round an odd sum, so its last bit is a free value. -/
def State.halfFree (s : State) (twice : Int) : Int × State :=
  if twice % 2 = 0 then (twice / 2, s)
  else
    let (w, s) := s.free
    (twice / 2 + (wordGet w 0 0 : Nat), s)

/-- A signed value saturated to n bits, as the field holds it. -/
def satSigned (n : Nat) (v : Int) : Nat :=
  ofSigned n (max (-(2 ^ (n - 1) : Nat)) (min ((2 ^ (n - 1) : Nat) - 1) v))

/-- The state after an exchange (Table 11-2): twice the offset in 1/16 tick, and whether the parent counts as locked. -/
def State.syncStep (s : State) (twice : Int) (parentOk : Bool) : State :=
  let y := s.sync
  let good := if twice.natAbs ≤ 64 then Nat.min 4 (y.good + 1) else 0
  let s := { s with sync := { y with good := good } }
  let st := s.fld F.TIM_STATE.SYNC
  let lock (s : State) : State := { s.setSync 2 with sync := { s.sync with locked := true } }
  if st = 0 then s.setSync 1
  else if st = 2 then
    if 2048 < twice.natAbs then ({ s with sync := { s.sync with good := 0 } } : State).setSync 1
    else if !parentOk then s.setSync 3
    else s
  else if good = 4 && parentOk then lock s
  else s

/-- SYNC_RSP (R267, R268): offset and delay computed, the state of Table 11-2 moved. The first exchange of a package that was FREE sets
the counter, unless a launch is pending or running; every other one slews. The parent is a root when it reads FREE at depth 0
(DEDUCED, log entry 25). -/
def execSyncRsp (port : BitVec 5) (pkt : Packet) (frac : BitVec 4) (s : State) : Host.Outcome State Fault Refusal :=
  done (if pkt.sub != 1 then s else s.onPacket PT.TIME port.toNat pkt fun s =>
    let y := s.sync
    match y.sent with
    | none => s
    | some (t1, f1) =>
      let d := pkt.data
      if y.root || port.toNat != y.parent || fieldAt d 0 8 != t1 || fieldAt d 8 2 % 16 != f1 then s
      else
        let T1 : Int := 16 * t1 + f1
        let T2 : Int := 16 * fieldAt d 16 8 + fieldAt d 24 2 % 16
        let T3 : Int := T2 + fieldAt d 32 4
        let T4 : Int := 16 * s.now + frac.toNat
        let A : Int := toSigned 16 (s.fld F.TIM_ASYM.ASYM)
        let twice := (T2 - T1) - (T4 - T3) - A
        let (off, s) := s.halfFree twice
        let delay2 := (T2 - T1) + (T4 - T3)
        let depth := fieldAt d 26 1
        let pst := fieldAt d 27 1
        let ok := pst == 2 || (pst == 0 && depth == 0)
        let first := !y.set && s.pendingLaunch.isNone && !s.launchOn
        let s := { s with sync := { s.sync with
          sent := none, missed := 0, set := true, slew := if first then 0 else off, left := 1048576,
          rate := if first then y.rate else Config.driftEstimate y.rate off } }
        let s := s.setFld F.TIM_STATE.OFFSET (satSigned 16 off)
        let s := s.setFld F.TIM_STATE.DELAY (Nat.min 65535 (delay2 / 32).toNat)
        let s := s.setFld F.TIM_STATE.DEPTH (Nat.min 15 (depth + 1))
        let s := s.syncStep twice ok
        if first then
          let now := ((T4 + off) / 16).toNat % 2 ^ 64
          { s with now := now, sync := { s.sync with was := now, last := s.sync.last.map fun t => t + now - s.now } }
        else s)

/-- HOLDOVER_LIMIT (Table 11-2): 4,194,304 ticks after HOLDOVER began, launches are no longer accepted. -/
def execHoldoverLimit (s : State) : Host.Outcome State Fault Refusal :=
  done (if s.fld F.TIM_STATE.SYNC = 3 && s.sync.holdAt + 4194304 ≤ s.now then
    { s with sync := { s.sync with expired := true } } else s)

/-- SYNC_IN_EDGE (R270): a root that follows SYNC_IN slews toward the nearest multiple of 2^20. -/
def execSyncInEdge (frac : BitVec 4) (s : State) : Host.Outcome State Fault Refusal :=
  done (
    let y := s.sync
    if y.root && y.src then
      let t : Int := 16 * s.now + frac.toNat
      let m : Int := (t + 2 ^ 23) / 2 ^ 24 * 2 ^ 24
      { s with sync := { y with slew := m - t, left := 1048576 } }
    else s)

/-- SYNC_OUT_PULSE (R270): the counter crosses a multiple of 2^20 and drives SYNC_OUT, under the configuration in effect. -/
def execSyncOutPulse (s : State) : Host.Outcome State Fault Refusal :=
  done (if s.sync.out && s.sync.was / 2 ^ 20 != s.now / 2 ^ 20 then s.emit (.syncOut s.now) else s)

/-- A write of TIM_CFG waits for the next exchange (R266). -/
def State.timCfgWritten (s : State) : State := { s with sync := { s.sync with changed := true } }

/-- HOLD of TIM_STATE (Table 11-11): ticks in HOLDOVER in units of 1,024. -/
def State.holdTime (s : State) : Nat :=
  if s.fld F.TIM_STATE.SYNC = 3 then Nat.min (2 ^ 24 - 1) ((s.now - s.sync.holdAt) / 1024) else 0

end Sys2Proof.Machine
end

