-- ==== Sys2Proof/Machine/Launch.lean ====
section
/-! DEFINITION. Finish lines (R257 to R259, R413) and launches (R271 to R277, R73, R85, R241). -/

namespace Sys2Proof.Machine

/-! ### The finish line -/

/-- Two ARRIVEs combined (R251). -/
def Arrive.join (a b : Arrive) : Arrive :=
  let later := if a.lastTick < b.lastTick then b
    else if b.lastTick < a.lastTick then a
    else if a.lastEp ≤ b.lastEp then a else b
  { status := if a.status = ST.COLL_MISMATCH || b.status = ST.COLL_MISMATCH || a.lap != b.lap then ST.COLL_MISMATCH
      else ST.OK,
    lap := Nat.min a.lap b.lap, lastTick := later.lastTick, lastEp := later.lastEp,
    firstTick := Nat.min a.firstTick b.firstTick, count := a.count + b.count }

/-- What a leader holds after one more ARRIVE. -/
def Arrive.joinTo (a : Arrive) : Option Arrive → Arrive
  | none => a
  | some b => b.join a

/-- Members of the node, of the group, of an endpoint; leaders (R413). -/
def Comm.nodeOf (c : Comm) (e : Nat) : List Nat := c.members.filter fun m => m / 4 == e / 4
def Comm.groupOf (c : Comm) (e : Nat) : List Nat := c.members.filter fun m => m / 64 == e / 64
def lowest (ms : List Nat) : Nat := (minOf ms).getD 0
def Comm.nodeLeader (c : Comm) (e : Nat) : Nat := lowest (c.nodeOf e)
def Comm.groupLeader (c : Comm) (e : Nat) : Nat := lowest (c.groupOf e)
def Comm.root (c : Comm) : Nat := lowest c.members

/-- The payloads of Table 10-22. -/
def Arrive.bytes (comm : Nat) (a : Arrive) : List Byte :=
  leBytes 2 comm ++ leBytes 2 a.status.toNat ++ leBytes 8 a.lap ++ leBytes 8 a.lastTick ++ leBytes 2 a.lastEp ++ [0, 0]
    ++ leBytes 8 a.firstTick ++ leBytes 4 a.count
def Arrive.ofBytes (b : List Byte) : Arrive :=
  ⟨BitVec.ofNat 16 (fieldAt b 2 2), fieldAt b 4 8, fieldAt b 12 8, fieldAt b 20 2, fieldAt b 24 8, fieldAt b 32 4⟩

/-- A communicator by its index. -/
def State.setComm (s : State) (i : Nat) (c : Comm) : State := { s with comms := assocSet i c s.comms }

/-- The waiting contexts of a communicator leave (R257). -/
def finishWake (comm : Nat) (st : Half) (c : Ctx) : Ctx :=
  match c.wait with
  | .finish rd n _ _ fence => if n = comm then (c.setStatus rd (if fence != ST.OK then fence else st)).wake else c
  | _ => c

/-- The release at this member (R257, R259). -/
def State.releaseHere (s : State) (i : Nat) (c : Comm) (a : Arrive) : State :=
  let last := if a.status = ST.OK then some a.lap else c.lapDone
  let s := s.setComm i { c with lap := none, arrived := 0, atNode := none, atGroup := none, atRoot := none, lapDone := last }
  let s := if a.status != ST.OK then s
    else
      let own := Nat.min (2 ^ 24 - 1) (c.ownTick - a.firstTick)
      let s := (s.setFld F.COL_LAG.LAG_LAST own i).countMax F.COL_LAG.LAG_MAX i own
      let s := if a.lastEp = s.self then s.count F.COL_LAG.LAGGED i else s
      let s := s.setFld F.COL_LAGGARD.ENDPOINT a.lastEp i
      let s := s.setFld F.COL_LAGGARD.LAG (Nat.min (2 ^ 32 - 1) (a.lastTick - a.firstTick)) i
      s.setFld F.COL_LAGGARD.LAP (a.lap % 2 ^ 16) i
  { s with harts := s.harts.map fun e => (e.1, finishWake c.comm a.status e.2) }

/-- RELEASE sent to each endpoint of a list but this package. -/
def State.sendRelease (s : State) (c : Comm) (a : Arrive) (eps : List Nat) : State :=
  (eps.filter (· != s.self)).foldl (fun s e => s.sendCtl e 6 (Arrive.bytes c.comm { a with count := 0 })) s

/-- The release travels down (R413): the root to the group leaders, they to the node leaders, they to the members. -/
def State.releaseDown (s : State) (i : Nat) (c : Comm) (a : Arrive) : State :=
  let own := s.self
  let leaders := c.members.filter fun m => c.groupLeader m == m
  let s := if c.root = own then s.sendRelease c a leaders else s
  let s := if c.groupLeader own = own then s.sendRelease c a ((c.groupOf own).filter fun m => c.nodeLeader m == m) else s
  let s := if c.nodeLeader own = own then s.sendRelease c a (c.nodeOf own) else s
  s.releaseHere i c a

/-- An ARRIVE at the root. -/
def State.joinRoot (s : State) (i : Nat) (c : Comm) (a : Arrive) : State :=
  let r := a.joinTo c.atRoot
  let c := { c with atRoot := some r }
  let s := s.setComm i c
  if r.count = c.members.length then s.releaseDown i c r else s

/-- An ARRIVE at a group leader: once its whole group has arrived it goes to the root. -/
def State.joinGroup (s : State) (i : Nat) (c : Comm) (a : Arrive) : State :=
  let r := a.joinTo c.atGroup
  let c := { c with atGroup := some r }
  let s := s.setComm i c
  if r.count = (c.groupOf s.self).length then
    if c.root = s.self then s.joinRoot i c r else s.sendCtl c.root 5 (Arrive.bytes c.comm r)
  else s

/-- An ARRIVE at a node leader: once its whole node has arrived it goes to the group leader. -/
def State.joinNode (s : State) (i : Nat) (c : Comm) (a : Arrive) : State :=
  let r := a.joinTo c.atNode
  let c := { c with atNode := some r }
  let s := s.setComm i c
  if r.count = (c.nodeOf s.self).length then
    if c.groupLeader s.self = s.self then s.joinGroup i c r else s.sendCtl (c.groupLeader s.self) 5 (Arrive.bytes c.comm r)
  else s

/-- One arrival of this package for a communicator at a lap (R257): the status it gets at once, or none while it waits
for the release. -/
def State.finishArrive (s : State) (i : Nat) (c : Comm) (lap : Nat) : Option Half × State :=
  if c.lapDone = some lap then (some ST.OK, s)
  else if c.lapDone.any fun d => lap < d then (some ST.RANGE, s)
  else if c.lap.any (· != lap) then (some ST.COLL_MISMATCH, s)
  else
    let c := { c with lap := some lap, arrived := c.arrived + 1 }
    if c.arrived != c.arrivals then (none, s.setComm i { c with arrived := Nat.min c.arrived c.arrivals })
    else
      let c := { c with ownTick := s.now }
      let a : Arrive := ⟨ST.OK, lap, s.now, s.self, s.now, 1⟩
      let s := s.setComm i c
      if c.nodeLeader s.self = s.self then (none, s.joinNode i c a)
      else (none, s.sendCtl (c.nodeLeader s.self) 5 (Arrive.bytes c.comm a))

/-- ARRIVE (R413): its source says at which level it counts. -/
def execArrive (port : BitVec 5) (pkt : Packet) (s : State) :=
  done (s.onColCtl 5 port pkt fun s =>
    match s.commOf (fieldAt pkt.data 0 2) with
    | none => s
    | some (i, c) =>
      let a := Arrive.ofBytes pkt.data
      let e := pkt.src.toNat
      if e / 4 = s.self / 4 then s.joinNode i c a
      else if e / 64 = s.self / 64 then s.joinGroup i c a
      else s.joinRoot i c a)

/-- RELEASE (R413, R257). -/
def execRelease (port : BitVec 5) (pkt : Packet) (s : State) :=
  done (s.onColCtl 6 port pkt fun s =>
    match s.commOf (fieldAt pkt.data 0 2) with
    | none => s
    | some (i, c) => s.releaseDown i c (Arrive.ofBytes pkt.data))

/-! ### The start count -/

/-- Fields of the run image's header (Table 14-10). -/
def Image.c (m : Image) : Nat := fieldAt m.hdr 12 1
def Image.ncomm (m : Image) : Nat := fieldAt m.hdr 13 1
def Image.entry (m : Image) : Nat := fieldAt m.hdr 32 8
def Image.collEntry (m : Image) : Nat := fieldAt m.hdr 40 8
def Image.stackBytes (m : Image) : Nat := fieldAt m.hdr 48 4
def Image.coreData (m : Image) : Nat := fieldAt m.hdr 52 4
def Image.cores (m : Image) : List Nat := (List.range 256).filter fun g => bitOf (fieldAt m.hdr 56 32) g
def Image.pxCores (m : Image) : List Nat := (List.range 48).filter fun p => bitOf (fieldAt m.hdr 112 8) p
def Image.pxEntry (m : Image) : Nat := fieldAt m.hdr 120 8
def Image.pxStack (m : Image) : Nat := fieldAt m.hdr 128 8
def Image.pxStackBytes (m : Image) : Nat := fieldAt m.hdr 136 4
def Image.lanes (m : Image) : Nat := fieldAt m.hdr 18 2

/-- The stack pointer of stack slot k of a core (R350). -/
def Image.sp (m : Image) (core k : Nat) : Nat := localAddr (lsramBase core + m.coreData + (k + 1) * m.stackBytes)

/-- A context starts thread n of the running launch (R73, R74). -/
def State.startThread (s : State) (m : Image) (k n arg : Nat) : State :=
  s.onCtx k fun c => c.take (Ctx.thread0 m.entry n arg (m.sp (coreOf k) (ctxOf k)) n)

/-- R73: the slots of the declared cores in order. -/
def Image.slots (m : Image) : List Nat := m.cores.flatMap fun g => (List.range m.c).map fun c => g * 128 + c

/-- A ring header and its FREED words set to zero (R261). -/
def zeroRing (s : State) (c : Comm) : State :=
  let s := s.put c.ring (List.replicate 64 0)
  (List.range c.slots).foldl (fun s j => s.put (c.ring + 64 + 128 * j + 64) (List.replicate 8 0)) s

/-- The work of the previous launch ends (R88, R120, R159, R261). -/
def State.endLaunchWork (s : State) : State :=
  let s := (s.engines.map (·.1)).foldl (fun s e =>
    s.setEngine e { Engine.empty with nextId := (s.engine e).nextId, fenced := (s.engine e).fenced }) s
  let s := (s.dsus.map (·.1)).foldl (fun s u =>
    let d := s.dsu u
    (s.setDsu u { d with queue := [], running := [] }).count F.DSU_STATS.DISCARDED u (d.queue.length + d.running.length)) s
  let s := (s.puus.map (·.1)).foldl (fun s u =>
    let d := s.puu u
    (s.setPuu u { d with queue := [], run := none, ring := [], head := 0 }).count F.PUU_STATS.DISCARDED u
      (d.queue.length + b2n d.run.isSome)) s
  let s := s.endCollectiveContexts.clearCollectives
  (s.comms.map (·.2)).foldl zeroRing s

/-- Threads of the previous launch that are not yet EMPTY are ended and counted (R274); one already ABORTED has its record. -/
def endThread (s : State) (k : Nat) : State :=
  let c := s.ctx k
  let s := if c.st = .aborted then s
    else (s.record { ErrInfo.of .overrun with hart := some k, status := ST.ABORTED } false).abortCtx k
  (s.count F.TIM_STATS.OVERRUN).onCtx k Ctx.left

/-- R274: the pending launch starts. -/
def State.startCount (s : State) (l : Launch) : State :=
  let r := l.bytes
  let s := { s with pendingLaunch := none }
  let s := s.endLaunchWork
  let s := s.busyHarts.foldl endThread s
  let s := (s.setReg R.CMP_NUM_SUMMARY 0 0).setReg R.CMP_NUM_FIRST 0 0
  let s := { s with running := some { l with next := 0 } }
  let s := match s.image with
    | none => s
    | some m =>
      let s := if m.ncomm = 0 then s
        else
          m.cores.foldl (fun s g => (List.range 4).foldl (fun (s : State) j =>
            s.onCtx (g * 128 + 124 + j) fun c => c.take
              (Ctx.thread0 m.collEntry j m.table (m.sp g (m.c + j)) 0)) s) s
      let slots := m.slots.take (recThreads r)
      let s := slots.zipIdx.foldl (fun (s : State) (e : Nat × Nat) => s.startThread m e.1 (recT0 r + e.2) (recArg r)) s
      let s := m.pxCores.foldl (fun (s : State) p =>
        s.onCtx (32768 + p) fun c => c.take (Ctx.thread0 m.pxEntry p (recArg r) (m.pxStack + (p + 1) * m.pxStackBytes) p)) s
      { s with running := some { l with next := slots.length } }
  let s := s.count F.TIM_STATS.ACCEPTED
  (s.launchDecided ST.OK 0 s.self).notify r ST.OK

/-- The pending launch starts once the counter reads START (R274). -/
def State.startDue (s : State) : State :=
  match s.pendingLaunch with
  | some l => if recStart l.bytes ≤ s.now then s.startCount l else s
  | none => s

/-- START_COUNT (R274). -/
def execStartCount (s : State) : Host.Outcome State Fault Refusal := done s.startDue

/-! ### Records -/

/-- Check 1 of Table 11-4: every field in range (Table 11-3). -/
def State.recordOk (s : State) (r : List Byte) (arrival : Nat) : Bool :=
  fieldAt r 0 2 == 1 && recTag r != 0 && recTag r != 0xFFFF && recFlags r < 32 && recPasses r != 0 && zeroAt r 5 3
    && recLap r != 0 && decide (recT0 r + recThreads r ≤ 2 ^ 32) && (recNotify r == 0 || s.notifyOk r) && zeroAt r 48 16
    && decide (recStart r ≤ arrival + 2 ^ 40)

/-- A bound digest (Table 11-19): the eight words from j on. -/
def State.boundDigest (s : State) (j : Nat) : List Byte :=
  (List.range 8).flatMap fun i => leBytes 8 (s.reg (R.DIG_BOUND + 8 * (j + i))).toNat

/-- R238: the tag checks. -/
def State.tagReady (s : State) (r : List Byte) : Option Nat :=
  match s.localEntry with
  | none => some 2
  | some i =>
    if s.fld F.LNK_TAG_ENTRY.TAG i != recTag r || recStart r ≤ s.fld F.LNK_TAG_TIME.TICK i then some 2
    else
      let blocks (j : Nat) : Bool := s.fld F.LNK_TAG_ENTRY.STATE j == 2
        && (s.flag F.LNK_TAG_ENTRY.LOCAL j || (s.fld F.LNK_TAG_PORTS.PORTS j).land (s.fld F.LNK_TAG_PORTS.PORTS i) != 0)
        && decide (recStart r ≤ s.fld F.LNK_TAG_TIME.TICK j)
      if (List.range 64).any blocks then some 3 else none

/-- The recorded key's refusing endpoint. -/
def State.keyOrigin (s : State) (tag start : Nat) : Nat :=
  ((s.keys.find? fun k => k.tag == tag && k.start == start && s.now ≤ k.keep).map (·.origin)).getD s.self

/-- R272: the reason of the first failing check of Table 11-4. -/
def State.launchReason (s : State) (r : List Byte) (arrival : Nat) : Option Nat :=
  let same (l : Launch) : Bool := recTag l.bytes == recTag r && recStart l.bytes == recStart r
  if !s.recordOk r arrival then some 7
  else if s.image.isNone || s.unloadDue || !s.bootReady then some 11
  else if !s.launchable then some 10
  else if recStart r < arrival + s.fld F.TIM_LEAD.LEAD then some 1
  else if s.keyKnown (recTag r) (recStart r) then some 13
  else if s.pendingLaunch.any same then some 9
  else if s.pendingLaunch.isSome then some 8
  else match s.tagReady r with
    | some e => some e
    | none =>
      if s.image.any fun m => m.prog != slice r 64 64 then some 4
      else if bitOf (recFlags r) 3 && s.boundDigest 0 != slice r 128 64 then some 5
      else if bitOf (recFlags r) 4 && s.boundDigest 8 != slice r 192 64 then some 6
      else none

/-- A record that a check refuses (R272, R275, R277). -/
def State.refuseRecord (s : State) (r : List Byte) (reason : Nat) : State :=
  let tag := recTag r
  let start := recStart r
  let origin := if reason = 13 then s.keyOrigin tag start else s.self
  let s := if s.pendingLaunch.any fun l => recTag l.bytes == tag && recStart l.bytes == start
    then s.dropPending reason origin else s
  let st := if reason = 7 then ST.RANGE else ST.FALSE_START
  let s := (s.notify r st).count F.TIM_STATS.FALSE_STARTS
  (s.launchDecided st reason origin).refuseKey tag start reason

/-- A record that arrived (R272, R273). -/
def State.launchArrive (s : State) (r : List Byte) (arrival : Nat) : State :=
  let s := s.startDue
  if s.pendingLaunch.any fun l => l.bytes == r then s.count F.TIM_STATS.DUPLICATES
  else match s.launchReason r arrival with
    | some reason => s.refuseRecord r reason
    | none =>
      let s := { s with pendingLaunch := some ⟨r, 0⟩ }
      match s.image with
      | none => s
      | some m => (setUnion (m.cores.map clusterOf) []).foldl State.wakeCluster s

/-- The record at a posted address is read (R271): from memory in reset, once the reset ends. -/
def State.launchRead (s : State) (src : Source) (value : Word64) (arrival : Nat) : State :=
  let a := offOf value.toNat
  if s.memWaits a 64 then s.holdOp resetHold (.launch src value arrival)
  else match s.poisonIn a 256 with
    | some p => (s.refuse src 3 R.TIM_LAUNCH_POST value).uncorrectable p none 0 none 0
    | none =>
      let (r, s) := s.read a 256
      s.launchArrive r arrival

/-- A write of TIM_LAUNCH_POST (R271, Table 11-13). -/
def State.launchPosted (s : State) (src : Source) (value : Word64) : State :=
  let a := offOf value.toNat
  if s.isSelf value.toNat && a % 64 == 0 && s.extentIn isStackCsram a 256 then s.launchRead src value s.now
  else s.refuse src 3 R.TIM_LAUNCH_POST value

/-- R276: the pending launch is cancelled. -/
def State.launchCancelled (s : State) : State :=
  let s := s.startDue
  match s.pendingLaunch with
  | none => s
  | some l => (s.dropPending 12 s.self).refuseKey (recTag l.bytes) (recStart l.bytes) 12

/-- REFUSE (R275, R276). -/
def execRefuse (port : BitVec 5) (pkt : Packet) (s : State) : Host.Outcome State Fault Refusal :=
  done (s.onPacket PT.LAUNCH port.toNat pkt fun s =>
    let s := s.startDue
    let start := fieldAt pkt.data 0 8
    let tag := fieldAt pkt.data 8 2
    let origin := fieldAt pkt.data 12 2
    let key (l : Launch) : Bool := recTag l.bytes == tag && recStart l.bytes == start
    if pkt.sub != 0 || s.keyKnown tag start then s
    else
      let s := (s.recordKey tag start origin).flood { pkt with src := BitVec.ofNat 16 s.self, hops := 0 } (some port.toNat)
        fun _ => true
      if s.pendingLaunch.any key then s.dropPending 13 origin
      else if s.launchOn && s.running.any key && !s.poisonMet then
        s.raise { ErrInfo.of .launchRefused with status := ST.FALSE_START }
      else s)

/-- REFUSE_KEY_RETENTION_END (R275): the counter has passed the end of a key's retention. -/
def execRefuseKeyRetentionEnd (tag : Half) (start : Word64) (s : State) : Host.Outcome State Fault Refusal :=
  done { s with keys := s.keys.filter fun k => !(k.tag == tag.toNat && k.start == start.toNat && decide (k.keep < s.now)) }

end Sys2Proof.Machine
end

