-- ==== Sys2Proof/Machine/Dsu.lean ====
section
/-! DEFINITION. Solver units (R115 to R139): the checks at issue, the start of a heat, one problem on its lane, the end of
a heat, a lane fault. -/

namespace Sys2Proof.Machine

/-! ### Descriptors (Table 05-1) -/

def Heat.u (h : Heat) (o n : Nat) : Nat := fieldAt h.desc o n
def Heat.op (h : Heat) : Nat := h.u 0 1
def Heat.count (h : Heat) : Nat := h.u 1 1
def Heat.warmIn (h : Heat) : Bool := bitOf (h.u 2 1) 0
def Heat.warmOut (h : Heat) : Bool := bitOf (h.u 2 1) 1
def Heat.done (h : Heat) : Bool := bitOf (h.u 2 1) 2
def Heat.probStride (h : Heat) : Nat := h.u 4 4
def Heat.outStride (h : Heat) : Nat := h.u 24 4
def Heat.warmStride (h : Heat) : Nat := h.u 28 4
def Heat.workStride (h : Heat) : Nat := h.u 48 4
/-- Offsets of problem i's descriptor, output record, warm record and workspace. -/
def Heat.probAt (h : Heat) (i : Nat) : Nat := offOf (h.u 8 8) + i * h.probStride
def Heat.outAt (h : Heat) (i : Nat) : Nat := offOf (h.u 16 8) + i * h.outStride
def Heat.warmAt (h : Heat) (i : Nat) : Nat := offOf (h.u 32 8) + i * h.warmStride
def Heat.workAt (h : Heat) (i : Nat) : Nat := offOf (h.u 40 8) + i * h.workStride
def Heat.batonAt (h : Heat) : Nat := offOf (h.u 56 8)

/-- The lane limit (R117). -/
def State.laneLimit (s : State) : Nat := (s.image.map Image.lanes).getD 0

/-- Lanes of a unit that run a problem. -/
def Dsu.busyLanes (d : Dsu) : List Nat := d.running.flatMap fun r => r.todo.map (·.1)

/-- R116: the status of a heat that cluster c issues, in the order of its list. Of an extent with stride zero only the base's alignment
is checked: empty, it lies nowhere (DESIGN CHOICE, log entry 60). -/
def State.heatCheck (s : State) (c : Nat) (h : Heat) : Half :=
  let n := h.count
  let warm := h.warmIn || h.warmOut
  -- extents: base, bytes
  let exts : List (Nat × Nat) :=
    [(h.u 8 8, n * h.probStride), (h.u 16 8, n * h.outStride), (h.u 32 8, n * h.warmStride), (h.u 40 8, n * h.workStride)]
    ++ (if h.done then [(h.u 56 8, 8)] else [])
  let inside (e : Nat × Nat) : Bool :=
    let a := offOf e.1
    e.2 == 0 || (s.isSelf e.1 && (decide (csramBase c ≤ a ∧ a + e.2 ≤ csramBase c + 0x2000000)
      || decide (stackBase (c / 2) ≤ a ∧ a + e.2 ≤ stackBase (c / 2) + 0x1800000000)))
  let apart (x y : Nat × Nat) : Bool :=
    x.2 == 0 || y.2 == 0 || offOf x.1 + x.2 ≤ offOf y.1 || offOf y.1 + y.2 ≤ offOf x.1
  let rec distinct : List (Nat × Nat) → Bool
    | [] => true
    | e :: es => es.all (apart e) && distinct es
  let fields := decide (h.op ≤ 4 ∧ 1 ≤ n ∧ n ≤ 64 ∧ h.u 2 1 < 8) && zeroAt h.desc 3 1 && zeroAt h.desc 52 4
    && (h.op == 4 || !warm) && (warm || (h.warmStride == 0 && h.u 32 8 == 0)) && (h.done || h.u 56 8 == 0)
  let ranged := exts.all inside && distinct exts && n ≤ s.laneLimit
  let aligned := [h.probStride, h.outStride, h.warmStride, h.workStride, h.u 8 8, h.u 16 8, h.u 32 8, h.u 40 8].all (· % 64 == 0)
    && h.u 56 8 % 8 == 0
  if !fields then ST.RANGE else if !aligned then ST.ALIGN else if !ranged then ST.RANGE else ST.OK

/-! ### Starting -/

/-- The context that waits for a heat goes on with its status (R119). -/
def State.dsuWake (s : State) (k id : Nat) (st : Half) : State :=
  match (s.ctx k).wait with
  | .dsu rd _ i _ => if i = id then s.onCtx k fun c => (c.setStatus rd st).wake else s
  | _ => s

/-- HEAT_START (R117, R139): the head of the queue takes the lowest free lanes and latches the thresholds. -/
def execHeatStart (unit : BitVec 5) (s : State) : Host.Outcome State Fault Refusal :=
  done (
    let u := unit.toNat
    let d := s.dsu u
    match d.queue with
    | [] => s
    | h :: rest =>
      if !s.clockOn u then s
      else if s.dsuFenced u then (s.setDsu u { d with queue := rest }).dsuWake h.hart h.id ST.ABORTED
      else
        let busy := d.busyLanes
        let free := (List.range 64).filter fun l => !busy.contains l
        if free.length < h.count || s.laneLimit < busy.length + h.count then s
        else
          let run : HeatRun := ⟨h, s.fldOld F.DSU_PIVOT_TAU.TAU64, s.fldOld F.DSU_PIVOT_TAU.TAU32,
            (free.take h.count).zipIdx, s.now⟩
          s.setDsu u { d with queue := rest, running := d.running ++ [run] })

/-! ### One problem -/

/-- The extents a lane writes for problem i. -/
def Heat.writes (h : Heat) (p : Prob) (i : Nat) : List (Nat × Nat) :=
  [(h.outAt i, if h.outStride = 0 then 0 else Nat.min h.outStride p.outLen)]
    ++ (if p.op = 4 && p.nr != 0 then [(h.workAt i, Nat.min h.workStride p.workBytes)] else [])
    ++ (if h.warmOut then [(h.warmAt i, Nat.min h.warmStride p.warmLen)] else [])

/-- A heat leaves the unit. -/
def State.dropHeat (s : State) (u id : Nat) : State :=
  s.setDsu u { s.dsu u with running := (s.dsu u).running.filter fun r => r.heat.id != id }

/-- A heat ends with ST_ABORTED (R300, R301). -/
def State.heatAborts (s : State) (u : Nat) (h : Heat) : State := (s.dropHeat u h.id).dsuWake h.hart h.id ST.ABORTED

/-- The warm record's impulses, if it is used (R135). -/
def State.warmRecord (s : State) (a sig nr : Nat) : Option Vec :=
  let v := (List.range nr).map fun r => s.peekNat (a + 16 + 8 * r) 8
  if s.peekNat a 8 = sig && v.all Prob.finite then some v else none

/-- The words of a status record (Table 05-12). -/
def statusWords (p : Prob) (r : Solved) (sig : Nat) (warm : Option Bool) (cycles : Nat) : List Byte :=
  let nf := r.nonFinite
  let n := Nat.min 255 r.pivs.length
  let w0 := p.op * 2 ^ 45 + b2n nf.isSome * 2 ^ 44 + b2n (n != 0) * 2 ^ 43 + b2n (warm == some false) * 2 ^ 42
    + b2n (warm == some true) * 2 ^ 41 + b2n (r.inert != 0) * 2 ^ 40 + b2n r.conv * 2 ^ 39 + p.prec * 2 ^ 38
    + (nf.getD (0, 0)).1 * 2 ^ 34 + (nf.getD (0, 0)).2 * 2 ^ 16 + (r.pivs.head?.getD 0) * 2 ^ 8 + n
  leBytes 8 w0 ++ leBytes 8 sig ++ leBytes 8 (Nat.min (2 ^ 32 - 1) cycles * 2 ^ 32 + r.sweeps * 2 ^ 21 + r.inert * 2 ^ 12)
    ++ leBytes 8 r.resid

/-- Free words for n bytes: what a problem leaves in its workspace (R130). -/
def State.freeBytes (s : State) (n : Nat) : List Byte × State :=
  let k := (n + 7) / 8
  (((List.range k).flatMap fun i => leBytes 8 (Config.freeWord (s.fresh + i)).toNat).take n, { s with fresh := s.fresh + k })

/-- A problem refused under R123. -/
def State.problemRefused (s : State) (u : Nat) (h : Heat) (p : Prob) (i stall : Nat) : State :=
  let rec_ := leBytes 8 (ST.RANGE.toNat * 2 ^ 48) ++ leBytes 8 0
    ++ leBytes 8 (Nat.min (2 ^ 32 - 1) (p.readCycles + stall) * 2 ^ 32) ++ leBytes 8 0
  let s := if h.outStride = 0 then s else s.homeWrite (h.outAt i) rec_
  s.count F.DSU_STATS.REFUSED u

/-- A problem run whole (R118, R125). -/
def State.problemRun (s : State) (u : Nat) (h : Heat) (p : Prob) (i stall : Nat) : State :=
  let sig := p.signature
  let rec_ := if h.warmIn then s.warmRecord (h.warmAt i) sig p.nr else none
  let warm : Option Bool := if h.warmIn then some rec_.isSome else none
  let s := if h.warmIn then s.countLines (h.warmAt i) p.warmLen false else s
  let r := p.solve rec_
  let s := if p.op = 4 && p.nr != 0 then
      let (bs, s) := s.freeBytes p.workBytes
      s.homeWrite (h.workAt i) bs
    else s
  let out := p.written r
  let data := statusWords p r sig warm (p.cycles r + stall) ++ out.flatMap fun a => a.2.flatMap (leBytes 8)
  let s := s.homeWrite (h.outAt i) data
  let s := if h.warmOut then
      let lam := (out.getLast?.map (·.2)).getD []
      s.homeWrite (h.warmAt i) (leBytes 8 sig ++ leBytes 2 p.nr ++ List.replicate 6 0 ++ lam.flatMap (leBytes 8))
    else s
  let s := if r.nonFinite.isSome then s.count F.DSU_STATS.NONFINITE u else s
  let s := if r.pivs.isEmpty then s else s.count F.DSU_STATS.PIVOTED u
  if warm = some false then s.count F.DSU_STATS.WARM_REJECTED u else s

/-- The lane's problem done: the lane is free. -/
def State.laneDone (s : State) (u id lane : Nat) : State :=
  s.setDsu u { s.dsu u with running := (s.dsu u).running.map fun r =>
    if r.heat.id = id then { r with todo := r.todo.filter fun e => e.1 != lane } else r }

/-- The lane runs its problem from its descriptor to its outputs, for a heat of operation op (R118, R123). -/
def State.laneRun (s : State) (op u lane stall : Nat) : State :=
  let d := s.dsu u
  match d.running.find? fun r => r.heat.op == op && r.todo.any fun e => e.1 == lane with
  | none => s
  | some run =>
    match run.todo.find? fun e => e.1 == lane with
    | none => s
    | some (_, i) =>
      let h := run.heat
      let a := h.probAt i
      let nb := s.peekNat a 1
      let hdr : Prob := ⟨op, s.peek a (64 + 192 * Nat.min 64 nb), run.tau64, run.tau32⟩
      let n := if 1 ≤ nb && nb ≤ 64 then Nat.min h.probStride hdr.len else 64
      let p : Prob := { hdr with desc := s.peek a n }
      let ok := p.ok h.probStride h.outStride h.workStride h.warmStride (h.warmIn || h.warmOut)
      if !s.clockOn u then s
      else match (h.writes p i).findSome? fun x => s.writeHold x.1 x.2 with
        | some g => s.holdOp g (.unit (.lane op u lane stall))
        | none =>
          let rd := (a, n) :: (if ok && h.warmIn then [(h.warmAt i, p.warmLen)] else [])
          let wr := if ok then h.writes p i else [(h.outAt i, if h.outStride = 0 then 0 else 32)]
          match (rd.findSome? fun x => s.poisonIn x.1 x.2).or (wr.findSome? fun x => s.poisonPart x.1 x.2) with
          | some q => (s.heatAborts u h).uncorrectable q none (8 * u) none ST.ABORTED
          | none =>
            let s := s.countLines a n false
            let s := if ok then s.problemRun u h p i stall else s.problemRefused u h p i stall
            s.laneDone u h.id lane

/-- FK (R126). -/
def execFk (unit : BitVec 5) (lane : BitVec 6) (stall : Nat) (s : State) : Host.Outcome State Fault Refusal :=
  done (s.laneRun 0 unit.toNat lane.toNat stall)
/-- ID (R126). -/
def execId (unit : BitVec 5) (lane : BitVec 6) (stall : Nat) (s : State) : Host.Outcome State Fault Refusal :=
  done (s.laneRun 1 unit.toNat lane.toNat stall)
/-- FD (R127). -/
def execFd (unit : BitVec 5) (lane : BitVec 6) (stall : Nat) (s : State) : Host.Outcome State Fault Refusal :=
  done (s.laneRun 2 unit.toNat lane.toNat stall)
/-- MASS (R128). -/
def execMass (unit : BitVec 5) (lane : BitVec 6) (stall : Nat) (s : State) : Host.Outcome State Fault Refusal :=
  done (s.laneRun 3 unit.toNat lane.toNat stall)
/-- STEP (R130, R131). -/
def execStep (unit : BitVec 5) (lane : BitVec 6) (stall : Nat) (s : State) : Host.Outcome State Fault Refusal :=
  done (s.laneRun 4 unit.toNat lane.toNat stall)

/-! ### Ending -/

/-- The oldest heat whose problems are all done increments its baton and reports (R119). -/
def State.heatEnd (s : State) (u : Nat) : State :=
  match (s.dsu u).running.find? fun r => r.todo.isEmpty with
  | none => s
  | some r =>
    let h := r.heat
    let finish (s : State) : State := ((s.dropHeat u h.id).count F.DSU_STATS.HEATS_DONE u).dsuWake h.hart h.id ST.OK
    if !s.clockOn u then s
    else if h.done && h.aborted then (finish s).count F.DSU_STATS.ABORTED_HEATS u
    else if h.done then
      match s.homeOp true h.batonAt (.amo .add 8 1) with
      | (.held g, s) => s.holdOp g (.unit (.heat u))
      | (.ue p _, s) => (s.heatAborts u h).uncorrectable p none (8 * u) none ST.ABORTED
      | (.done _, s) => finish s
    else finish s

/-- HEAT_COMPLETE (R119). -/
def execHeatComplete (unit : BitVec 5) (s : State) : Host.Outcome State Fault Refusal := done (s.heatEnd unit.toNat)

/-- DSU_LANE_FAULT (R300): the unit is fenced and the heats it runs end with ST_ABORTED (DEDUCED, log entry 27). -/
def execDsuLaneFault (unit : BitVec 5) (s : State) : Host.Outcome State Fault Refusal :=
  done (
    let u := unit.toNat
    let s := (s.dsu u).running.foldl (fun (s : State) r => s.heatAborts u r.heat) s
    let s := s.setDsu u { s.dsu u with fenced := true }
    s.raise { ErrInfo.of .dsuFault with core := 8 * u, status := ST.ABORTED })

end Sys2Proof.Machine
end

