-- ==== Sys2Proof/Machine/Mx.lean ====
section
/-! DEFINITION. MX elements, scales and blocks (R33 to R44), precision passes (R45, R46). -/

namespace Sys2Proof.Machine

/-- An element format of Table 02-2 (codes 4 to 8 of Table 04-3); INT8 is apart. -/
structure MxFmt where
  ebits : Nat
  mbits : Nat
  bias  : Nat
  emax  : Int
  /-- The encoding of the largest normal magnitude. -/
  top   : Nat
  deriving DecidableEq, Repr

def mxFmt : Nat → MxFmt
  | 4 => ⟨4, 3, 7, 8, 0x7E⟩
  | 5 => ⟨5, 2, 15, 15, 0x7B⟩
  | 6 => ⟨3, 2, 3, 4, 0x1F⟩
  | 7 => ⟨2, 3, 1, 2, 0x1F⟩
  | _ => ⟨2, 1, 1, 2, 7⟩

/-- The format code names an MX format. -/
def isMx (code : Nat) : Bool := 4 ≤ code && code ≤ 9

/-- Bits of an element, bytes of a block (Table 02-3). -/
def mxWidth (code : Nat) : Nat := if code = 9 then 8 else 1 + (mxFmt code).ebits + (mxFmt code).mbits
def mxBlockBytes (code : Nat) : Nat := 4 * mxWidth code

/-- emax of Table 02-2. -/
def mxEmax (code : Nat) : Int := if code = 9 then 0 else (mxFmt code).emax

/-- The value of an element (R33, R34). -/
def mxDecode (code b : Nat) : Num :=
  if code = 9 then
    let v := toSigned 8 b
    .fin (v < 0) v.natAbs (-6)
  else
    let f := mxFmt code
    let neg := bitOf b (f.ebits + f.mbits)
    let ex := b / 2 ^ f.mbits % 2 ^ f.ebits
    let fr := b % 2 ^ f.mbits
    if code = 4 && ex = 15 && fr = 7 then .nan
    else if code = 5 && ex = 31 then (if fr = 0 then .inf neg else .nan)
    else if ex = 0 then .fin neg fr (1 - (f.bias : Int) - f.mbits)
    else .fin neg (fr + 2 ^ f.mbits) ((ex : Int) - f.bias - f.mbits)

/-- A value times 2^e. -/
def Num.shift (e : Int) : Num → Num
  | .fin n m x => .fin n m (x + e)
  | v => v

/-- An element under its block's scale (R35, R36). -/
def mxValue (code scale b : Nat) : Num := if scale = 255 then .nan else (mxDecode code b).shift ((scale : Int) - 127)

/-- The element codes of a packed block (Table 02-3). -/
def mxUnpack (code : Nat) (bs : List Byte) : List Nat :=
  let v := ofLe bs
  (List.range 32).map fun i => v / 2 ^ (mxWidth code * i) % 2 ^ mxWidth code

/-- A block's element bytes. -/
def mxPack (code : Nat) (els : List Nat) : List Byte :=
  leBytes (mxBlockBytes code) ((els.zipIdx.map fun e => e.1 * 2 ^ (mxWidth code * e.2)).sum)

/-- A finite value rounded to the element's precision, the exponent unbounded above: the encoding of its magnitude,
counted on past the largest one. -/
def mxRound (code rm : Nat) (neg : Bool) (m : Nat) (e : Int) : Nat :=
  if m = 0 then 0
  else
    let cut (lsb : Int) : Nat := if lsb ≤ e then m * 2 ^ (e - lsb).toNat else roundShift rm neg m (lsb - e).toNat
    if code = 9 then cut (-6)
    else
      let f := mxFmt code
      let emin : Int := 1 - f.bias
      let lsb := max (e + Nat.log2 m) emin - f.mbits
      (lsb - (emin - f.mbits)).toNat * 2 ^ f.mbits + cut lsb

/-- The magnitude encoding of the largest normal. -/
def mxTop (code : Nat) : Nat := if code = 9 then 127 else (mxFmt code).top

/-- The element bits of a sign and a magnitude encoding. -/
def mxBits (code : Nat) (neg : Bool) (mag : Nat) : Nat :=
  if code = 9 then (if neg then (256 - mag) % 256 else mag)
  else b2n neg * 2 ^ (mxWidth code - 1) + mag

/-- encode() of R44: the element bits and whether it was clamped; none is a block NaN. -/
def mxEncode (code rm : Nat) (ovf : Bool) (x : Num) : Option (Nat × Bool) :=
  let tooBig (neg : Bool) : Option (Nat × Bool) :=
    if !ovf then some (mxBits code neg (mxTop code), true)
    else if code = 5 then some (mxBits code neg 0x7C, false)
    else if code = 4 then some (mxBits code neg 0x7F, false)
    else none
  match x with
  | .nan => none
  | .inf neg => tooBig neg
  | .fin neg m e =>
    let r := mxRound code rm neg m e
    if r ≤ mxTop code then some (mxBits code neg r, false) else tooBig neg

/-- A converted block: its scale, its element codes, elements clamped, whether it is a block NaN. -/
structure MxBlock where
  scale   : Nat
  els     : List Nat
  clamped : Nat
  isNan   : Bool
  deriving DecidableEq, Repr

/-- floor(log2 |x|) of a finite non-zero value. -/
def numLog2 : Num → Option Int
  | .fin _ m e => if m = 0 then none else some (e + Nat.log2 m)
  | _ => none

/-- R43: up to 32 values converted to a block; missing elements are zero bits. -/
def mxConvert (code rm : Nat) (fit ovf : Bool) (xs : List Num) : MxBlock :=
  let bad : MxBlock := ⟨255, List.replicate 32 0, 0, true⟩
  if xs.any Num.isNan then bad
  else
    let top := xs.foldl (fun (a : Option Int) x => match a, numLog2 x with
      | some p, some q => some (max p q)
      | none, q => q
      | p, none => p) none
    let shared : Int := match top with
      | none => 0
      | some t =>
        let k := t - mxEmax code
        let exceeds := xs.any fun x => match x.shift (-k) with
          | .fin neg m e => decide (mxTop code < mxRound code rm neg m e)
          | _ => false
        max (-127) (min 127 (if fit && exceeds then k + 1 else k))
    let encs := xs.map fun x => mxEncode code rm ovf (x.shift (-shared))
    if encs.any (·.isNone) then bad
    else
      let els := encs.filterMap id
      ⟨(shared + 127).toNat, (els.map (·.1)) ++ List.replicate (32 - els.length) 0, (els.filter (·.2)).length, false⟩

/-- A row or column of values converted, block by block. -/
def mxLine (code rm : Nat) (fit ovf : Bool) (xs : List Num) : List MxBlock :=
  (List.range ((xs.length + 31) / 32)).map fun b => mxConvert code rm fit ovf ((xs.drop (32 * b)).take 32)

/-- The exact sum of values in order: -0 only when every one is -0 (R104). -/
def numSum : List Num → Option Num
  | [] => none
  | x :: xs => some (xs.foldl (numAdd 0) x)

/-- The BF16 pieces of an FP32 encoding (R45), each with the operand's sign. -/
def pieces (a : Nat) : List Num :=
  let neg := bitOf a 31
  let trunc (m : Nat) (e : Int) : Nat × Int :=
    -- the leading 8 significant bits, no finer than 2^-133
    if m = 0 then (0, e)
    else
      let lsb := max (e + Nat.log2 m - 7) (-133)
      if lsb ≤ e then (m, e) else (m / 2 ^ (lsb - e).toNat, lsb)
  match decodeFp fp32 a with
  | .fin _ m e =>
    let a0 := a / 65536 * 65536
    match decodeFp fp32 a0 with
    | .fin _ m0 e0 =>
      let r1 := m - m0 * 2 ^ (e0 - e).toNat
      let (m1, e1) := trunc r1 e
      let r2 := r1 - m1 * 2 ^ (e1 - e).toNat
      let (m2, e2) := trunc r2 e
      [.fin neg m0 e0, .fin neg m1 e1, .fin neg m2 e2]
    | x => [x, .fin neg 0 0, .fin neg 0 0]
  | x => [x, .fin neg 0 0, .fin neg 0 0]

/-- R46: the term of one FP32 index after P passes. -/
def passTerm (p a b : Nat) : Num :=
  let x := decodeFp fp32 a
  let y := decodeFp fp32 b
  let finite : Num → Bool
    | .fin _ _ _ => true
    | _ => false
  if !finite x || !finite y then numMul x y
  else
    let pa := pieces a
    let pb := pieces b
    let at_ (l : List Num) (i : Nat) : Num := l.getD i (.fin false 0 0)
    let pairs := (List.range p).flatMap fun k => (List.range (k + 1)).map fun i => (i, k - i)
    (numSum (pairs.map fun q => numMul (at_ pa q.1) (at_ pb q.2))).getD (.fin false 0 0)

/-- R37: the term of one block: the exact dot product of two blocks under their scales. -/
def blockTerm (xs ys : List Num) : Option Num := numSum (List.zipWith numMul xs ys)

/-- R103: the partial of a tile's terms in order, each added with one RNE rounding. -/
def tilePartial (f : Fmt) : List Num → Option Nat
  | [] => none
  | t :: ts => some (ts.foldl (fun acc x => (encodeFp f 0 (numAdd 0 (decodeFp f acc) x)).1) (encodeFp f 0 t).1)

end Sys2Proof.Machine
end

