-- ==== Sys2Proof/Machine/Engines.lean ====
section
/-! DEFINITION. Tensor engines (R87 to R114): the checks at issue, the start of an instruction, its arithmetic, its end. -/

namespace Sys2Proof.Machine

/-! ### Descriptors -/

/-- Table 04-6. -/
def EngInstr.at_ (i : EngInstr) (b n : Nat) : Nat := fieldAt i.desc b n
def EngInstr.fa (i : EngInstr) : Nat := i.at_ 52 1 % 16
def EngInstr.fb (i : EngInstr) : Nat := i.at_ 52 1 / 16
def EngInstr.klen (i : EngInstr) : Nat := i.at_ 44 4
/-- Table 04-7. -/
def EngInstr.ofmt (i : EngInstr) : Nat := i.at_ 14 1 % 16
def EngInstr.rm (i : EngInstr) : Nat := i.at_ 14 1 / 16 % 8
def EngInstr.axis (i : EngInstr) : Bool := bitOf (i.at_ 14 1) 7
def EngInstr.clr (i : EngInstr) : Bool := bitOf (i.at_ 15 1) 3
/-- M and N of either descriptor. -/
def EngInstr.m (i : EngInstr) : Nat := if i.op = .mma then i.at_ 53 1 else i.at_ 24 1
def EngInstr.n (i : EngInstr) : Nat := if i.op = .mma then i.at_ 54 1 else i.at_ 25 1
/-- Output lines (rows, or columns with BLKAXIS = 1) and their length. -/
def EngInstr.lines (i : EngInstr) : Nat := if i.axis then i.n else i.m
def EngInstr.lineLen (i : EngInstr) : Nat := if i.axis then i.m else i.n

/-- Bytes of n consecutive elements of a format (Tables 02-3, 04-3): whole blocks for MX. -/
def lineBytes (code n : Nat) : Nat :=
  if isMx code then (n + 31) / 32 * mxBlockBytes code else n * (fmtOf code).width / 8

/-- Table 04-2: the accumulator kind of a pair, none where it is not accepted; true is FP64-range. -/
def pairKind (a b : Nat) : Option Bool :=
  if isMx a && isMx b then some false
  else if (a = 2 || a = 3) && (b = 2 || b = 3) then some false
  else if a = 1 && b = 1 then some false
  else if a = 0 && b = 0 then some true
  else none

/-- The side of a slot's tile, its cells, the bytes of its cell array. -/
def tileSide (k64 : Bool) : Nat := if k64 then 16 else 64
def tileCells (k64 : Bool) : Nat := if k64 then 256 else 4096
def cellArray (k64 : Bool) : Nat := tileCells k64 * cellBytes k64

/-! ### Checks at issue (R91, R93 to R96) -/

/-- R91: an extent inside the core's own SRAM or inside its cluster's. -/
def State.engPlace (s : State) (core base n : Nat) : Bool :=
  let a := offOf base
  let inside (lo size : Nat) : Bool := decide (lo ≤ a ∧ a + n ≤ lo + size)
  s.isSelf base && (inside (lsramBase core) 0x100000 || inside (csramBase (clusterOf core)) 0x2000000)

/-- R91: an array of lines: placement and stride first, then alignment. -/
def State.engArray (s : State) (core base stride lines bytes align : Nat) : Bool × Bool :=
  (stride % align == 0 && bytes ≤ stride && s.engPlace core base ((lines - 1) * stride + bytes), base % align == 0)

/-- The status of checks: every range check before every alignment check. -/
def pickStatus (ok : Bool) (arrays : List (Bool × Bool)) : Half :=
  if !ok || arrays.any (!·.1) then ST.RANGE else if arrays.any (!·.2) then ST.ALIGN else ST.OK

/-- The kind a slot will hold when an instruction accepted now starts (R91). -/
def Engine.kindThen (e : Engine) (slot : Nat) : Bool :=
  let running := [e.array, e.xfer].filterMap fun r => r.map (·.ins)
  let setters := (e.queue.reverse ++ running).filter fun i => (i.op == .zero || i.op == .fill) && i.slot == slot
  match setters with
  | i :: _ => i.kind64
  | [] =>
    let s := if slot = 0 then e.slot0 else e.slot1
    s.init && s.kind64

/-- R95, R89, R91 for XTMMA. -/
def State.mmaCheck (s : State) (core : Nat) (i : EngInstr) : Half :=
  let kind := pairKind i.fa i.fb
  let side := tileSide (kind.getD false)
  let ma := isMx i.fa
  let mb := isMx i.fb
  let fl := i.at_ 55 1
  let last := bitOf fl 0
  let kb := i.at_ 48 4
  let kl := i.klen
  let nb := (kl + 31) / 32
  let ok := kind.isSome && decide (1 ≤ kl ∧ kl ≤ 2 ^ 24 ∧ 1 ≤ i.m ∧ i.m ≤ side ∧ 1 ≤ i.n ∧ i.n ≤ side ∧ fl < 4)
    && (i.srec || i.at_ 56 8 == 0)
    && (ma || (i.at_ 16 8 == 0 && i.at_ 40 2 == 0)) && (mb || (i.at_ 24 8 == 0 && i.at_ 42 2 == 0))
    && !((ma || mb) && (kb % 32 != 0 || (kl % 32 != 0 && !last)))
    && !(i.canon && (kb % 256 != 0 || (kl % 256 != 0 && !last)))
    && !(i.fa == 1 && i.passes == 0)
  pickStatus ok (
    [s.engArray core (i.at_ 0 8) (i.at_ 32 4) i.m (lineBytes i.fa kl) 64,
     s.engArray core (i.at_ 8 8) (i.at_ 36 4) i.n (lineBytes i.fb kl) 64]
    ++ (if ma then [s.engArray core (i.at_ 16 8) (i.at_ 40 2) i.m nb 8] else [])
    ++ (if mb then [s.engArray core (i.at_ 24 8) (i.at_ 42 2) i.n nb 8] else [])
    ++ (if i.srec then [s.engArray core (i.at_ 56 8) 16 1 16 16] else []))

/-- R96, R91, R38 for XTCVT and XTRD. -/
def State.outCheck (s : State) (core : Nat) (e : Engine) (i : EngInstr) : Half :=
  let cvt := i.op == .cvt
  let side := if cvt then 64 else tileSide (e.kindThen i.slot)
  let mx := isMx i.ofmt
  let fl := i.at_ 15 1
  let arg := i.at_ 48 8
  let sf := i.at_ 26 1
  let ok := decide (i.ofmt ≤ 9 ∧ i.rm ≤ 3 ∧ fl < 16 ∧ i.done ≠ 3 ∧ 1 ≤ i.m ∧ i.m ≤ side ∧ 1 ≤ i.n ∧ i.n ≤ side)
    && zeroAt i.desc 27 5 && zeroAt i.desc 44 4 && (mx || (i.at_ 12 2 == 0 && i.at_ 16 8 == 0))
    && (i.srec || i.at_ 56 8 == 0) && !(i.done == 0 && arg != 0) && !(i.done == 2 && arg ≥ 2 ^ 32)
    && (if cvt then 4 ≤ i.ofmt && !i.clr && sf < 4 else sf == 0 && i.at_ 32 8 == 0 && i.at_ 40 4 == 0)
  pickStatus ok (
    [s.engArray core (i.at_ 0 8) (i.at_ 8 4) i.lines (lineBytes i.ofmt i.lineLen) 64]
    ++ (if mx then [s.engArray core (i.at_ 16 8) (i.at_ 12 2) i.lines ((i.lineLen + 31) / 32) 8] else [])
    ++ (if cvt then [s.engArray core (i.at_ 32 8) (i.at_ 40 4) i.lines (lineBytes sf i.lineLen) 64] else [])
    ++ (if i.srec then [s.engArray core (i.at_ 56 8) 16 1 16 16] else [])
    ++ (if i.done = 1 then [(s.isSelf arg && s.extentIn isSramStack (offOf arg) 8, arg % 8 == 0)] else []))

/-- R91, R106 for XTFILL and XTSPILL. -/
def State.cellCheck (s : State) (core : Nat) (e : Engine) (i : EngInstr) : Half :=
  let k := if i.op = .fill then i.kind64 else e.kindThen i.slot
  pickStatus true [s.engArray core i.cells (cellArray k) 1 (cellArray k) 64]

/-- The check of any instruction. -/
def State.engCheck (s : State) (core : Nat) (e : Engine) (i : EngInstr) : Half :=
  match i.op with
  | .mma => s.mmaCheck core i
  | .cvt | .rd => s.outCheck core e i
  | .fill | .spill => s.cellCheck core e i
  | .zero => ST.OK

/-! ### Slots -/

def Engine.slot (e : Engine) (n : Nat) : Slot := if n = 0 then e.slot0 else e.slot1
def Engine.setSlot (e : Engine) (n : Nat) (v : Slot) : Engine := if n = 0 then { e with slot0 := v } else { e with slot1 := v }

/-- An empty element. -/
def cellDefault : Nat → Cell := fun _ => ⟨0, 0⟩
def Slot.cell (v : Slot) (j : Nat) : Cell := mapGet cellDefault j v.cells
def Slot.setCell (v : Slot) (j : Nat) (c : Cell) : Slot := { v with cells := mapSet cellDefault j c v.cells }

/-- An element of an EXACT slot. -/
def Slot.acc (v : Slot) (j : Nat) : Acc_ := ofCtl v.kind64 (v.cell j).ctl.toNat (v.cell j).val
def Slot.setAcc (v : Slot) (j : Nat) (a : Acc_) : Slot := v.setCell j ⟨BitVec.ofNat 64 (a.ctl v.kind64), a.val⟩

/-! ### Operands -/

/-- The elements of a stored line: encodings for plain formats are decoded as they stand. -/
def lineValues (code n : Nat) (bs scales : List Byte) : List Num :=
  if isMx code then
    ((List.range ((n + 31) / 32)).flatMap fun b =>
      (mxUnpack code (slice bs (b * mxBlockBytes code) (mxBlockBytes code))).map (mxValue code (fieldAt scales b 1))).take n
  else
    let w := (fmtOf code).width / 8
    (List.range n).map fun i => decodeFp (fmtOf code) (fieldAt bs (w * i) w)

/-- The FP32 encodings of a stored line. -/
def lineWords (n : Nat) (bs : List Byte) : List Nat := (List.range n).map fun i => fieldAt bs (4 * i) 4

/-- The terms of one element's tile [lo, hi) (R102). -/
def tileTerms (code passes : Nat) (mx : Bool) (xs ys : List Num) (xw yw : List Nat) (lo hi : Nat) : List Num :=
  if mx then
    (List.range ((hi - lo + 31) / 32)).filterMap fun b =>
      blockTerm (((xs.take hi).drop (lo + 32 * b)).take 32) (((ys.take hi).drop (lo + 32 * b)).take 32)
  else if code = 1 then List.zipWith (passTerm passes) ((xw.take hi).drop lo) ((yw.take hi).drop lo)
  else List.zipWith numMul ((xs.take hi).drop lo) ((ys.take hi).drop lo)

/-- The extents an instruction reads, by its descriptor: offset and bytes. -/
def EngInstr.reads (i : EngInstr) (kind64 : Bool) : List (Nat × Nat) :=
  let rows (base stride n bytes : Nat) : List (Nat × Nat) := (List.range n).map fun r => (offOf base + r * stride, bytes)
  match i.op with
  | .mma =>
    rows (i.at_ 0 8) (i.at_ 32 4) i.m (lineBytes i.fa i.klen) ++ rows (i.at_ 8 8) (i.at_ 36 4) i.n (lineBytes i.fb i.klen)
      ++ (if isMx i.fa then rows (i.at_ 16 8) (i.at_ 40 2) i.m ((i.klen + 31) / 32) else [])
      ++ (if isMx i.fb then rows (i.at_ 24 8) (i.at_ 42 2) i.n ((i.klen + 31) / 32) else [])
  | .cvt => rows (i.at_ 32 8) (i.at_ 40 4) i.lines (lineBytes (i.at_ 26 1) i.lineLen)
  | .fill => [(offOf i.cells, cellArray kind64)]
  | _ => []

/-- The extents it writes. -/
def EngInstr.writes (i : EngInstr) (kind64 : Bool) : List (Nat × Nat) :=
  match i.op with
  | .cvt | .rd =>
    ((List.range i.lines).map fun r => (offOf (i.at_ 0 8) + r * i.at_ 8 4, lineBytes i.ofmt i.lineLen))
      ++ (if isMx i.ofmt then (List.range i.lines).map fun r => (offOf (i.at_ 16 8) + r * i.at_ 12 2, (i.lineLen + 31) / 32) else [])
  | .spill => [(offOf i.cells, cellArray kind64)]
  | _ => []

/-! ### Arithmetic (R102 to R106) -/

/-- What an instruction leaves for its record (Tables 04-13, 04-14) and the summary (R58). -/
structure EngOut where
  nf       : Bool := false
  snan     : Bool := false
  clamp    : Bool := false
  blockNan : Bool := false
  terms    : Bool := false
  forced   : Bool := false
  accNan   : Bool := false
  accInf   : Bool := false
  row      : Nat := 0
  col      : Nat := 0
  blocks   : Nat := 0
  clamped  : Nat := 0
  cycles   : Nat := 0
  tiles    : Nat := 0

/-- One partial entered into an element (R105): the slot, and whether TERMS_EXCEEDED was newly set. -/
def Slot.enter (v : Slot) (j p : Nat) : Slot × Bool :=
  let f := if v.kind64 then fp64 else fp32
  if v.running then
    let c := v.cell j
    (v.setCell j ⟨1, if c.ctl = 0 then p else (fpAdd f 0 c.val p).1⟩, false)
  else
    let a := v.acc j
    let b := a.add v.kind64 (decodeFp f p)
    (v.setAcc j b, b.exceeded && !a.exceeded)

/-- XTMMA over the slot: every element of the window, its tiles in order. -/
def State.mmaRun (s : State) (i : EngInstr) (v : Slot) : Slot × EngOut :=
  let kl := i.klen
  let mx := isMx i.fa
  let nb := (kl + 31) / 32
  let line (base stride code sbase sstride r : Nat) : List Num × List Nat × Bool :=
    let bs := s.peek (offOf base + r * stride) (lineBytes code kl)
    let sc := if mx then s.peek (offOf sbase + r * sstride) nb else []
    (lineValues code kl bs sc, lineWords (if code = 1 then kl else 0) bs, sc.any (· == 255))
  let as := (List.range i.m).map fun r => line (i.at_ 0 8) (i.at_ 32 4) i.fa (i.at_ 16 8) (i.at_ 40 2) r
  let bs := (List.range i.n).map fun c => line (i.at_ 8 8) (i.at_ 36 4) i.fb (i.at_ 24 8) (i.at_ 42 2) c
  let f := if v.kind64 then fp64 else fp32
  let side := tileSide v.kind64
  let tiles := (List.range ((kl + 255) / 256)).map fun t => (256 * t, Nat.min kl (256 * t + 256))
  let r := tiles.foldl (fun (r : Slot × Bool) t =>
    as.zipIdx.foldl (fun (r : Slot × Bool) a => bs.zipIdx.foldl (fun (r : Slot × Bool) b =>
      match tilePartial f (tileTerms i.fa i.passes mx a.1.1 b.1.1 a.1.2.1 b.1.2.1 t.1 t.2) with
      | none => r
      | some p =>
        let (v, x) := r.1.enter (a.2 * side + b.2) p
        (v, r.2 || x)) r) r) (v, false)
  (r.1, { snan := as.any (·.2.2) || bs.any (·.2.2), terms := r.2 })

/-- XTFILL: every element from the cell array (R106). -/
def State.fillRun (s : State) (i : EngInstr) : Slot :=
  let k := i.kind64
  let a := offOf i.cells
  (List.range (tileCells k)).foldl (fun (v : Slot) j =>
    v.setAcc j (ofCell k (s.peek (a + j * cellBytes k) (cellBytes k)))) ⟨true, k, false, []⟩

/-- XTSPILL: the bytes of the cell array (R106). -/
def Slot.spill (v : Slot) : List Byte := (List.range (tileCells v.kind64)).flatMap fun j => (v.acc j).bytes v.kind64

/-! ### Output (R107 to R109) -/

/-- An element of a slot rounded into a format (Table 04-10): the encoding, and whether it came from R53. -/
def Slot.rounded (v : Slot) (f : Fmt) (rm j : Nat) : Nat :=
  if v.running then
    let c := v.cell j
    if c.ctl = 0 then 0 else (fpCvt (if v.kind64 then fp64 else fp32) f rm c.val).1
  else (v.acc j).round v.kind64 f rm

/-- An encoding's value is NaN or infinite. -/
def Num.bad (x : Num) : Bool := x.isNan || x.isInf

/-- The lines to write, as encodings in the plain format of the rounding (FP32 for MX output). -/
def State.outLines (s : State) (i : EngInstr) (v : Slot) : List (List Nat) :=
  let at_ (r c : Nat) : Nat × Nat := if i.axis then (c, r) else (r, c)
  let f := if isMx i.ofmt then fp32 else fmtOf i.ofmt
  (List.range i.lines).map fun l =>
    if i.op = .cvt then
      let sf := i.at_ 26 1
      let w := (fmtOf sf).width / 8
      let bs := s.peek (offOf (i.at_ 32 8) + l * i.at_ 40 4) (w * i.lineLen)
      (List.range i.lineLen).map fun x =>
        let e := fieldAt bs (w * x) w
        if sf = 0 then (fpCvt fp64 fp32 i.rm e).1 else e
    else
      (List.range i.lineLen).map fun x =>
        let (r, c) := at_ l x
        v.rounded f i.rm (r * tileSide v.kind64 + c)

/-- The source format of the lines that MX conversion takes. -/
def EngInstr.lineFmt (i : EngInstr) : Fmt :=
  if i.op = .cvt then (if i.at_ 26 1 = 0 then fp32 else fmtOf (i.at_ 26 1))
  else if isMx i.ofmt then fp32 else fmtOf i.ofmt

/-- The written pieces of the output and what the record says of them (R107 to R109). -/
def State.outRun (s : State) (i : EngInstr) (v : Slot) : List (Nat × List Byte) × EngOut :=
  let lines := s.outLines i v
  let f := i.lineFmt
  let mx := isMx i.ofmt
  let blocks : List (List MxBlock) :=
    if mx then lines.map fun l => mxLine i.ofmt i.rm i.scale i.ovf (l.map (decodeFp f)) else []
  let out (l : Nat) : Nat := offOf (i.at_ 0 8) + l * i.at_ 8 4
  let pieces : List (Nat × List Byte) :=
    if mx then blocks.zipIdx.flatMap fun b =>
      [(out b.2, b.1.flatMap fun k => mxPack i.ofmt k.els),
       (offOf (i.at_ 16 8) + b.2 * i.at_ 12 2, b.1.map fun k => BitVec.ofNat 8 k.scale)]
    else lines.zipIdx.map fun l => (out l.2, l.1.flatMap (leBytes (f.width / 8)))
  -- non-finite elements of the window by row and column, as rounded or as stored and decoded
  let stored (l x : Nat) : Bool :=
    let k := (blocks.getD l []).getD (x / 32) ⟨127, [], 0, false⟩
    k.isNan || (mxValue i.ofmt k.scale (k.els.getD (x % 32) 0)).bad
  let hit (l x : Nat) : Bool := (decodeFp f ((lines.getD l []).getD x 0)).bad || (mx && stored l x)
  let cellsRM : List (Nat × Nat) := (List.range i.m).flatMap fun r => (List.range i.n).map fun c => (r, c)
  let first := if i.op = .rd then cellsRM.find? fun p => if i.axis then hit p.2 p.1 else hit p.1 p.2 else none
  let flat := blocks.zipIdx.flatMap fun b => b.1.zipIdx.map fun k => (2 * b.2 + k.2, k.1)
  let touched := flat.find? fun k => k.2.isNan || k.2.clamped != 0
  let nans := (flat.filter (·.2.isNan)).length
  let clamped := (flat.map (·.2.clamped)).sum
  let exact := i.op = .rd && !v.running
  let vals := if exact then lines.flatMap fun l => l.map (decodeFp f) else []
  (pieces, {
    nf := first.isSome, clamp := clamped != 0, blockNan := nans != 0,
    accNan := vals.any Num.isNan, accInf := vals.any Num.isInf,
    row := (first.map (·.1)).getD 0,
    col := match first with
      | some p => p.2
      | none => (touched.map (·.1)).getD 0,
    blocks := nans, clamped := clamped })

/-! ### Timing figures (Tables 04-11, 04-12) -/

/-- Cycles of a full tile. -/
def fullTile (i : EngInstr) : Nat :=
  if isMx i.fa then (if mxWidth i.fa = 8 || mxWidth i.fb = 8 then 256 else 128)
  else if i.fa = 1 then (if i.passes = 1 then 512 else if i.passes = 2 then 1536 else 3072)
  else if i.fa = 0 then 256 else 512

/-- Cycles in which the array computes tiles. -/
def tileCycles (i : EngInstr) : Nat :=
  ((List.range ((i.klen + 255) / 256)).map fun t =>
    (Nat.min 256 (i.klen - 256 * t) + 31) / 32 * (fullTile i / 8)).sum

/-- Cycles of an instruction without stalls, alone in its lane. -/
def engCycles (i : EngInstr) (kind64 : Bool) : Nat :=
  let far (a : Nat) : Bool := offOf a < 0x0D0000000000
  match i.op with
  | .mma => (if far (i.at_ 0 8) || far (i.at_ 8 8) then 80 else 48) + tileCycles i + (if kind64 then 64 else 128)
  | .rd => if isMx i.ofmt then 176 else if kind64 then 80 else 144
  | .cvt => 144
  | .zero => 8
  | .fill | .spill => if kind64 then 336 else 1040

/-! ### Start -/

/-- R98: no earlier instruction names the entry's slot. -/
def Engine.slotFree (e : Engine) (i : EngInstr) : Bool :=
  i.op == .cvt || !((e.queue.takeWhile (· != i)).any (·.names i.slot)
    || e.array.any (fun r => r.ins.names i.slot) || e.xfer.any fun r => r.ins.names i.slot)

/-- R99: the check at the start. -/
def State.startOk (s : State) (core : Nat) (e : Engine) (i : EngInstr) : Bool :=
  let v := e.slot i.slot
  match i.op with
  | .mma => v.init && pairKind i.fa i.fb == some v.kind64
  | .rd => v.init && (if v.kind64 then i.ofmt ≤ 3 else 1 ≤ i.ofmt) && i.m ≤ tileSide v.kind64 && i.n ≤ tileSide v.kind64
  | .spill => v.init && !v.running && s.engPlace core i.cells (cellArray v.kind64)
  | _ => true

/-- A queue entry freed; the contexts in waiters take it in their order, by their own commands (R97). -/
def Engine.drop (e : Engine) (i : EngInstr) : Engine := { e with queue := e.queue.erase i }

/-- ENGINE_INSTRUCTION_START (R98, R99): the lane's oldest entry starts once nothing earlier names its slot. -/
def execEngineInstructionStart (eng : BitVec 10) (xfer : Bool) (s : State) : Host.Outcome State Fault Refusal :=
  done (
    let e := eng.toNat
    let en := s.engine e
    let busy := if xfer then en.xfer.isSome else en.array.isSome
    match en.queue.find? (fun i => i.array == !xfer) with
    | none => s
    | some i =>
      if busy || !s.clockOn (e / 32) || !en.slotFree i then s
      else
        let s := s.setEngine e (en.drop i)
        if s.engFenced e then s.engDone e { i with desc := [] } ST.ABORTED (plainRecord i ST.ABORTED) 0
        else if !s.startOk (e / 4) en i then
          s.engDone e i ST.RANGE (plainRecord i ST.RANGE) (BitVec.ofNat 64 (2 ^ 32))
        else
          let run : EngRun := ⟨i, s.now, false, none⟩
          let en := s.engine e
          s.setEngine e (if xfer then { en with xfer := some run } else { en with array := some run }))

/-! ### Completion -/

/-- The record of a completed instruction (Tables 04-13, 04-14). -/
def recordOf (i : EngInstr) (st : Half) (o : EngOut) (suppressed : Bool) (stall : Nat) : Word64 × Word64 :=
  let w0 := st.toNat * 2 ^ 48 + i.op.code * 2 ^ 45 + b2n o.nf * 2 ^ 44 + b2n o.snan * 2 ^ 43 + b2n o.clamp * 2 ^ 42
    + b2n o.blockNan * 2 ^ 41 + b2n o.terms * 2 ^ 40 + b2n o.forced * 2 ^ 39 + b2n suppressed * 2 ^ 38 + i.ctx * 2 ^ 31
    + (if i.op = .cvt then 0 else i.slot) * 2 ^ 30 + Nat.min 63 o.blocks * 2 ^ 24 + o.row * 2 ^ 16 + o.col * 2 ^ 8
    + (if i.op = .mma && i.fa = 1 then i.passes else 0) * 2 ^ 6
  let w1 := Nat.min (2 ^ 32 - 1) (o.cycles + stall) * 2 ^ 32 + Nat.min 65535 stall * 2 ^ 16 + Nat.min 65535 o.clamped
  (BitVec.ofNat 64 w0, BitVec.ofNat 64 w1)

/-- R58: the events of an instruction. -/
def State.engEvents (s : State) (e : Nat) (o : EngOut) : State :=
  let s := s.numFlags (b2n o.nf * 64 + b2n o.accNan * 32 + b2n o.accInf * 16 + b2n o.terms * 8 + b2n o.snan * 4
    + b2n o.clamp * 2 + b2n o.blockNan)
  let s := if o.nf then s.count F.CMP_NUM_SUMMARY.NF_TILES else s
  let s := if o.clamped = 0 then s else s.count F.CMP_NUM_SUMMARY.CLAMPED 0 o.clamped
  let s := if o.blocks = 0 then s else s.count F.CMP_NUM_SUMMARY.BLOCK_NAN 0 o.blocks
  if o.nf then s.numFirst 0 e o.row o.col
  else if o.clamp || o.blockNan then s.numFirst 2 e 0 o.col
  else s

/-- A lane of an engine. -/
def Engine.lane (e : Engine) (xfer : Bool) : Option EngRun := if xfer then e.xfer else e.array
def Engine.setLane (e : Engine) (xfer : Bool) (r : Option EngRun) : Engine :=
  if xfer then { e with xfer := r } else { e with array := r }

/-- The lane's instruction ends with a status and its record. -/
def State.engEnd (s : State) (e : Nat) (xfer : Bool) (i : EngInstr) (st : Half) (w : Word64 × Word64) : State :=
  (s.setEngine e ((s.engine e).setLane xfer none)).engDone e i st w.1 w.2

/-- The record of an instruction that an error ends in progress: the passes it used, the cycles since its start at the
clock's present rate (DESIGN CHOICE, log entry 19). -/
def State.cutRecord (s : State) (e : Nat) (r : EngRun) (stall : Nat) : Word64 × Word64 :=
  let o : EngOut := { cycles := (s.now - r.start) * s.stepFreq (e / 64) / 1000 - stall }
  recordOf r.ins ST.ABORTED o (r.ins.aborted && r.ins.done != 0) stall

/-- Cycles waited are counted (R112). -/
def State.countStall (s : State) (e stall : Nat) : State :=
  if stall = 0 then s else s.count F.CMP_ENG_STATS.STALL_CYCLES e stall

/-- An uncorrectable word ends the lane's instruction with ST_ABORTED (R301). -/
def State.engUe (s : State) (e : Nat) (xfer : Bool) (r : EngRun) (p stall : Nat) : State :=
  let s := (s.countStall e stall).engEnd e xfer r.ins ST.ABORTED (s.cutRecord e r stall)
  s.uncorrectable p none (e / 4) none ST.ABORTED

/-- What the instruction does to slot and memory: the slot, the pieces to write, what the record says. -/
def State.engWork (s : State) (i : EngInstr) (v : Slot) : Slot × List (Nat × List Byte) × EngOut :=
  match i.op with
  | .mma => let (v, o) := s.mmaRun i v; (v, [], o)
  | .zero => (⟨true, i.kind64, i.running && !i.canon, []⟩, [], { forced := i.running && i.canon })
  | .fill => (s.fillRun i, [], {})
  | .spill => (v, [(offOf i.cells, v.spill)], {})
  | .cvt => let (ps, o) := s.outRun i v; (v, ps, o)
  | .rd =>
    let (ps, o) := s.outRun i v
    (if i.clr then ⟨true, v.kind64, v.running, []⟩ else v, ps, o)

/-- The DONE action and the end (R110): a full relay intake keeps the lane waiting. -/
def State.engFinish (s : State) (e : Nat) (xfer : Bool) (r : EngRun) (o : EngOut) (parts : List (Nat × Nat)) (stall : Nat) :
    State :=
  let i := r.ins
  let st := if i.aborted then ST.ABORTED else ST.OK
  let rec_ := recordOf i st o (i.aborted && i.done != 0) stall
  if i.aborted || i.done = 0 then s.engEnd e xfer i st rec_
  else if i.done = 1 then
    match s.homeOp true (offOf (i.at_ 48 8)) (.amo .add 8 1) with
    | (.ue p _, s) => s.engUe e xfer r p 0
    | (_, s) => s.engEnd e xfer i st rec_
  else if s.relayRoom (e / 32) then
    (s.relayIn (e / 32) (i.at_ 48 8) i.ofmt parts).engEnd e xfer i st rec_
  else s.setEngine e ((s.engine e).setLane xfer (some { r with handover := some (st, rec_.1, rec_.2) }))

/-- The lane's instruction completes (R102 to R114). -/
def State.engineEnd (s : State) (e : Nat) (xfer : Bool) (stall : Nat) : State :=
    let en := s.engine e
    match en.lane xfer with
    | none => s
    | some r =>
      let i := r.ins
      if r.handover.isSome || !s.clockOn (e / 32) then s
      else
        let v := en.slot i.slot
        let k := if i.op = .fill || i.op = .zero then i.kind64 else v.kind64
        let held := if i.done = 1 && !i.aborted then s.writeHold (offOf (i.at_ 48 8)) 8 else none
        match held with
        | some g => s.holdOp g (.unit (.engine e xfer stall))
        | none =>
          match (i.reads k).findSome? fun x => s.poisonIn x.1 x.2 with
          | some p => s.engUe e xfer r p stall
          | none =>
            match (i.writes k).findSome? fun x => s.poisonPart x.1 x.2 with
            | some p => s.engUe e xfer r p stall
            | none =>
              let (v, ps, o) := s.engWork i v
              let s := ps.foldl (fun (s : State) p => s.homeWrite p.1 p.2) s
              let s := if i.op = .cvt then s else s.setEngine e ((s.engine e).setSlot i.slot v)
              let o := { o with cycles := engCycles i k }
              let s := if i.op = .mma then s.count F.CMP_ENG_STATS.ARRAY_CYCLES e (tileCycles i) else s
              let s := s.countStall e stall
              let s := s.engEvents e o
              s.engFinish e xfer r o (ps.map fun p => (p.1, p.2.length)) stall

/-- ENGINE_INSTRUCTION_COMPLETE. -/
def execEngineInstructionComplete (eng : BitVec 10) (xfer : Bool) (stall : Nat) (s : State) :
    Host.Outcome State Fault Refusal := done (s.engineEnd eng.toNat xfer stall)

/-- RELAY_HANDOVER (R110): the intake has room; the tile goes in and the instruction completes. The ticks waited are
counted in STALL at the clock's present rate (DESIGN CHOICE, log entry 19). An instruction whose context has aborted hands nothing over,
and keeps its lane until the intake has room all the same (DESIGN CHOICE, log entry 60). -/
def execRelayHandover (eng : BitVec 10) (s : State) : Host.Outcome State Fault Refusal :=
  done (
    let e := eng.toNat
    let en := s.engine e
    match en.xfer with
    | none => s
    | some r =>
      match r.handover with
      | none => s
      | some (st, w0, w1) =>
        if !s.relayRoom (e / 32) || !s.clockOn (e / 32) then s
        else
          let i := r.ins
          let parts := i.writes (en.slot i.slot).kind64
          let wait := (s.now - r.start) * s.stepFreq (e / 64) / 1000 - wordGet w1 63 32
          let w1 := wordPut w1 63 32 (Nat.min (2 ^ 32 - 1) (wordGet w1 63 32 + wait))
          let w1 := wordPut w1 31 16 (Nat.min 65535 (wordGet w1 31 16 + wait))
          let s := s.countStall e wait
          if i.aborted then
            let w0 := wordPut (wordPut w0 63 48 ST.ABORTED.toNat) 38 38 1
            s.engEnd e true i ST.ABORTED (w0, w1)
          else (s.relayIn (e / 32) (i.at_ 48 8) i.ofmt parts).engEnd e true i st (w0, w1))

/-- ENGINE_COLUMN_FAULT (R113, R300): the instruction in progress completes with ST_ABORTED and the engine is fenced. -/
def execEngineColumnFault (eng : BitVec 10) (s : State) : Host.Outcome State Fault Refusal :=
  done (
    let e := eng.toNat
    match (s.engine e).array with
    | none => s
    | some r =>
      let s := s.engEnd e false r.ins ST.ABORTED (s.cutRecord e r 0)
      let s := s.setEngine e { s.engine e with fenced := true }
      s.raise { ErrInfo.of .engineFault with core := e / 4, status := ST.ABORTED })

end Sys2Proof.Machine
end

