-- ==== Sys2Proof/Machine/Update.lean ====
section
/-! DEFINITION. The arithmetic of an update unit (R146 to R151): schedules, scalars, one parameter's update. -/

namespace Sys2Proof.Machine

/-! ### Schedules (R148) -/

/-- π × 2^512, rounded down. -/
def pi512 : Nat :=
  0x3243f6a8885a308d313198a2e03707344a4093822299f31d0082efa98ec4e6c89452821e638d01377be5466cf34e90c6cc0ac29b7c97c50dd3f84d5b5b5470917

/-- The sine series: even and odd terms of x, in units of 2^-512, from term k on, with its power over factorial p. -/
def sineTerms : Nat → Nat → Nat → Nat → Int → Int
  | 0, _, _, _, acc => acc
  | n + 1, x, k, p, acc =>
    let acc := if k / 2 % 2 = 0 then acc + (p : Int) else acc - (p : Int)
    sineTerms n x (k + 2) (p * x / 2 ^ 512 * x / 2 ^ 512 / ((k + 1) * (k + 2))) acc

/-- sin(x) × 2^512 for x in units of 2^-512, at most π/2. -/
def sine512 (x : Nat) : Nat := (sineTerms 80 x 1 x 0).toNat

/-- cos(π p) for 0 ≤ p ≤ 1 correctly rounded: the sine of π (1/2 − p), its tail below 2^-512 shown in the last bit. -/
def cospi (p : Nat) : Nat :=
  match decodeFp fp64 p with
  | .fin _ m e =>
    let w := min e (-1)
    let d : Int := (2 : Int) ^ (-1 - w).toNat - ((m * 2 ^ (e - w).toNat : Nat) : Int)
    if d = 0 then 0
    else
      let x := pi512 * d.natAbs / 2 ^ (-w).toNat
      (encodeFp fp64 0 (.fin (d < 0) (2 * sine512 x + 1) (-513))).1
  | _ => fp64.nan

/-- pow of R148. -/
def powLoop : Nat → Nat → Nat → Nat → Nat
  | 0, _, _, r => r
  | n + 1, b, k, r =>
    if k = 0 then r
    else
      let r := if k % 2 = 1 then rMul fp64 r b else r
      let k := k / 2
      powLoop n (if 0 < k then rMul fp64 b b else b) k r

def f64Of (n : Nat) : Nat := rInt fp64 (n : Int)
def pow64 (x k : Nat) : Nat := powLoop 64 x (k % 2 ^ 64) (f64Of 1)

/-- 0.5. -/
def half64 : Nat := rPow2 fp64 1

/-- schedule(s) of R148 by a BEGIN descriptor (Table 06-5). -/
def schedule (d : List Byte) (s : Nat) : Nat :=
  let f := fp64
  let sched := fieldAt d 1 1
  let hi := fieldAt d 40 8
  let lo := fieldAt d 48 8
  let warm := fieldAt d 56 8
  let total := fieldAt d 64 8
  if sched = 0 then hi
  else if s < warm then rDiv f (rMul f hi (f64Of (s + 1))) (f64Of warm)
  else if sched = 3 then rMul f hi (pow64 (fieldAt d 80 8) ((s - warm) / fieldAt d 72 8))
  else
    let p := rMin f (rDiv f (f64Of (s - warm)) (f64Of (total - warm))) (f64Of 1)
    if sched = 1 then rAdd f lo (rMul f (rMul f half64 (rSub f hi lo)) (rAdd f (f64Of 1) (cospi p)))
    else rAdd f hi (rMul f (rSub f lo hi) p)

/-! ### BEGIN (R147) -/

/-- A step record (Table 06-4). -/
def stepRecord (lap base t s c lr limit flags : Nat) : List Byte :=
  leBytes 8 lap ++ leBytes 8 base ++ leBytes 8 t ++ leBytes 8 s ++ leBytes 8 c ++ leBytes 8 lr ++ leBytes 8 limit
    ++ leBytes 8 flags

/-- BEGIN's outcome on the old record and the cell: 0 ST_OK, 1 ST_NORM_SKIP, 2 ST_RANGE, with the record it writes. -/
def beginRun (d prev cell : List Byte) (limit : Nat) : Nat × Option (List Byte) :=
  let f := fp64
  let lap := fieldAt d 24 8
  let skipped := bitOf (fieldAt prev 56 8) 0
  let plap := fieldAt prev 0 8
  if lap = plap then (b2n skipped, none)
  else if lap < plap then (2, none)
  else
    let base := if skipped then fieldAt prev 8 8 else plap
    let t := fieldAt prev 16 8
    let s := (ofCell true cell).round true f 0
    let n := rSqrt f s
    if isNonFinite f s || rLt f limit n then (1, some (stepRecord lap base t s 0 0 limit (1 + 4 * b2n (isNonFinite f s))))
    else
      let most := fieldAt d 32 8
      let c := if rLe f n most then f64Of 1 else rDiv f most n
      (0, some (stepRecord lap base ((t + 1) % 2 ^ 64) s c (schedule d t) limit (2 * b2n (c != f64Of 1))))

/-! ### Parameters (R149, R150) -/

/-- The scalars and hyperparameters of a command, FP32 encodings. -/
structure Scal where
  kind : Nat
  lr   : Nat
  c    : Nat
  a    : Nat
  r    : Nat
  dec  : Nat
  b1   : Nat
  omb1 : Nat
  b2   : Nat
  omb2 : Nat
  eps  : Nat
  wd   : Nat

def to32 (x : Nat) : Nat := (fpCvt fp64 fp32 0 x).1
def to64 (x : Nat) : Nat := (fpCvt fp32 fp64 0 x).1

/-- R149, from a descriptor and a record. -/
def scalars (d rec_ : List Byte) : Scal :=
  let f := fp64
  let lr := fieldAt rec_ 40 8
  let t := fieldAt rec_ 16 8
  let one := f64Of 1
  let hp (o : Nat) : Nat := fieldAt d o 4
  let bc (o : Nat) : Nat := rSub f one (pow64 (to64 (hp o)) t)
  { kind := fieldAt d 1 1, lr := to32 lr, c := to32 (fieldAt rec_ 32 8), a := to32 (rDiv f lr (bc 80)),
    r := to32 (rDiv f one (rSqrt f (bc 88))), dec := to32 (rSub f one (rMul f lr (to64 (hp 100)))),
    b1 := hp 80, omb1 := hp 84, b2 := hp 88, omb2 := hp 92, eps := hp 96, wd := hp 100 }

/-- The new moments of a parameter: M1 and M2, from its weight, its moments and its gradient (KIND 0 to 2). -/
def newMoments (k : Scal) (w m v graw : Nat) : Nat × Nat :=
  let f := fp32
  let g := rMul f k.c graw
  if k.kind = 0 then
    (rFma f k.b1 m (rMul f k.omb1 g), rFma f k.b2 v (rMul f k.omb2 (rMul f g g)))
  else
    let g := rFma f k.wd w g
    let m := rFma f k.b1 m (rMul f k.omb1 g)
    (m, if k.kind = 2 then rFma f k.b1 m g else v)

/-- The new weight from the stored new moments (R150, R154). -/
def newWeight (k : Scal) (w m v : Nat) : Nat :=
  let f := fp32
  if k.kind = 0 then
    rFma f (rNeg f k.a) (rDiv f m (rFma f (rSqrt f v) k.r k.eps)) (rMul f w k.dec)
  else rFma f (rNeg f k.lr) (if k.kind = 2 then v else m) w

/-- KIND 3: the new weight from the gradient. -/
def sgdWeight (k : Scal) (w graw : Nat) : Nat :=
  let f := fp32
  rFma f (rNeg f k.lr) (rFma f k.wd w (rMul f k.c graw)) w

/-- The little-endian numbers of n bytes each that a byte string holds, at most count of them. -/
def numbers (n : Nat) : Nat → List Byte → List Nat
  | 0, _ => []
  | k + 1, bs => ofLe (bs.take n) :: numbers n k (bs.drop n)

/-- Gradients widened to FP32: GFMT 1 FP32, 2 BF16. -/
def gradients (gfmt n : Nat) (bs : List Byte) : List Nat :=
  if gfmt = 1 then numbers 4 n bs else (numbers 2 n bs).map fun x => (fpCvt bf16 fp32 0 x).1

/-- An export copy (R151). -/
def exportBytes (kind : Nat) (ws : List Nat) : List Byte :=
  if kind = 1 then ws.flatMap (leBytes 4)
  else ws.flatMap fun w => leBytes 2 (fpCvt fp32 (if kind = 2 then bf16 else fp16) 0 w).1

end Sys2Proof.Machine
end

