-- ==== Sys2Proof/Machine/Puu.lean ====
section
/-! DEFINITION. Update units (R140 to R161): the checks at issue, NORM, BEGIN, APPLY and REPAIR by commit groups, the end
of a command, the parking pair. -/

namespace Sys2Proof.Machine

/-! ### Descriptors (Tables 06-1, 06-5) -/

def PuuCmd.u (c : PuuCmd) (o n : Nat) : Nat := fieldAt c.desc o n
def PuuCmd.op (c : PuuCmd) : Nat := c.u 0 1
/-- APPLY or REPAIR. -/
def PuuCmd.upd (c : PuuCmd) : Bool := 2 ≤ c.op
def PuuCmd.flags (c : PuuCmd) : Nat := if c.upd then c.u 3 1 else c.u 2 1
def PuuCmd.done (c : PuuCmd) : Bool := bitOf c.flags 0
def PuuCmd.gpark (c : PuuCmd) : Bool := c.op != 1 && bitOf c.flags 1
def PuuCmd.export_ (c : PuuCmd) : Nat := if c.upd then c.flags / 4 % 4 else 0
def PuuCmd.kind (c : PuuCmd) : Nat := c.u 1 1
/-- GFMT, parameters or gradients, BLOCK0. -/
def PuuCmd.gfmt (c : PuuCmd) : Nat := if c.op = 0 then c.u 1 1 else c.u 2 1
def PuuCmd.count (c : PuuCmd) : Nat := if c.op = 0 then c.u 24 8 else c.u 4 4
def PuuCmd.block0 (c : PuuCmd) : Nat := if c.op = 0 then c.u 32 4 else c.u 56 4
def PuuCmd.gwidth (c : PuuCmd) : Nat := if c.gfmt = 1 then 4 else 2
/-- Arrays: W, M1, M2, G, TAG, EXPORT, the record, the cell. -/
def PuuCmd.w (c : PuuCmd) : Nat := c.u 8 8
def PuuCmd.m1 (c : PuuCmd) : Nat := c.u 16 8
def PuuCmd.m2 (c : PuuCmd) : Nat := c.u 24 8
def PuuCmd.g (c : PuuCmd) : Nat := if c.op = 0 then c.u 8 8 else c.u 32 8
def PuuCmd.tag (c : PuuCmd) : Nat := c.u 40 8
def PuuCmd.exp (c : PuuCmd) : Nat := c.u 48 8
def PuuCmd.record (c : PuuCmd) : Nat := if c.op = 1 then c.u 8 8 else c.u 64 8
def PuuCmd.cell (c : PuuCmd) : Nat := c.u 16 8
def PuuCmd.doneArg (c : PuuCmd) : Nat := c.u 112 8
def PuuCmd.result (c : PuuCmd) : Nat := c.u 120 8
/-- Which arrays the command has. -/
def PuuCmd.hasM1 (c : PuuCmd) : Bool := c.upd && c.kind ≤ 2
def PuuCmd.hasM2 (c : PuuCmd) : Bool := c.upd && (c.kind == 0 || c.kind == 2)
def PuuCmd.hasG (c : PuuCmd) : Bool := (c.op == 0 || c.op == 2) && !c.gpark

/-- Blocks of 16,384 parameters; the parameters of block j. -/
def PuuCmd.blocks (c : PuuCmd) : Nat := (c.count + 16383) / 16384
def PuuCmd.blockLen (c : PuuCmd) (j : Nat) : Nat := Nat.min 16384 (c.count - 16384 * j)

/-- Finite and at least 0; above 0; in [0, 1): on FP32 or FP64 encodings. -/
def fpNonNeg (f : Fmt) (x : Nat) : Bool := !isNonFinite f x && !rLt f x 0
def fpPos (f : Fmt) (x : Nat) : Bool := !isNonFinite f x && rLt f 0 x
def fpUnit (f : Fmt) (x : Nat) : Bool := fpNonNeg f x && rLt f x (rInt f 1)

/-- R142, R145: the fields of a descriptor in range and its zero bytes zero. -/
def PuuCmd.fieldsOk (c : PuuCmd) : Bool :=
  let z := zeroAt c.desc
  let f := fp32
  let h (o : Nat) : Nat := c.u o 4
  (c.done || c.doneArg == 0) &&
  match c.op with
  | 0 => (c.gfmt == 1 || c.gfmt == 2) && c.flags < 4 && z 3 5 && decide (1 ≤ c.count ∧ c.count ≤ 2 ^ 34)
      && z 36 4 && (c.gpark || c.block0 == 0) && (!c.gpark || c.g == 0) && z 40 72
  | 1 =>
    let most := c.u 32 8
    c.kind ≤ 3 && c.flags < 2 && z 3 5 && 1 ≤ c.u 24 8 && (fpPos fp64 most || most == fp64.infBits)
      && fpNonNeg fp64 (c.u 40 8) && fpNonNeg fp64 (c.u 48 8) && c.u 56 8 ≤ 2 ^ 53
      && !((c.kind == 1 || c.kind == 2) && (c.u 64 8 ≤ c.u 56 8 || 2 ^ 53 < c.u 64 8))
      && !(c.kind == 3 && (c.u 72 8 == 0 || !fpPos fp64 (c.u 80 8))) && z 88 24
  | 2 | 3 =>
    c.kind ≤ 3 && c.flags < 16 && 1 ≤ c.count
      && (if c.op = 2 then c.gfmt == 1 || c.gfmt == 2 else c.gfmt == 0 && !c.gpark)
      && (c.hasM1 || c.m1 == 0) && (c.hasM2 || c.m2 == 0) && (c.hasG || c.g == 0) && (c.export_ != 0 || c.exp == 0)
      && z 60 4 && z 72 8 && z 104 8 && fpNonNeg f (h 100)
      && (if c.kind = 0 then fpUnit f (h 80) && fpUnit f (h 88) && fpPos f (h 96)
        else if c.kind ≤ 2 then
          fpUnit f (h 80) && fpNonNeg f (h 84) && rLe f (h 84) (rInt f 1) && z 88 12
        else z 80 20)
  | _ => false

/-- The places of Table 06-2 for unit k. -/
def State.puuStack (s : State) (k : Nat) (e : Nat × Nat) : Bool :=
  s.isSelf e.1 && decide (stackBase k ≤ offOf e.1 ∧ offOf e.1 + e.2 ≤ stackBase k + 0x1800000000)
def State.puuExport (s : State) (k : Nat) (e : Nat × Nat) : Bool :=
  let a := offOf e.1
  let sram (c : Nat) : Bool := decide (csramBase c ≤ a ∧ a + e.2 ≤ csramBase c + 0x2000000)
  s.puuStack k e || (s.isSelf e.1 && (sram (2 * k) || sram (2 * k + 1)))
def State.puuAny (s : State) (ok : Kind → Bool) (e : Nat × Nat) : Bool := s.isSelf e.1 && s.extentIn ok (offOf e.1) e.2

/-- The extents of the state arrays: base, bytes. -/
def PuuCmd.stateExts (c : PuuCmd) : List (Nat × Nat) :=
  [(c.w, 4 * c.count), (c.tag, 16 * c.blocks)] ++ (if c.hasM1 then [(c.m1, 4 * c.count)] else [])
    ++ (if c.hasM2 then [(c.m2, 4 * c.count)] else [])

/-- R143. -/
def State.puuCheck (s : State) (k : Nat) (c : PuuCmd) : Half :=
  let g : List (Nat × Nat) := if c.hasG then [(c.g, c.gwidth * c.count)] else []
  let exp : List (Nat × Nat) :=
    if c.export_ = 0 then [] else [(c.exp, (if c.export_ = 1 then 4 else 2) * c.count)]
  let res : List (Nat × Nat) := if c.result = 0 then [] else [(c.result, 32)]
  let recd : List (Nat × Nat) := if c.op = 0 then [] else [(c.record, 64)]
  let cell : List (Nat × Nat) := if c.op ≤ 1 then [(c.cell, 320)] else []
  let st := if c.upd then c.stateExts else []
  let placed := g.all (s.puuStack k) && recd.all (s.puuStack k) && exp.all (s.puuExport k) && res.all (s.puuExport k)
    && cell.all (s.puuAny (· == .stack)) && (!c.done || s.puuAny isSramStack (c.doneArg, 8))
    && (st.all (s.puuStack k) || st.all (s.puuAny (· == .near)) || st.all (s.puuAny (· == .far)))
  let all := st ++ g ++ exp ++ recd ++ cell ++ res
  let apart (x y : Nat × Nat) : Bool := offOf x.1 + x.2 ≤ offOf y.1 || offOf y.1 + y.2 ≤ offOf x.1
  let rec distinct : List (Nat × Nat) → Bool
    | [] => true
    | e :: es => es.all (apart e) && distinct es
  let lines := (if c.upd then [c.w] ++ (if c.hasM1 then [c.m1] else []) ++ (if c.hasM2 then [c.m2] else []) else [])
    ++ (g ++ exp ++ recd ++ cell).map (·.1)
  let aligned := lines.all (· % 64 == 0) && (!c.upd || c.tag % 16 == 0) && c.result % 32 == 0 && c.doneArg % 8 == 0
  if !(c.fieldsOk && placed && distinct all) then ST.RANGE else if !aligned then ST.ALIGN else ST.OK

/-! ### The end of a command -/

/-- The context that waits for a command goes on with its status (R144). -/
def State.puuWake (s : State) (u h id : Nat) (st : Half) : State :=
  match (s.ctx h).wait with
  | .puu rd v i _ => if v = u && i = id then s.onCtx h fun c => (c.setStatus rd st).wake else s
  | _ => s

/-- R157: whether the command needs a parking area that is not there. -/
def State.puuNoArea (s : State) (u : Nat) (c : PuuCmd) : Bool :=
  (c.gpark && s.ringSlots u == 0)
    || (c.upd && s.parkSlots u == 0 && !s.puuStack u (c.w, 4 * c.count))

/-- Unit cycles (Table 06-7); none where the far lane gives only an approximate rate. -/
def PuuRun.cycles (r : PuuRun) : Option Nat :=
  let c := r.cmd
  let done_ := if r.status = ST.NORM_SKIP then c.count else Nat.min c.count (16384 * r.block)
  match c.op with
  | 0 => some (52 + (c.count + 63) / 64)
  | 1 => some 400
  | _ =>
    if 0x020000000000 ≤ offOf c.w && offOf c.w < 0x0C0000000000 then none
    else if c.op = 3 then some (12 + 8 * r.block + (r.rolledParams + 13) / 14)
    else
      let rate := if c.kind = 1 then 14 else if c.kind = 3 then 28 else 7
      some (12 + (done_ + rate - 1) / rate)

/-- The result record (Table 06-3). -/
def PuuRun.result (r : PuuRun) (st : Half) (cycles park : Nat) : List Byte :=
  let c := r.cmd
  let upd (v : Nat) : Nat := if c.upd then v else 0
  leBytes 8 (st.toNat * 2 ^ 48 + c.op * 2 ^ 45 + r.first) ++ leBytes 8 (upd (r.updated * 2 ^ 32 + r.rolled))
    ++ leBytes 8 (upd (r.already * 2 ^ 32 + r.refused))
    ++ leBytes 8 (Nat.min (2 ^ 32 - 1) cycles * 2 ^ 32 + Nat.min (2 ^ 32 - 1) park)

/-- The running command leaves the unit and its waiting context goes on; FIRST is the status. -/
def State.puuLeave (s : State) (u : Nat) (c : PuuCmd) (st : Half) : State :=
  ((s.setPuu u { s.puu u with run := none }).count F.PUU_STATS.CMDS_DONE u).puuWake u c.hart c.id st

/-- The cycles of the running command and the state that has used a free value for them: none where it completed at its
start (R157). -/
def State.puuCycles (s : State) (u : Nat) (r : PuuRun) (extra : Nat) : Nat × State :=
  if s.puuNoArea u r.cmd then (0, s)
  else match r.cycles with
    | some n => (n + extra, s)
    | none => let (w, s) := s.free; (wordGet w 31 0, s)

/-- The running command's result record. -/
def State.puuResult (s : State) (u : Nat) (r : PuuRun) (st : Half) (cycles park : Nat) : State :=
  if r.cmd.result = 0 then s else s.put (offOf r.cmd.result) (r.result st cycles park) (16 * u)

/-- Ticks a run has waited for parked gradients. -/
def State.parkWaited (s : State) (r : PuuRun) : Nat := r.parkTicks + ((r.parkFrom.map fun t => s.now - t).getD 0)

/-- The running command waits for parked gradients, or no longer does. -/
def State.parkWaits (s : State) (u : Nat) (r : PuuRun) : State :=
  if r.parkFrom.isSome then s else s.setPuu u { s.puu u with run := some { r with parkFrom := some s.now } }
def State.parkGoes (s : State) (r : PuuRun) : PuuRun := { r with parkFrom := none, parkTicks := s.parkWaited r }

/-- The running command ends with ST_ABORTED and no DONE action (R300, R301), after the cycles since its start at the
clock's present rate (DESIGN CHOICE, log entry 19). -/
def State.puuAborts (s : State) (u : Nat) : State :=
  match (s.puu u).run with
  | none => s
  | some r =>
    let cycles (t : Nat) : Nat := t * s.stepFreq u / 1000
    let s' := if r.cmd.aborted && r.cmd.done then s.count F.PUU_STATS.ABORTED u else s
    (s'.puuResult u r ST.ABORTED (cycles (s.now - r.start)) (cycles (s.parkWaited r))).puuLeave u r.cmd ST.ABORTED

/-- An uncorrectable line ends the running command (R301). -/
def State.puuUe (s : State) (u p : Nat) : State := (s.puuAborts u).uncorrectable p none (16 * u) none ST.ABORTED

/-- The running command has done all it does. -/
def State.puuFinish (s : State) (u : Nat) (r : PuuRun) (st : Half) : State :=
  s.setPuu u { s.puu u with run := some { r with status := st, finished := true } }

/-! ### Starting -/

/-- The head of the queue starts, if it is a command of this OP and nothing runs (R144): it reads its step record. -/
def State.puuStart (s : State) (u op : Nat) : State :=
  let d := s.puu u
  match d.run, d.queue with
  | none, c :: rest =>
    if c.op != op || !s.unitClock u then s
    else if s.puuFenced u then
      ((s.setPuu u { d with queue := rest }).count F.PUU_STATS.CMDS_DONE u).puuWake u c.hart c.id ST.ABORTED
    else
      let (rec_, s) := if c.upd then s.read (offOf c.record) 64 else ([], s)
      let r : PuuRun := ⟨c, rec_, false, s.now, 0, false, 0, 0, 0, 0, 2 ^ 32 - 1, 0, ST.OK, false, none, 0⟩
      let s := s.setPuu u { d with
        queue := rest, run := some r, journal := d.journal.map fun (e : Journal) => { e with stage := 0 } }
      if s.puuNoArea u c then s.puuFinish u r ST.RANGE
      else match if c.upd then s.poisonIn (offOf c.record) 64 else none with
        | some p => s.puuUe u p
        | none => s
  | _, _ => s

/-- The running, unfinished command of an OP acts. -/
def State.puuAct (s : State) (u op : Nat) (act : State → PuuRun → State) : State :=
  let s := s.puuStart u op
  match (s.puu u).run with
  | some r => if r.cmd.op = op && !r.finished && s.unitClock u then act s r else s
  | none => s

/-! ### NORM and BEGIN -/

/-- Where block j's parked gradients lie: the j-th slot from the ring's head, once it holds a block. -/
def State.parked (s : State) (u j : Nat) : Option ((Nat × Nat) × Nat) :=
  let p := s.puu u
  (p.ring[j]?).map fun stamp => (stamp, s.ringSlotAt u (p.head + j))

/-- NORM on its gradients' extents (R146). -/
def State.normRun (s : State) (u : Nat) (r : PuuRun) (exts : List (Nat × Nat)) : State :=
  let c := r.cmd
  match exts.findSome? fun e => s.poisonIn e.1 e.2 with
  | some p => s.puuUe u p
  | none =>
    let add (a : Acc_) (e : Nat × Nat) : Acc_ :=
      (numbers c.gwidth (e.2 / c.gwidth) (s.peek e.1 e.2)).foldl (fun (a : Acc_) x =>
        let v := decodeFp (if c.gfmt = 1 then fp32 else bf16) x
        a.add true (numMul v v)) a
    let acc := exts.foldl add Acc_.empty
    match s.update true (offOf c.cell) 320 none fun old => some (((ofCell true old).merge true acc).bytes true) with
    | (.held g, s) => s.holdOp g (.unit (.puu u 0 0))
    | (.ue p _, s) => s.puuUe u p
    | (.done _, s) => (exts.foldl (fun (s : State) e => s.countLines e.1 e.2 false) s).puuFinish u r ST.OK

/-- NORM (R146, R158): with G_PARK it waits until the ring holds every block and checks their job-wide indices. -/
def State.normGo (s : State) (u : Nat) : State :=
  s.puuAct u 0 fun s r =>
    let c := r.cmd
    if !c.gpark then s.normRun u r [(offOf c.g, c.gwidth * c.count)]
    else
      let slots := (List.range c.blocks).filterMap fun j => (s.parked u j).map fun p => (j, p)
      if slots.any fun e => e.2.1.2 != c.block0 + e.1 then s.puuFinish u r ST.RANGE
      else if slots.length < c.blocks then s.parkWaits u r
      else s.normRun u (s.parkGoes r) (slots.map fun e => (e.2.2, c.gwidth * c.blockLen e.1))

/-- NORM. -/
def execNorm (unit : BitVec 4) (s : State) : Host.Outcome State Fault Refusal := done (s.normGo unit.toNat)

/-- BEGIN (R145, R147). -/
def State.beginGo (s : State) (u : Nat) : State :=
  s.puuAct u 1 fun s r =>
    let c := r.cmd
    let a := offOf c.record
    match (s.poisonIn a 64).or (s.poisonIn (offOf c.cell) 320), s.writeHold a 64 with
    | some p, _ => s.puuUe u p
    | none, held =>
      let (prev, s') := s.read a 64
      let (cell, s') := s'.read (offOf c.cell) 320
      let (st, out) := beginRun c.desc prev cell (s.reg R.PUU_NORM_LIMIT).toNat
      let s' := if st = 1 then s'.count F.PUU_STATS.SKIPPED_STEPS u else s'
      let norm := decodeFp fp64 ((ofCell true cell).round true fp64 0)
      -- the unit beside stack u stands for cluster 2u (DESIGN CHOICE, log entry 60)
      let s' := if out.isSome then s'.accEvent (2 * u) norm.isNan norm.isInf else s'
      let code := if st = 0 then ST.OK else if st = 1 then ST.NORM_SKIP else ST.RANGE
      match out, held with
      | some _, some g => s.holdOp g (.unit (.puu u 1 0))
      | some bs, none => (s'.homeWrite a bs).puuFinish u r code
      | none, _ => s'.puuFinish u r code

/-- BEGIN. -/
def execBegin (unit : BitVec 4) (s : State) : Host.Outcome State Fault Refusal := done (s.beginGo unit.toNat)

/-! ### APPLY and REPAIR (R152 to R158) -/

/-- L and P of the record. -/
def PuuRun.lap (r : PuuRun) : Nat := fieldAt r.record 0 8
def PuuRun.base (r : PuuRun) : Nat := fieldAt r.record 8 8

/-- What Table 06-6 gives a block: by its tags. -/
inductive BlockAct where
  | update | left | roll | already | refused
  deriving DecidableEq, Repr

def PuuRun.blockAct (r : PuuRun) (mt wt : Nat) : BlockAct :=
  if mt = r.lap && wt = r.lap then .already
  else if mt = r.base && wt = r.base then (if r.cmd.op = 3 then .left else .update)
  else if mt = r.lap && wt = r.base && r.cmd.kind != 3 then .roll
  else .refused

/-- The section of block j of an array of 4-byte elements. -/
def PuuCmd.section_ (c : PuuCmd) (base j : Nat) : Nat × Nat := (offOf base + 65536 * j, 4 * c.blockLen j)

/-- A block's weights, moments and gradients as they stand. -/
def State.blockOf (s : State) (c : PuuCmd) (base j : Nat) : List Nat :=
  let e := c.section_ base j
  numbers 4 (c.blockLen j) (s.peek e.1 e.2)

/-- A commit group: the image's pieces and the tag. -/
abbrev Group := List (Nat × List Byte) × (Nat × List Byte)

/-- The moment group of block j from gradients g (R152). -/
def State.momentGroup (s : State) (r : PuuRun) (k : Scal) (j : Nat) (g : List Nat) : Group :=
  let c := r.cmd
  let w := s.blockOf c c.w j
  let m := s.blockOf c c.m1 j
  let v := if c.kind = 0 then s.blockOf c c.m2 j else m
  let new := (List.zip (List.zip w m) (List.zip v g)).map fun e => newMoments k e.1.1 e.1.2 e.2.1 e.2.2
  ((((c.section_ c.m1 j).1, new.flatMap fun x => leBytes 4 x.1)
      :: (if c.hasM2 then [((c.section_ c.m2 j).1, new.flatMap fun x => leBytes 4 x.2)] else [])),
   (offOf c.tag + 16 * j, leBytes 8 r.lap))

/-- The weight group of block j: from the stored new moments, or for KIND 3 from gradients g. -/
def State.weightGroup (s : State) (r : PuuRun) (k : Scal) (j : Nat) (g : List Nat) : Group × List Nat :=
  let c := r.cmd
  let w := s.blockOf c c.w j
  if c.kind = 3 then
    let new := List.zipWith (sgdWeight k) w g
    (([((c.section_ c.w j).1, new.flatMap (leBytes 4))], (offOf c.tag + 16 * j, leBytes 8 r.lap ++ leBytes 8 r.lap)), new)
  else
    let m := s.blockOf c c.m1 j
    let v := if c.hasM2 then s.blockOf c c.m2 j else m
    let new := (List.zip w (List.zip m v)).map fun e => newWeight k e.1 e.2.1 e.2.2
    (([((c.section_ c.w j).1, new.flatMap (leBytes 4))], (offOf c.tag + 16 * j + 8, leBytes 8 r.lap)), new)

/-- Parameters of block j with a non-finite stored result (R150): of a full update its weight and moments, of a
roll-forward its weight. -/
def State.nfParams (s : State) (c : PuuCmd) (j : Nat) (full : Bool) : Nat :=
  let bad (base : Nat) : List Bool := (s.blockOf c base j).map (isNonFinite fp32)
  let w := bad c.w
  let m := if full && c.hasM1 then bad c.m1 else w.map fun _ => false
  let v := if full && c.hasM2 then bad c.m2 else w.map fun _ => false
  ((List.zip w (List.zip m v)).filter fun e => e.1 || e.2.1 || e.2.2).length

/-- The block's export copy (R151): its place and bytes. -/
def PuuCmd.exportOf (c : PuuCmd) (j : Nat) (ws : List Nat) : List (Nat × List Byte) :=
  if c.export_ = 0 then []
  else [(offOf c.exp + (if c.export_ = 1 then 65536 else 32768) * j, exportBytes c.export_ ws)]

/-- What writes meet: a granule to wait for, a marked line they cover in part. -/
def State.blocked (s : State) (ps : List (Nat × List Byte)) : Option (Nat ⊕ Nat) :=
  match ps.findSome? fun p => s.writeHold p.1 p.2.length with
  | some g => some (.inl g)
  | none => (ps.findSome? fun p => s.poisonPart p.1 p.2.length).map .inr

def State.homeWrites (s : State) (ps : List (Nat × List Byte)) : State :=
  ps.foldl (fun (s : State) p => s.homeWrite p.1 p.2) s

/-- The block is done: the run goes to the next one, and its parked slot is freed (R158). -/
def State.blockDone (s : State) (u : Nat) (r : PuuRun) : State :=
  let s := if r.cmd.gpark then s.ringPop u else s
  s.setPuu u { s.puu u with run := some { r with block := r.block + 1, half := false } }

/-- After block j's weight group: the counts, the export. -/
def State.afterWeights (s : State) (u : Nat) (r : PuuRun) (rolled : Bool) : State :=
  let c := r.cmd
  let j := r.block
  let n := s.nfParams c j (!rolled)
  let s := if n = 0 then s else s.count F.PUU_STATS.NF_PARAMS u n
  let s := if rolled then s.count F.PUU_STATS.BLOCKS_ROLLED u else s
  let s := s.homeWrites (c.exportOf j (s.blockOf c c.w j))
  s.blockDone u (if rolled then { r with rolled := r.rolled + 1, rolledParams := r.rolledParams + c.blockLen j }
    else { r with updated := r.updated + 1 })

/-- The state arrays lie in a tier. -/
def PuuCmd.inTier (c : PuuCmd) : Bool := 0x020000000000 ≤ offOf c.w && offOf c.w < 0x0C0000000000

/-- The journal's first 64 bytes (R156): lap, block, group kind, valid. The rest of the layout in its four slots is the model's
(DESIGN CHOICE, log entry 17): the tag's place and bytes after it, the image's pieces from the second slot on. -/
def Journal.header (e : Journal) (valid : Bool) : List Byte :=
  leBytes 8 e.lap ++ leBytes 4 e.block ++ leBytes 4 e.group ++ leBytes 8 (b2n valid) ++ leBytes 40 0
def Journal.bytes (e : Journal) (base : Nat) : List (Nat × List Byte) :=
  (base, e.header true) :: (base + 64, leBytes 8 e.tag.1 ++ e.tag.2)
    :: (List.zip (List.range e.image.length) e.image).map fun p => (base + 65536 * (p.1 + 1), p.2.2)

/-- What a commit group of a run is: 0 moments, 1 weights of a full update, 2 weights of a roll-forward. -/
def State.afterGroup (s : State) (u : Nat) (r : PuuRun) (what : Nat) : State :=
  if what = 0 then s.setPuu u { s.puu u with run := some { r with half := true } }
  else s.afterWeights u r (what == 2)

/-- What the running command does when its writes may go, or its wait for a granule, with at most left groups to come; a marked
line ends it (R168, R291, R301). -/
def State.groupWrites (s : State) (u : Nat) (r : PuuRun) (left : Nat) (ps : List (Nat × List Byte)) (act : State → State) : State :=
  match s.blocked ps with
  | some (.inl h) => s.holdOp h (.unit (.puu u r.cmd.op left))
  | some (.inr p) => s.puuUe u p
  | none => act (s.homeWrites ps)

/-- A commit group: whole in the stack; in a tier first its journal entry (R152, R156). -/
def State.commitGroup (s : State) (u : Nat) (r : PuuRun) (left what : Nat) (g : Group) (exports : List (Nat × List Byte)) :
    State :=
  if r.cmd.inTier then
    let e : Journal := ⟨r.lap, r.block, what, 0, g.1, g.2⟩
    match s.blocked (g.1 ++ [g.2] ++ exports) with
    | some (.inr p) => s.puuUe u p
    | _ => s.groupWrites u r left (e.bytes (s.parkBase u)) fun s => s.setPuu u { s.puu u with journal := some e }
  else match s.blocked (g.1 ++ [g.2] ++ exports) with
    | some (.inl h) => s.holdOp h (.unit (.puu u r.cmd.op left))
    | some (.inr p) => s.puuUe u p
    | none => (s.homeWrites (g.1 ++ [g.2])).afterGroup u r what

/-- One step of a valid journal entry (R156): the image is copied, then the tag is written, then the entry is cleared. An entry
that an earlier command left is carried out again from its image. -/
def State.journalStep (s : State) (u : Nat) (r : PuuRun) (left : Nat) (e : Journal) : State :=
  let at_ := s.parkBase u
  let stage (n : Nat) (s : State) : State := s.setPuu u { s.puu u with journal := some { e with stage := n } }
  match e.stage with
  | 0 =>
    match s.poisonIn at_ 196608 with
    | some p => s.puuUe u p
    | none =>
      let s := e.image.foldl (fun (s : State) p => s.countLines at_ p.2.length false) s
      s.groupWrites u r left e.image (stage 1)
  | 1 => s.groupWrites u r left [e.tag] (stage 2)
  | _ => s.groupWrites u r left [(at_, e.header false)] fun s =>
      let s := s.setPuu u { s.puu u with journal := none }
      if r.replayed then s.afterGroup u r e.group else s

/-- A block that only its export concerns (R153). -/
def State.alreadyBlock (s : State) (u : Nat) (r : PuuRun) (left : Nat) : State :=
  s.groupWrites u r left (r.cmd.exportOf r.block (s.blockOf r.cmd r.cmd.w r.block)) fun s =>
    s.blockDone u { r with already := r.already + 1 }

/-- What the block's update reads: places and bytes. -/
def PuuRun.blockReads (r : PuuRun) (slot : Nat) : List (Nat × Nat) :=
  let c := r.cmd
  let j := r.block
  let n := c.blockLen j
  [c.section_ c.w j, (offOf c.tag + 16 * j, 16)] ++ (if c.hasM1 then [c.section_ c.m1 j] else [])
    ++ (if c.hasM2 then [c.section_ c.m2 j] else [])
    ++ (if c.gpark then [(slot, c.gwidth * n)]
        else if c.hasG then [(offOf c.g + 16384 * c.gwidth * j, c.gwidth * n)] else [])

/-- The next block: a commit group, or what Table 06-6 gives a block without one (R152, R153). Its lines are counted as read
once, before its first group (DESIGN CHOICE, log entry 17). -/
def State.blockStep (s : State) (u : Nat) (r : PuuRun) (left : Nat) : State :=
  let c := r.cmd
  let j := r.block
  let slot := if c.gpark then s.parked u 0 else none
  if c.blocks ≤ j then s.puuFinish u r (if r.refused = 0 then ST.OK else ST.RANGE)
  else if c.gpark && slot.isNone then s.parkWaits u r
  else if slot.any fun e => e.1 != (r.lap, c.block0 + j) then s.puuFinish u r ST.RANGE
  else
    let r := s.parkGoes r
    let g := match slot with
      | some e => e.2
      | none => offOf c.g + 16384 * c.gwidth * j
    match (r.blockReads g).findSome? fun e => s.poisonIn e.1 e.2 with
    | some p => s.puuUe u p
    | none =>
      let k := scalars c.desc r.record
      let grads := gradients c.gfmt (c.blockLen j) (s.peek g (c.gwidth * c.blockLen j))
      let t := offOf c.tag + 16 * j
      let read : State := if r.half then s else (r.blockReads g).foldl (fun (s : State) e => s.countLines e.1 e.2 false) s
      let weights (what : Nat) : State :=
        let (grp, ws) := s.weightGroup r k j grads
        read.commitGroup u r left what grp (c.exportOf j ws)
      if r.half then weights 1
      else match r.blockAct (s.peekNat t 8) (s.peekNat (t + 8) 8) with
        | .already => s.alreadyBlock u r left
        | .left => s.blockDone u { r with updated := r.updated + 1 }
        | .refused => (s.count F.PUU_STATS.BLOCKS_REFUSED u).blockDone u
            { r with refused := r.refused + 1, first := Nat.min r.first j }
        | .roll => weights 2
        | .update => if c.kind = 3 then weights 1 else read.commitGroup u r left 0 (s.momentGroup r k j grads) []

/-- One step of APPLY or REPAIR: the journal first (R156); then an APPLY under a skipped record writes nothing else (R147). -/
def State.updateStep (s : State) (u : Nat) (r : PuuRun) (left : Nat) : State :=
  match (s.puu u).journal with
  | some e => s.journalStep u r left e
  | none =>
    let r := { r with replayed := true }
    if r.cmd.op = 2 && bitOf (fieldAt r.record 56 8) 0 then s.puuFinish u r ST.NORM_SKIP
    else s.blockStep u r left

/-- Steps of the running command, at most n. -/
def updateSteps (u op : Nat) : Nat → State → State
  | 0, s => s
  | n + 1, s =>
    match (s.puu u).run with
    | some r => if r.cmd.op = op && !r.finished then updateSteps u op n (s.updateStep u r (n + 1)) else s
    | none => s

/-- APPLY or REPAIR goes on. -/
def State.updateRun (s : State) (u op n : Nat) : State := s.puuAct u op fun s _ => updateSteps u op n s

/-- APPLY (R149 to R158). -/
def execApply (unit : BitVec 4) (groups : Nat) (s : State) : Host.Outcome State Fault Refusal :=
  done (s.updateRun unit.toNat 2 groups)
/-- REPAIR (R155). -/
def execRepair (unit : BitVec 4) (groups : Nat) (s : State) : Host.Outcome State Fault Refusal :=
  done (s.updateRun unit.toNat 3 groups)

/-! ### Completion (R144) -/

/-- The result record, then the baton, then the waiting context. -/
def State.puuEnd (s : State) (u stall parkWait : Nat) : State :=
  match (s.puu u).run with
  | none => s
  | some r =>
    if !r.finished || !s.unitClock u then s
    else
      let c := r.cmd
      let st := if c.aborted then ST.ABORTED else r.status
      let holds := (if c.result = 0 then none else s.writeHold (offOf c.result) 32).or
        (if c.done && !c.aborted then s.writeHold (offOf c.doneArg) 8 else none)
      match holds with
      | some g => s.holdOp g (.unit (.puuEnd u stall parkWait))
      | none =>
        let (cycles, s) := if c.result = 0 then (0, s) else s.puuCycles u r (stall + parkWait)
        if c.done && !c.aborted then
          match s.poisonIn (offOf c.doneArg) 8 with
          | some p => s.puuUe u p
          | none =>
            let s := s.puuResult u r st cycles parkWait
            ((s.homeOp true (offOf c.doneArg) (.amo .add 8 1)).2).puuLeave u c st
        else
          let s := if c.done then s.count F.PUU_STATS.ABORTED u else s
          (s.puuResult u r st cycles parkWait).puuLeave u c st

/-- PUU_COMMAND_COMPLETE (R144). -/
def execPuuCommandComplete (unit : BitVec 4) (stall parkWait : Nat) (s : State) : Host.Outcome State Fault Refusal :=
  done (s.puuEnd unit.toNat stall parkWait)

/-- PUU_UNIT_FAULT (R300): the running command ends with ST_ABORTED and the unit is fenced. -/
def execPuuUnitFault (unit : BitVec 4) (s : State) : Host.Outcome State Fault Refusal :=
  done (
    let u := unit.toNat
    let s := s.puuAborts u
    let s := s.setPuu u { s.puu u with fenced := true }
    s.raise { ErrInfo.of .puuFault with core := 16 * u, status := ST.ABORTED })

/-! ### The parking pair (R161) -/

/-- The pair takes effect. -/
def State.parkTaken (s : State) (u : Nat) (base slots : Word64) : State :=
  let s := ((((s.hold R.PUU_PARK_BASE u).hold R.PUU_PARK_SLOTS u).setReg R.PUU_PARK_BASE u base).setReg R.PUU_PARK_SLOTS u slots).setFld F.PUU_STATE.COMMIT_ST 0 u
  s.setPuu u { s.puu u with commit := none, head := 0 }

/-- PUU_COMMIT.GO on unit u: the staged pair is checked, and taken or held until the unit is idle. -/
def State.puuCommitGo (s : State) (u : Nat) : State :=
  let base := s.stgOld R.PUU_PARK_BASE u
  let slots := s.stgOld R.PUU_PARK_SLOTS u
  let n := wordGet slots 12 0
  if !(n == 0 || decide (4 ≤ n ∧ n ≤ 4096)) || 0x1800000000 < (wordGet base 36 16 + n) * 65536 then
    (s.setFld F.PUU_STATE.COMMIT_ST 1 u).commitRefused
  else if s.puuBusy u then
    (s.setPuu u { s.puu u with commit := some (base, slots) }).setFld F.PUU_STATE.COMMIT_ST 2 u
  else s.parkTaken u base slots

/-- PUU_PENDING_COMMIT_TAKEN: the unit is idle with an empty ring. -/
def execPuuPendingCommitTaken (unit : BitVec 4) (s : State) : Host.Outcome State Fault Refusal :=
  done (
    let u := unit.toNat
    match (s.puu u).commit with
    | some (b, n) => if s.puuBusy u then s else s.parkTaken u b n
    | none => s)

end Sys2Proof.Machine
end

