-- ==== Sys2Proof/Machine/Requests.lean ====
section
/-! DEFINITION. Issue of an instruction (R61 to R64), traps (R81, R86), quotas and the request table (R77), and remote
and self requests as the issuing core starts them (R185, R187, R203, R205, R412). -/

namespace Sys2Proof.Machine

/-! ### Issue -/

/-- The thread state of a key. -/
def hartOf (k : Nat) : Hart :=
  if isPx k then .px (BitVec.ofNat 6 (pxOf k)) else .ctx (BitVec.ofNat 8 (coreOf k)) (BitVec.ofNat 7 (ctxOf k))

/-- The key of its CoreRec. -/
def coreKey (k : Nat) : Nat := if isPx k then 256 + pxOf k else coreOf k

/-- Two contexts share a pipeline (R63). -/
def samePipe (j k : Nat) : Bool := !isPx j && !isPx k && coreOf j == coreOf k && j % 2 == k % 2

/-- The contexts a yielding one still lets issue first (Table 03-10). -/
def Ctx.yields (c : Ctx) : List Nat :=
  match c.wait with
  | .yield os => os
  | _ => []

/-- A READY context that is selectable (R63). -/
def State.selectable (s : State) (k : Nat) : Bool :=
  let c := s.ctx k
  c.st == .ready && c.thread.isSome && c.yields.all fun o => (s.ctx o).st != .ready

/-- The context can issue its next instruction: selectable on a running clock. -/
def State.canIssue (s : State) (k : Nat) : Bool :=
  s.selectable k && (if isPx k then s.powered else s.clockOn (clusterOfHart k))

/-- A context issues: it is RUNNING for the instruction, it has yielded enough, and those that yield to it wait for one fewer. -/
def State.issued (s : State) (k : Nat) : State :=
  let look (j : Nat) (c : Ctx) : Ctx :=
    if j = k then { c with st := .running, wait := .none }
    else match c.wait with
      | .yield os => { c with wait := .yield (os.filter (· != k)) }
      | _ => c
  { s with harts := s.harts.map fun e => (e.1, look e.1 e.2) }

/-- An instruction retires (R72, Table 03-20). -/
def State.retire (s : State) (k : Nat) : State :=
  let r := s.core (coreKey k)
  let s := s.setCore (coreKey k) { r with instret := (r.instret + 1) % 2 ^ 64 }
  if isPx k then s.count F.PX_CORE_STATS.RETIRED (pxOf k) else s

/-- The context changed and moved past an instruction of len bytes, which retires. -/
def State.finish (s : State) (k len : Nat) (f : Ctx → Ctx) : State :=
  (s.onCtx k fun c => ((f c).next len).ready).retire k

/-- An extent lies in the core-local SRAM of the context's own core; an application core has none (Table 03-4). -/
def ownSram (k a n : Nat) : Bool :=
  !isPx k && decide (lsramBase (coreOf k) ≤ a ∧ a + n ≤ lsramBase (coreOf k) + 0x100000)

/-- A performed access of a standard instruction: it retires at once in the core's own SRAM; elsewhere its context parks until the
response, with the result in its registers, which nobody reads before (R62, R64, R66). -/
def State.complete (s : State) (k len : Nat) (own : Bool) (f : Ctx → Ctx) : State :=
  if own then s.finish k len f else s.onCtx k fun c => (f c).parkResponse len

/-- A faulting address as a record carries it (Table 13-3). -/
def State.faultAddr (s : State) (a : Nat) : Nat := if s.isSelf a then s.global (offOf a) else a

/-- R81, R86: an exception aborts the issuing context. -/
def State.trap (s : State) (k : Nat) (cause : Cause) (a : Option Nat := none) (st : Half := ST.ABORTED) : State :=
  s.raise { ErrInfo.of cause with hart := some k, addr := a.map s.faultAddr, status := st }

/-- The context read or partly wrote an uncorrectable line or word (R301). -/
def State.coreUe (s : State) (k p : Nat) : State := s.uncorrectable p (some k) 0 none ST.ABORTED

/-- Every line or word that its access met, each reported. -/
def State.coreUes (s : State) (k : Nat) (ps : List Nat) : State := ps.foldl (fun s p => s.coreUe k p) s

/-- Where instructions are fetched from: stacks, and for an application core the near tier (Tables 03-4, 03-17). -/
def State.fetchable (s : State) (k a n : Nat) : Bool :=
  s.isSelf a && s.extentIn (fun x => x == .stack || (isPx k && x == .near)) (offOf a) n

/-- An instruction of len bytes issues; act is what it does. The fetch comes first (R81, R301); one from memory in reset parks its
context until the reset ends (R316). In a fenced cluster it completes and performs nothing; aborted tells its status where it has one
(R300, DESIGN CHOICE, log entry 58). Hits and misses of the instruction cache are timing (DESIGN CHOICE, log entry 19). -/
def State.issue (s : State) (k len : Nat) (aborted : Ctx → Ctx) (act : State → State) : State :=
  if !s.canIssue k then s
  else
    let a := (s.ctx k).pc.toNat
    let s := s.issued k
    if a % 2 = 1 then s.trap k .fetchMisaligned (some a)
    else if !s.fetchable k a len then s.trap k .accessFault (some a)
    else if s.memWaits (offOf a) 4 then (s.onCtx k fun c => c.park .fetch).holdOp resetHold (.core (hartOf k))
    else match s.poisonIn (offOf a) len with
      | some p => s.coreUe k p
      | none => if s.packageFenced && !isPx k then s.finish k len aborted else act s

/-! ### Quotas and the request table (R77) -/

/-- The core field of TXN (Table 09-7, DEDUCED, log entry 14). -/
def txnCore (k : Nat) : Nat := if isPx k then pxOf k else coreOf k

/-- Request-table entries in use of a core. -/
def State.entriesOf (s : State) (g : Nat) : List Nat :=
  s.harts.flatMap fun e => if coreKey e.1 = g then e.2.rops.map (·.entry) else []

/-- The generation of an entry's next operation: the next one that no live operation under the same TXN core field has. -/
def State.nextGen (s : State) (g entry : Nat) : Nat :=
  let last := mapGet (fun _ => 0) entry (s.core g).gens
  let used := s.harts.flatMap fun e => if txnCore e.1 = g then (e.2.rops.filter fun r => r.entry == entry).map (·.gen) else []
  (((List.range 4).map fun i => (last + 1 + i) % 4).find? fun x => !used.contains x).getD 0

/-- The entry the next operation takes, none when the quota of 16 or the table is full (R77). -/
def State.freeSlot (s : State) (k : Nat) : Option Nat :=
  let used := s.entriesOf (coreKey k)
  if 16 ≤ (s.ctx k).rops.length then none else (List.range 1024).find? fun i => !used.contains i

/-- A remote operation of a context begins (R77, R205): its entry, its stopwatch from rlim. -/
def State.addRop (s : State) (k entry : Nat) (kind : RopKind) (posted : Bool) (rlim : Nat) : Nat × State :=
  let g := txnCore k
  let r := s.core g
  let gen := s.nextGen g entry
  let s := s.setCore g { r with gens := mapSet (fun _ => 0) entry gen r.gens }
  let n := (s.ctx k).nextOp
  let op : Rop := ⟨n, entry, gen, kind, posted, s.now + rlim, none⟩
  (n, s.onCtx k fun c => { c with rops := c.rops ++ [op], nextOp := n + 1 })

/-- TXN of an operation (Table 09-7). -/
def State.txnOf (s : State) (k n : Nat) : Nat :=
  match (s.ctx k).rops.find? fun r => r.num == n with
  | some r => txnCore k * 4096 + r.entry * 4 + r.gen
  | none => 0

/-- The reply of an operation is there, not yet taken by the core. -/
def State.answer (s : State) (k n : Nat) (st : Half) (data : List Byte) : State :=
  s.onCtx k fun c => { c with rops := c.rops.map fun r => if r.num = n then { r with reply := some (st, data) } else r }

/-- A hand-off of a context to its own package (R202): its answer, or a wait for the region's change or the memory's reset. -/
def State.selfHand (s : State) (k n a operand : Nat) : State :=
  if s.memWaits a then s.holdOp resetHold (.selfHand (hartOf k) n a operand)
  else if s.changing (regionOf a) then s.holdOp (regionHold (regionOf a)) (.selfHand (hartOf k) n a operand)
  else match s.handOff a operand none (.self (hartOf k) n) with
    | (some st, s) => s.answer k n st []
    | (none, s) => s

/-- The hold of an earlier self request of the context, in the same ordered class, that waits (R192). -/
def State.selfOrder (s : State) (k cls : Nat) : Option Nat :=
  if 4 ≤ cls then none
  else (s.heldWrites.find? fun h => match h.op with
    | .self j _ c _ _ => hartKey j == k && c == cls
    | _ => false).map (·.granule)

/-- A self request at its home (R185, R192, R412): performed, or held; live says whether the context still has the operation. -/
def State.selfOp (s : State) (k n cls a : Nat) (op : MemOp) (live : Bool) : State :=
  match s.selfOrder k cls with
  | some g => s.holdOp g (.self (hartOf k) n cls a op)
  | none =>
    match s.homeOp true a op (some k) with
    | (.done d, s) => if live then s.answer k n ST.OK d else s
    | (.held g, s) => s.holdOp g (.self (hartOf k) n cls a op)
    | (.ue p ps, s) => (p :: ps).foldl (fun s p => s.uncorrectable p (if live then some k else none) 0 none ST.ABORTED) s

/-- A self request performed at its home (R185, R412). -/
def State.selfRequest (s : State) (k n : Nat) (pk : Packet) : State :=
  let a := offOf pk.word.toNat
  if pk.type == PT.HAND then s.selfHand k n a (ofLe pk.data)
  else s.selfOp k n pk.cls.toNat a (requestOp pk).1 true

/-- The operation's request leaves for its home: another endpoint, or this package. The source FX's refusals are its
reply (R203). -/
def State.sendRequest (s : State) (k n : Nat) (cls : Nat) (type : BitVec 6) (sub : Nat) (a : Nat) (data : List Byte) : State :=
  let pk := s.mkPacket s.jobTag (epOf a) type cls (s.txnOf k n) sub a data
  if s.isSelf a then s.selfRequest k n pk
  else match s.sendJob pk with
    | .ok s' => s'
    | .error st => s.answer k n st []

/-- Whether an address names a package (R209). -/
def State.epOk (s : State) (a : Nat) : Bool := s.isSelf a || epOf a < 0x4000

/-- Whether a self request reaches its place (Table 08-15); another package's is checked by its home. -/
def State.placeOk (s : State) (a : Nat) (op : MemOp) : Bool := !s.isSelf a || s.selfReach (offOf a) op

/-- The instruction waits for an entry (R77), counted once (Table 03-15). -/
def State.waitQuota (s : State) (k : Nat) (w : Wait) : State :=
  let s := s.onCtx k fun c => c.waits w
  if isPx k then s else s.count F.CMP_CORE_STATS.QUOTA_WAITS (coreOf k)

end Sys2Proof.Machine
end

