-- ==== Sys2Proof/Machine/RvInt.lean ====
section
/-! DEFINITION. RV64IMC on the registers of one context (R59): the fields of an instruction word, compressed
instructions, integer arithmetic, branches. The meaning of a standard instruction is RISC-V's own (PRESUMED, log entry 12). -/

namespace Sys2Proof.Machine

/-! ### Fields -/

def Fw (w : Word32) (hi lo : Nat) : Nat := bitsOf w.toNat hi lo
def opcode (w : Word32) : Nat := Fw w 6 0
def rdOf (w : Word32) : Rg := BitVec.ofNat 5 (Fw w 11 7)
def rs1Of (w : Word32) : Rg := BitVec.ofNat 5 (Fw w 19 15)
def rs2Of (w : Word32) : Rg := BitVec.ofNat 5 (Fw w 24 20)
def rs3Of (w : Word32) : Rg := BitVec.ofNat 5 (Fw w 31 27)
def f3 (w : Word32) : Nat := Fw w 14 12
def f7 (w : Word32) : Nat := Fw w 31 25
def immI (w : Word32) : Nat := sext64 12 (Fw w 31 20)
def immS (w : Word32) : Nat := sext64 12 (f7 w * 32 + Fw w 11 7)
def immB (w : Word32) : Nat := sext64 13 (Fw w 31 31 * 4096 + Fw w 7 7 * 2048 + Fw w 30 25 * 32 + Fw w 11 8 * 2)
def immU (w : Word32) : Nat := sext64 32 (Fw w 31 12 * 4096)
def immJ (w : Word32) : Nat :=
  sext64 21 (Fw w 31 31 * 2 ^ 20 + Fw w 19 12 * 4096 + Fw w 20 20 * 2048 + Fw w 30 21 * 2)

/-- Word layouts, for expanding compressed instructions. -/
def mkR (op f3 f7 rd rs1 rs2 : Nat) : Nat := f7 * 2 ^ 25 + rs2 * 2 ^ 20 + rs1 * 2 ^ 15 + f3 * 2 ^ 12 + rd * 128 + op
def mkI (op f3 rd rs1 imm : Nat) : Nat := imm % 4096 * 2 ^ 20 + rs1 * 2 ^ 15 + f3 * 2 ^ 12 + rd * 128 + op
def mkS (op f3 rs1 rs2 imm : Nat) : Nat :=
  imm % 4096 / 32 * 2 ^ 25 + rs2 * 2 ^ 20 + rs1 * 2 ^ 15 + f3 * 2 ^ 12 + imm % 32 * 128 + op
def mkB (f3 rs1 rs2 imm : Nat) : Nat :=
  bitsOf imm 12 12 * 2 ^ 31 + bitsOf imm 10 5 * 2 ^ 25 + rs2 * 2 ^ 20 + rs1 * 2 ^ 15 + f3 * 2 ^ 12
    + bitsOf imm 4 1 * 256 + bitsOf imm 11 11 * 128 + 0x63
def mkU (op rd imm : Nat) : Nat := imm % 2 ^ 20 * 4096 + rd * 128 + op
def mkJ (rd imm : Nat) : Nat :=
  bitsOf imm 20 20 * 2 ^ 31 + bitsOf imm 10 1 * 2 ^ 21 + bitsOf imm 11 11 * 2 ^ 20 + bitsOf imm 19 12 * 4096 + rd * 128 + 0x6F

/-- The 32-bit instruction a compressed word stands for, none where the encoding is reserved. -/
def expandC (c : Nat) : Option Nat :=
  let b (hi lo : Nat) : Nat := bitsOf c hi lo
  let rd := b 11 7
  let rs2 := b 6 2
  let p1 := 8 + b 9 7
  let p2 := 8 + b 4 2
  let imm6 := ofSigned 12 (toSigned 6 (b 12 12 * 32 + b 6 2))
  let sh := b 12 12 * 32 + b 6 2
  let immW := b 5 5 * 64 + b 12 10 * 8 + b 6 6 * 4
  let immD := b 6 5 * 64 + b 12 10 * 8
  match c % 4, b 15 13 with
  | 0, 0 =>
    let i := b 10 7 * 64 + b 12 11 * 16 + b 5 5 * 8 + b 6 6 * 4
    if i = 0 then none else some (mkI 0x13 0 p2 2 i)
  | 0, 1 => some (mkI 0x07 3 p2 p1 immD)
  | 0, 2 => some (mkI 0x03 2 p2 p1 immW)
  | 0, 3 => some (mkI 0x03 3 p2 p1 immD)
  | 0, 5 => some (mkS 0x27 3 p1 p2 immD)
  | 0, 6 => some (mkS 0x23 2 p1 p2 immW)
  | 0, 7 => some (mkS 0x23 3 p1 p2 immD)
  | 1, 0 => some (mkI 0x13 0 rd rd imm6)
  | 1, 1 => if rd = 0 then none else some (mkI 0x1B 0 rd rd imm6)
  | 1, 2 => some (mkI 0x13 0 rd 0 imm6)
  | 1, 3 =>
    if b 12 12 * 32 + b 6 2 = 0 then none
    else if rd = 2 then
      some (mkI 0x13 0 2 2 (ofSigned 12 (toSigned 10 (b 12 12 * 512 + b 4 3 * 128 + b 5 5 * 64 + b 2 2 * 32 + b 6 6 * 16))))
    else some (mkU 0x37 rd (ofSigned 20 (toSigned 6 (b 12 12 * 32 + b 6 2))))
  | 1, 4 =>
    match b 11 10 with
    | 0 => some (mkI 0x13 5 p1 p1 sh)
    | 1 => some (mkI 0x13 5 p1 p1 (0x400 + sh))
    | 2 => some (mkI 0x13 7 p1 p1 imm6)
    | _ =>
      match b 12 12, b 6 5 with
      | 0, 0 => some (mkR 0x33 0 0x20 p1 p1 p2)
      | 0, 1 => some (mkR 0x33 4 0 p1 p1 p2)
      | 0, 2 => some (mkR 0x33 6 0 p1 p1 p2)
      | 0, 3 => some (mkR 0x33 7 0 p1 p1 p2)
      | _, 0 => some (mkR 0x3B 0 0x20 p1 p1 p2)
      | _, 1 => some (mkR 0x3B 0 0 p1 p1 p2)
      | _, _ => none
  | 1, 5 =>
    some (mkJ 0 (ofSigned 21 (toSigned 12 (b 12 12 * 2048 + b 8 8 * 1024 + b 10 9 * 256 + b 6 6 * 128 + b 7 7 * 64
      + b 2 2 * 32 + b 11 11 * 16 + b 5 3 * 2))))
  | 1, n => -- 6 and 7: C.BEQZ, C.BNEZ
    some (mkB (n - 6) p1 0 (ofSigned 13 (toSigned 9 (b 12 12 * 256 + b 6 5 * 64 + b 2 2 * 32 + b 11 10 * 8 + b 4 3 * 2))))
  | 2, 0 => some (mkI 0x13 1 rd rd sh)
  | 2, 1 => some (mkI 0x07 3 rd 2 (b 4 2 * 64 + b 12 12 * 32 + b 6 5 * 8))
  | 2, 2 => if rd = 0 then none else some (mkI 0x03 2 rd 2 (b 3 2 * 64 + b 12 12 * 32 + b 6 4 * 4))
  | 2, 3 => if rd = 0 then none else some (mkI 0x03 3 rd 2 (b 4 2 * 64 + b 12 12 * 32 + b 6 5 * 8))
  | 2, 4 =>
    if b 12 12 = 0 then
      if rs2 = 0 then (if rd = 0 then none else some (mkI 0x67 0 0 rd 0))
      else some (mkR 0x33 0 0 rd 0 rs2)
    else if rs2 = 0 then (if rd = 0 then some 0x00100073 else some (mkI 0x67 0 1 rd 0))
    else some (mkR 0x33 0 0 rd rd rs2)
  | 2, 5 => some (mkS 0x27 3 2 rs2 (b 9 7 * 64 + b 12 10 * 8))
  | 2, 6 => some (mkS 0x23 2 2 rs2 (b 8 7 * 64 + b 12 9 * 4))
  | 2, 7 => some (mkS 0x23 3 2 rs2 (b 9 7 * 64 + b 12 10 * 8))
  | _, _ => none

/-! ### Integer arithmetic -/

/-- The low 32 bits of a result, sign-extended. -/
def w32 (v : Nat) : Word64 := BitVec.ofNat 64 (sext64 32 v)

/-- Division and remainder truncate; by zero and on overflow they give RISC-V's results (R60). -/
def divS (n : Nat) (a b : Nat) : Nat :=
  let x := toSigned n a
  let y := toSigned n b
  ofSigned n (if y = 0 then -1 else Int.tdiv x y)
def remS (n : Nat) (a b : Nat) : Nat :=
  let x := toSigned n a
  let y := toSigned n b
  ofSigned n (if y = 0 then x else Int.tmod x y)
def divU (n : Nat) (a b : Nat) : Nat := if b = 0 then 2 ^ n - 1 else a / b
def remU (a b : Nat) : Nat := if b = 0 then a else a % b

/-- The M extension on n-bit operands; MULH forms take the upper n bits. -/
def mulDiv (n op a b : Nat) : Nat :=
  let sa := toSigned n a
  let sb := toSigned n b
  match op with
  | 0 => a * b % 2 ^ n
  | 1 => ofSigned n (sa * sb / (2 ^ n : Nat))
  | 2 => ofSigned n (sa * (b : Int) / (2 ^ n : Nat))
  | 3 => a * b / 2 ^ n
  | 4 => divS n a b
  | 5 => divU n a b
  | 6 => remS n a b
  | _ => remU a b

/-- OP and OP-IMM on 64 bits. -/
def alu (op : Nat) (alt : Bool) (a b : Word64) : Word64 :=
  let sh := b.toNat % 64
  match op with
  | 0 => if alt then a - b else a + b
  | 1 => a <<< sh
  | 2 => BitVec.ofNat 64 (b2n (a.slt b))
  | 3 => BitVec.ofNat 64 (b2n (a.ult b))
  | 4 => a ^^^ b
  | 5 => if alt then a.sshiftRight sh else a >>> sh
  | 6 => a ||| b
  | _ => a &&& b

/-- OP-32 and OP-IMM-32. -/
def aluW (op : Nat) (alt : Bool) (a b : Word64) : Option Word64 :=
  let x := a.toNat % 2 ^ 32
  let sh := b.toNat % 32
  match op with
  | 0 => some (if alt then w32 (x + 2 ^ 32 - b.toNat % 2 ^ 32) else w32 (x + b.toNat))
  | 1 => some (w32 (x * 2 ^ sh))
  | 5 => some (if alt then w32 (ofSigned 32 (toSigned 32 x / (2 ^ sh : Nat))) else w32 (x / 2 ^ sh))
  | _ => none

/-- OP (0x33), OP-32 (0x3B). -/
def opResult (w : Word32) (a b : Word64) : Option Word64 :=
  let wide := opcode w == 0x33
  match f7 w with
  | 0 => if wide then some (alu (f3 w) false a b) else aluW (f3 w) false a b
  | 0x20 =>
    if f3 w != 0 && f3 w != 5 then none
    else if wide then some (alu (f3 w) true a b) else aluW (f3 w) true a b
  | 1 =>
    if wide then some (BitVec.ofNat 64 (mulDiv 64 (f3 w) a.toNat b.toNat))
    else if 1 ≤ f3 w && f3 w ≤ 3 then none
    else some (w32 (mulDiv 32 (f3 w) (a.toNat % 2 ^ 32) (b.toNat % 2 ^ 32)))
  | _ => none

/-- OP-IMM (0x13), OP-IMM-32 (0x1B). -/
def opImmResult (w : Word32) (a : Word64) : Option Word64 :=
  let i := BitVec.ofNat 64 (immI w)
  let shamt := Fw w 25 20
  if opcode w = 0x13 then
    match f3 w with
    | 1 => if Fw w 31 26 = 0 then some (alu 1 false a (BitVec.ofNat 64 shamt)) else none
    | 5 =>
      if Fw w 31 26 = 0 then some (alu 5 false a (BitVec.ofNat 64 shamt))
      else if Fw w 31 26 = 0x10 then some (alu 5 true a (BitVec.ofNat 64 shamt)) else none
    | op => some (alu op false a i)
  else
    match f3 w with
    | 0 => aluW 0 false a i
    | 1 => if f7 w = 0 then aluW 1 false a (BitVec.ofNat 64 shamt) else none
    | 5 =>
      if f7 w = 0 then aluW 5 false a (BitVec.ofNat 64 shamt)
      else if f7 w = 0x20 then aluW 5 true a (BitVec.ofNat 64 shamt) else none
    | _ => none

/-- Branch conditions; none for the two reserved codes. -/
def branchTaken (op : Nat) (a b : Word64) : Option Bool :=
  match op with
  | 0 => some (a == b) | 1 => some (a != b) | 4 => some (a.slt b) | 5 => some (!a.slt b)
  | 6 => some (a.ult b) | 7 => some (!a.ult b) | _ => none

/-- Instructions that only compute and jump, with len the instruction's bytes: the context after, none for an encoding
outside this group. -/
def intExec (c : Ctx) (w : Word32) (len : Nat) : Option Ctx :=
  let rd := rdOf w
  let a := c.xr (rs1Of w)
  let b := c.xr (rs2Of w)
  let nx := c.pc + BitVec.ofNat 64 len
  let put (v : Word64) : Ctx := { c.setX rd v with pc := nx }
  match opcode w with
  | 0x37 => some (put (BitVec.ofNat 64 (immU w)))
  | 0x17 => some (put (c.pc + BitVec.ofNat 64 (immU w)))
  | 0x6F => some { c.setX rd nx with pc := c.pc + BitVec.ofNat 64 (immJ w) }
  | 0x67 =>
    if f3 w != 0 then none
    else some { c.setX rd nx with pc := (a + BitVec.ofNat 64 (immI w)) &&& ~~~1 }
  | 0x63 => (branchTaken (f3 w) a b).map fun t => { c with pc := if t then c.pc + BitVec.ofNat 64 (immB w) else nx }
  | 0x13 | 0x1B => (opImmResult w a).map put
  | 0x33 | 0x3B => (opResult w a b).map put
  | _ => none

end Sys2Proof.Machine
end

