-- ==== Sys2Proof/Machine/RvFp.lean ====
section
/-! DEFINITION. RV64FD on the registers of one context (R59, R60): computation, conversion, comparison. Exceptions only
accrue in fflags (R60). -/

namespace Sys2Proof.Machine

/-- NaN boxing of single values. -/
def boxed (v : Nat) : Word64 := BitVec.ofNat 64 (0xFFFFFFFF00000000 + v % 2 ^ 32)
def unboxed (v : Word64) : Nat := if v.toNat / 2 ^ 32 = 0xFFFFFFFF then v.toNat % 2 ^ 32 else fp32.nan

/-- An FP register in a format, read and written. -/
def Ctx.fget (c : Ctx) (f : Fmt) (r : Rg) : Nat := if f = fp32 then unboxed (c.fr r) else (c.fr r).toNat
def Ctx.fput (c : Ctx) (f : Fmt) (r : Rg) (v : Nat) : Ctx := c.setF r (if f = fp32 then boxed v else BitVec.ofNat 64 v)

/-- Flags accrue. -/
def Ctx.accrue (c : Ctx) (fl : Flags) : Ctx := { c with fflags := c.fflags ||| BitVec.ofNat 5 fl }

/-- The rounding mode of an instruction: its own or frm's, none where reserved. -/
def Ctx.rm (c : Ctx) (rm : Nat) : Option Nat :=
  let m := if rm = 7 then c.frm.toNat else rm
  if m ≤ 4 then some m else none

/-- fmt field: 0 single, 1 double. -/
def fmtField (w : Word32) : Option Fmt :=
  match Fw w 26 25 with
  | 0 => some fp32 | 1 => some fp64 | _ => none

/-- FMADD, FMSUB, FNMSUB, FNMADD. -/
def fpFused (c : Ctx) (w : Word32) (f : Fmt) (rm : Nat) : Ctx :=
  let a := c.fget f (rs1Of w)
  let b := c.fget f (rs2Of w)
  let d := c.fget f (rs3Of w)
  let a := if opcode w = 0x4B || opcode w = 0x4F then fpNeg f a else a
  let d := if opcode w = 0x47 || opcode w = 0x4F then fpNeg f d else d
  let (r, fl) := fpFma f rm a b d
  (c.fput f (rdOf w) r).accrue fl

/-- Sign injection: 0 copies, 1 negates, 2 xors. -/
def fpSgnj (f : Fmt) (op a b : Nat) : Option Nat :=
  let sign := f.signBit true
  let m := a % sign
  match op with
  | 0 => some (m + b / sign % 2 * sign)
  | 1 => some (m + (1 - b / sign % 2) * sign)
  | 2 => some (m + (a / sign + b / sign) % 2 * sign)
  | _ => none

/-- Conversion to an integer register: rs2 codes W, WU, L, LU. -/
def fpToReg (f : Fmt) (rm code a : Nat) : Option (Word64 × Flags) :=
  match code with
  | 0 => let (v, fl) := fpToInt f rm 32 true a; some (w32 v, fl)
  | 1 => let (v, fl) := fpToInt f rm 32 false a; some (w32 v, fl)
  | 2 => let (v, fl) := fpToInt f rm 64 true a; some (BitVec.ofNat 64 v, fl)
  | 3 => let (v, fl) := fpToInt f rm 64 false a; some (BitVec.ofNat 64 v, fl)
  | _ => none
def fpFromReg (f : Fmt) (rm code : Nat) (x : Word64) : Option (Nat × Flags) :=
  match code with
  | 0 => some (fpOfInt f rm (toSigned 32 x.toNat))
  | 1 => some (fpOfInt f rm (x.toNat % 2 ^ 32 : Nat))
  | 2 => some (fpOfInt f rm (toSigned 64 x.toNat))
  | 3 => some (fpOfInt f rm (x.toNat : Int))
  | _ => none

/-- OP-FP (0x53), none for a reserved encoding. -/
def opFp (c : Ctx) (w : Word32) : Option Ctx :=
  (fmtField w).bind fun f =>
    let a := c.fget f (rs1Of w)
    let b := c.fget f (rs2Of w)
    let rs2 := Fw w 24 20
    let rm := c.rm (f3 w)
    let res (r : Nat × Flags) : Ctx := (c.fput f (rdOf w) r.1).accrue r.2
    let int (r : Word64 × Flags) : Ctx := (c.setX (rdOf w) r.1).accrue r.2
    match Fw w 31 27 with
    | 0x00 => rm.map fun m => res (fpAdd f m a b)
    | 0x01 => rm.map fun m => res (fpSub f m a b)
    | 0x02 => rm.map fun m => res (fpMul f m a b)
    | 0x03 => rm.map fun m => res (fpDiv f m a b)
    | 0x0B => if rs2 = 0 then rm.map fun m => res (fpSqrt f m a) else none
    | 0x04 => (fpSgnj f (f3 w) a b).map fun v => res (v, 0)
    | 0x05 => if f3 w ≤ 1 then some (res (fpMinMax f (f3 w == 1) a b)) else none
    | 0x08 =>
      -- FCVT.S.D and FCVT.D.S
      if f = fp32 && rs2 = 1 then rm.map fun m => res (fpCvt fp64 fp32 m (c.fget fp64 (rs1Of w)))
      else if f = fp64 && rs2 = 0 then rm.map fun m => res (fpCvt fp32 fp64 m (c.fget fp32 (rs1Of w)))
      else none
    | 0x14 =>
      let cmp (r : Bool × Flags) : Ctx := int (BitVec.ofNat 64 (b2n r.1), r.2)
      match f3 w with
      | 0 => some (cmp (fpLe f a b)) | 1 => some (cmp (fpLt f a b)) | 2 => some (cmp (fpEq f a b)) | _ => none
    | 0x18 => rm.bind fun m => (fpToReg f m rs2 a).map int
    | 0x1A => rm.bind fun m => (fpFromReg f m rs2 (c.xr (rs1Of w))).map res
    | 0x1C =>
      if rs2 != 0 then none
      else match f3 w with
        | 0 => some (c.setX (rdOf w) (if f = fp32 then w32 (c.fr (rs1Of w)).toNat else c.fr (rs1Of w)))
        | 1 => some (c.setX (rdOf w) (BitVec.ofNat 64 (fpClass f a)))
        | _ => none
    | 0x1E => if rs2 = 0 && f3 w = 0 then some (c.fput f (rdOf w) (c.xr (rs1Of w)).toNat) else none
    | _ => none

/-- Floating-point computation: the context after, none for an encoding outside this group. -/
def fpExec (c : Ctx) (w : Word32) (len : Nat) : Option Ctx :=
  let go (o : Option Ctx) : Option Ctx := o.map fun c' => { c' with pc := c.pc + BitVec.ofNat 64 len }
  match opcode w with
  | 0x43 | 0x47 | 0x4B | 0x4F => go ((fmtField w).bind fun f => (c.rm (f3 w)).map (fpFused c w f))
  | 0x53 => go (opFp c w)
  | _ => none

end Sys2Proof.Machine
end

