-- ==== Sys2Proof/Machine/RvVec.lean ====
section
/-! DEFINITION. The V extension (RVV 1.0, VLEN = 256, ELEN = 64; R59) on the registers of one context: configuration,
element access, integer, fixed-point, floating-point, mask and permutation instructions. Their meaning is RVV's own (PRESUMED, log
entry 13). -/

namespace Sys2Proof.Machine

/-! ### Configuration -/

/-- SEW and eight times LMUL of a vtype, none for one that sets vill. -/
def vtypeOf (v : Nat) : Option (Nat × Nat) :=
  let l8 := match v % 8 with
    | 0 => 8 | 1 => 16 | 2 => 32 | 3 => 64 | 5 => 1 | 6 => 2 | 7 => 4 | _ => 0
  let sew := 8 * 2 ^ bitsOf v 5 3
  if 256 ≤ v || l8 = 0 || 64 < sew || (l8 < 8 && 8 * l8 < sew) then none else some (sew, l8)

def vlmax (sew l8 : Nat) : Nat := l8 * 32 / sew

/-- vsetvli, vsetivli, vsetvl. -/
def vsetExec (c : Ctx) (w : Word32) (len : Nat) : Option Ctx :=
  let rd := rdOf w
  let rs1 := rs1Of w
  let nx := c.pc + BitVec.ofNat 64 len
  let set (vt : Nat) (avl : Option Nat) : Ctx :=
    match vtypeOf vt with
    | none => { (c.setX rd 0) with vtype := BitVec.ofNat 64 (2 ^ 63), vl := 0, vstart := 0, pc := nx }
    | some (sew, l8) =>
      let vl := Nat.min (avl.getD c.vl) (vlmax sew l8)
      { (c.setX rd (BitVec.ofNat 64 vl)) with vtype := BitVec.ofNat 64 vt, vl := vl, vstart := 0, pc := nx }
  let avl : Option Nat :=
    if rs1 != 0 then some (c.xr rs1).toNat else if rd != 0 then some (2 ^ 64 - 1) else none
  if Fw w 31 31 = 0 then some (set (Fw w 30 20) avl)
  else if Fw w 31 30 = 3 then some (set (Fw w 29 20) (some (Fw w 19 15)))
  else if f7 w = 0x40 then some (set (c.xr (rs2Of w)).toNat avl)
  else none

/-! ### Elements -/

/-- Element i of a width in the group at a base register, and the group with it replaced. -/
def Ctx.velem (c : Ctx) (base eew i : Nat) : Nat := (c.vr (base + i * eew / 256)).toNat / 2 ^ (i * eew % 256) % 2 ^ eew
def Ctx.setElem (c : Ctx) (base eew i v : Nat) : Ctx :=
  let r := base + i * eew / 256
  let sh := i * eew % 256
  let old := (c.vr r).toNat
  c.setV r (BitVec.ofNat 256 (old - old / 2 ^ sh % 2 ^ eew * 2 ^ sh + v % 2 ^ eew * 2 ^ sh))
/-- Bit i of a mask register. -/
def Ctx.mbit (c : Ctx) (r i : Nat) : Bool := bitOf (c.vr r).toNat i

/-- A vector instruction's setting: SEW, eight times LMUL, whether unmasked, the free word that decides agnostic
elements (PRESUMED, log entry 13). -/
structure VI where
  c    : Ctx
  sew  : Nat
  l8   : Nat
  vm   : Bool
  free : Word64
  vd   : Nat
  vs1  : Nat
  vs2  : Nat

def VI.vta (v : VI) : Bool := bitOf v.c.vtype.toNat 6
def VI.vma (v : VI) : Bool := bitOf v.c.vtype.toNat 7
def VI.vlmax (v : VI) : Nat := Machine.vlmax v.sew v.l8
def VI.active (v : VI) (i : Nat) : Bool := v.vm || v.c.mbit 0 i
/-- An agnostic element: left, or all ones. -/
def VI.agn (v : VI) (i eew old : Nat) : Nat := if bitOf v.free.toNat (i % 64) then 2 ^ eew - 1 else old

/-- Eight times EMUL of an EEW, none outside 1/8 to 8. -/
def VI.emul (v : VI) (eew : Nat) : Option Nat :=
  let n := eew * v.l8
  if n < v.sew || 64 * v.sew < n then none else some (n / v.sew)
/-- Registers of a group. -/
def nregs (e8 : Nat) : Nat := Nat.max 1 (e8 / 8)

/-- The group of an EEW at a base register is aligned. -/
def VI.group (v : VI) (base eew : Nat) : Bool :=
  match v.emul eew with
  | some e => base % nregs e == 0
  | none => false

/-- A destination may overlap a source of another width only in the parts RVV allows; a masked destination is not v0. -/
def VI.apart (v : VI) (dEew src sEew : Nat) : Bool :=
  match v.emul dEew, v.emul sEew with
  | some d, some s =>
    let nd := nregs d
    let ns := nregs s
    let meet := v.vd < src + ns && src < v.vd + nd
    !meet || dEew == sEew || (dEew < sEew && v.vd == src) || (sEew < dEew && 8 ≤ s && src + ns == v.vd + nd)
  | _, _ => false
def VI.noMask (v : VI) : Bool := v.vm || v.vd != 0
/-- Sources and the destination of a width are groups of it. -/
def VI.ok (v : VI) (dEew eew2 : Nat) (eew1 : Option Nat) : Bool :=
  v.noMask && v.group v.vd dEew && v.group v.vs2 eew2 && v.apart dEew v.vs2 eew2 && (v.vm || v.vs2 != 0)
    && eew1.all fun e => v.group v.vs1 e && v.apart dEew v.vs1 e && (v.vm || v.vs1 != 0)
/-- A mask destination over sources of SEW. -/
def VI.okMask (v : VI) (eew1 : Option Nat) : Bool :=
  let part (src eew : Nat) : Bool := match v.emul eew with
    | some e => src % nregs e == 0 && (v.vd == src || v.vd < src || src + nregs e ≤ v.vd)
    | none => false
  part v.vs2 v.sew && (v.vm || v.vs2 != 0) && eew1.all fun e => part v.vs1 e && (v.vm || v.vs1 != 0)

/-- Flag bits: fflags in [4:0], vxsat in [5]. -/
def Ctx.vflags (c : Ctx) (fl : Nat) : Ctx :=
  { c.accrue (fl % 32) with vxsat := if bitOf fl 5 then 1 else c.vxsat }

/-- The elements of a destination of width eew: body elements by f, inactive and tail ones by policy. -/
def VI.loop (v : VI) (eew : Nat) (f : Nat → Nat → Nat × Nat) : Ctx :=
  let c := v.c
  if c.vl ≤ c.vstart then { c with vstart := 0 }
  else
    let total := Nat.max ((v.emul eew).getD 8 * 32 / eew) (256 / eew)
    let r := foldRange total (fun (r : Ctx × Nat) i =>
      let old := r.1.velem v.vd eew i
      if i < c.vstart then r
      else if i < c.vl then
        if v.active i then
          let (x, fl) := f i old
          (r.1.setElem v.vd eew i x, r.2 ||| fl)
        else if v.vma then (r.1.setElem v.vd eew i (v.agn i eew old), r.2)
        else r
      else if v.vta then (r.1.setElem v.vd eew i (v.agn i eew old), r.2)
      else r) (c, 0)
    { r.1.vflags r.2 with vstart := 0 }

/-- The bits of a mask destination; its tail is always agnostic. -/
def VI.maskLoop (v : VI) (masked : Bool) (f : Nat → Bool × Nat) : Ctx :=
  let c := v.c
  if c.vl ≤ c.vstart then { c with vstart := 0 }
  else
    let r := foldRange 256 (fun (r : Ctx × Nat) i =>
      let old := b2n (r.1.mbit v.vd i)
      if i < c.vstart then r
      else if i < c.vl then
        if !masked || v.active i then
          let (x, fl) := f i
          (r.1.setElem v.vd 1 i (b2n x), r.2 ||| fl)
        else if v.vma then (r.1.setElem v.vd 1 i (v.agn i 1 old), r.2)
        else r
      else (r.1.setElem v.vd 1 i (v.agn i 1 old), r.2)) (c, 0)
    { r.1.vflags r.2 with vstart := 0 }

/-- Element 0 of the destination written, the rest of it tail: reductions and vmv.s.x. -/
def VI.scalar (v : VI) (eew x fl : Nat) : Ctx :=
  let c := v.c
  if c.vl ≤ c.vstart then { c with vstart := 0 }
  else
    let r := foldRange (256 / eew) (fun (r : Ctx) i =>
      if i = 0 then r.setElem v.vd eew 0 x
      else if v.vta then r.setElem v.vd eew i (v.agn i eew (r.velem v.vd eew i)) else r) c
    { r.vflags fl with vstart := 0 }

/-! ### Integer and fixed-point elements -/

/-- Rounding of v / 2^d by vxrm. -/
def vround (mode d : Nat) (v : Int) : Int :=
  let p : Int := (2 ^ d : Nat)
  let q := v / p
  let r := v % p
  let up : Bool := match mode with
    | 0 => decide (p ≤ 2 * r) && d != 0
    | 1 => decide (p < 2 * r) || (decide (2 * r = p) && decide (q % 2 = 1))
    | 2 => false
    | _ => decide (q % 2 = 0) && decide (r ≠ 0)
  if up then q + 1 else q

/-- Saturation to n bits, with the vxsat flag. -/
def satS (n : Nat) (v : Int) : Nat × Nat :=
  let hi : Int := (2 ^ (n - 1) : Nat) - 1
  let lo : Int := -(2 ^ (n - 1) : Nat)
  if v < lo then (ofSigned n lo, 32) else if hi < v then (ofSigned n hi, 32) else (ofSigned n v, 0)
def satU (n : Nat) (v : Int) : Nat × Nat :=
  if v < 0 then (0, 32) else if (2 ^ n : Nat) ≤ v then (2 ^ n - 1, 32) else (v.toNat, 0)

/-- Single-width OPI operations: a of vs2, b the other operand. -/
def opiElem (f6 n xrm a b : Nat) : Option (Nat × Nat) :=
  let sa := toSigned n a
  let sb := toSigned n b
  let m (x : Nat) : Option (Nat × Nat) := some (x % 2 ^ n, 0)
  let i (x : Int) : Option (Nat × Nat) := some (ofSigned n x, 0)
  let sh := b % n
  match f6 with
  | 0x00 => m (a + b)
  | 0x02 => i ((a : Int) - b)
  | 0x03 => i ((b : Int) - a)
  | 0x04 => m (Nat.min a b)
  | 0x05 => i (min sa sb)
  | 0x06 => m (Nat.max a b)
  | 0x07 => i (max sa sb)
  | 0x09 => m (a.land b)
  | 0x0A => m (a.lor b)
  | 0x0B => m (a.xor b)
  | 0x20 => some (satU n ((a : Int) + b))
  | 0x21 => some (satS n (sa + sb))
  | 0x22 => some (satU n ((a : Int) - b))
  | 0x23 => some (satS n (sa - sb))
  | 0x25 => m (a * 2 ^ sh)
  | 0x27 => some (satS n (vround xrm (n - 1) (sa * sb)))
  | 0x28 => m (a / 2 ^ sh)
  | 0x29 => i (sa / (2 ^ sh : Nat))
  | 0x2A => i (vround xrm sh a)
  | 0x2B => i (vround xrm sh sa)
  | _ => none

/-- The forms an OPI operation has: funct3 0 vv, 3 vi, 4 vx. -/
def opiForm (f6 form : Nat) : Bool :=
  if f6 = 0x03 then form != 0
  else if f6 = 0x02 || (4 ≤ f6 && f6 ≤ 7) || f6 = 0x22 || f6 = 0x23 || f6 = 0x27 then form != 3
  else true

/-- Integer comparisons, none for a form that is not there. -/
def cmpElem (f6 form n a b : Nat) : Option Bool :=
  let sa := toSigned n a
  let sb := toSigned n b
  match f6 with
  | 0x18 => some (a == b)
  | 0x19 => some (a != b)
  | 0x1A => if form = 3 then none else some (a < b)
  | 0x1B => if form = 3 then none else some (sa < sb)
  | 0x1C => some (a ≤ b)
  | 0x1D => some (sa ≤ sb)
  | 0x1E => if form = 0 then none else some (b < a)
  | 0x1F => if form = 0 then none else some (sb < sa)
  | _ => none

/-- Single-width OPM operations; d is the old destination element. -/
def opmElem (f6 n xrm a b d : Nat) : Option (Nat × Nat) :=
  let sa := toSigned n a
  let sb := toSigned n b
  let i (x : Int) : Option (Nat × Nat) := some (ofSigned n x, 0)
  match f6 with
  | 0x08 => i (vround xrm 1 ((a : Int) + b))
  | 0x09 => i (vround xrm 1 (sa + sb))
  | 0x0A => i (vround xrm 1 ((a : Int) - b))
  | 0x0B => i (vround xrm 1 (sa - sb))
  | 0x20 => some (divU n a b, 0)
  | 0x21 => some (divS n a b, 0)
  | 0x22 => some (remU a b, 0)
  | 0x23 => some (remS n a b, 0)
  | 0x24 => some (mulDiv n 3 a b, 0)
  | 0x25 => some (mulDiv n 0 a b, 0)
  | 0x26 => some (mulDiv n 2 a b, 0)
  | 0x27 => some (mulDiv n 1 a b, 0)
  | 0x29 => i ((b : Int) * d + a)
  | 0x2B => i (-((b : Int) * d) + a)
  | 0x2D => i ((b : Int) * a + d)
  | 0x2F => i (-((b : Int) * a) + d)
  | _ => none

/-- Widening OPM operations: n is SEW, d the old element of 2 × SEW; a is already wide for 0x34 to 0x37. -/
def widenElem (f6 form n a b d : Nat) : Option (Nat × Nat) :=
  let sa := toSigned n a
  let sb := toSigned n b
  let wa := toSigned (2 * n) a
  let i (x : Int) : Option (Nat × Nat) := some (ofSigned (2 * n) x, 0)
  match f6 with
  | 0x30 => i ((a : Int) + b) | 0x31 => i (sa + sb) | 0x32 => i ((a : Int) - b) | 0x33 => i (sa - sb)
  | 0x34 => i ((a : Int) + b) | 0x35 => i (wa + sb) | 0x36 => i ((a : Int) - b) | 0x37 => i (wa - sb)
  | 0x38 => i ((a : Int) * b) | 0x3A => i (sa * b) | 0x3B => i (sa * sb)
  | 0x3C => i ((a : Int) * b + d) | 0x3D => i (sa * sb + d)
  | 0x3E => if form = 2 then none else i (sa * b + d)
  | 0x3F => i ((a : Int) * sb + d)
  | _ => none

/-- Reductions of OPM. -/
def redElem (f6 n acc x : Nat) : Nat :=
  match f6 with
  | 0 => (acc + x) % 2 ^ n
  | 1 => acc.land x
  | 2 => acc.lor x
  | 3 => acc.xor x
  | 4 => Nat.min acc x
  | 5 => if toSigned n x < toSigned n acc then x else acc
  | 6 => Nat.max acc x
  | _ => if toSigned n acc < toSigned n x then x else acc

/-- A reduction over the active elements of vs2, from the first element of vs1. -/
def VI.reduce {α : Type} (v : VI) (a : α) (f : α → Nat → α) : α :=
  foldRange v.c.vl (fun (a : α) i => if v.active i then f a i else a) a

/-! ### Permutations -/

/-- The elements of vs2 by an index function: 0 from VLMAX on. -/
def VI.gather (v : VI) (idx : Nat → Nat) : Ctx :=
  v.loop v.sew fun i _ => let j := idx i; (if j < v.vlmax then v.c.velem v.vs2 v.sew j else 0, 0)

/-- A destination group that meets no source group of EEW (vrgather, vslideup, vcompress, viota). -/
def VI.clear (v : VI) (src eew : Nat) : Bool :=
  match v.emul v.sew, v.emul eew with
  | some d, some s => !(v.vd < src + nregs s && src < v.vd + nregs d)
  | _, _ => false

def VI.slideUp (v : VI) (off : Nat) : Ctx :=
  v.loop v.sew fun i old => (if i < off then old else v.c.velem v.vs2 v.sew (i - off), 0)
def VI.slideDown (v : VI) (off : Nat) : Ctx :=
  v.loop v.sew fun i _ => (if i + off < v.vlmax then v.c.velem v.vs2 v.sew (i + off) else 0, 0)
def VI.slide1Up (v : VI) (x : Nat) : Ctx :=
  v.loop v.sew fun i _ => (if i = 0 then x else v.c.velem v.vs2 v.sew (i - 1), 0)
def VI.slide1Down (v : VI) (x : Nat) : Ctx :=
  v.loop v.sew fun i _ => (if i + 1 = v.c.vl then x else v.c.velem v.vs2 v.sew (i + 1), 0)

/-- vmv<nr>r.v. -/
def VI.moveRegs (v : VI) (n : Nat) : Ctx :=
  let per := 256 / v.sew
  let c := foldRange n (fun (r : Ctx) k =>
    foldRange per (fun (r : Ctx) j =>
      let i := k * per + j
      if i < v.c.vstart then r else r.setElem v.vd v.sew i (v.c.velem v.vs2 v.sew i)) r) v.c
  { c with vstart := 0 }

/-- vcompress. -/
def VI.compress (v : VI) : Ctx :=
  let c := v.c
  if c.vl = 0 then c
  else
    let r := foldRange c.vl (fun (r : Ctx × Nat) i =>
      if c.mbit v.vs1 i then (r.1.setElem v.vd v.sew r.2 (c.velem v.vs2 v.sew i), r.2 + 1) else r) (c, 0)
    let total := Nat.max (v.l8 * 32 / v.sew) (256 / v.sew)
    foldRange total (fun (q : Ctx) i =>
      if r.2 ≤ i && v.vta then q.setElem v.vd v.sew i (v.agn i v.sew (q.velem v.vd v.sew i)) else q) r.1

/-! ### OPI -/

/-- The other operand of OPI: element i of vs1, the immediate, or an integer register. -/
def VI.opB (v : VI) (w : Word32) (unsigned : Bool) (n i : Nat) : Nat :=
  match f3 w with
  | 0 => v.c.velem v.vs1 n i
  | 3 => if unsigned then v.vs1 else ofSigned n (toSigned 5 v.vs1)
  | _ => (v.c.xr (rs1Of w)).toNat % 2 ^ n

def VI.opi (v : VI) (w : Word32) : Option Ctx :=
  let f6 := Fw w 31 26
  let form := f3 w
  let n := v.sew
  let xrm := v.c.vxrm.toNat
  let vv := form == 0
  let e1 : Option Nat := if vv then some n else none
  let a (i : Nat) : Nat := v.c.velem v.vs2 n i
  let shifts := f6 == 0x25 || (0x28 ≤ f6 && f6 ≤ 0x2B)
  let b (i : Nat) : Nat := v.opB w shifts n i
  let scalarX : Nat := if form = 3 then v.vs1 else (v.c.xr (rs1Of w)).toNat
  if (opiElem f6 n xrm 0 0).isSome && !(f6 == 0x27 && form == 3) then
    if !opiForm f6 form || !v.ok n n e1 then none
    else some (v.loop n fun i _ => (opiElem f6 n xrm (a i) (b i)).getD (0, 0))
  else if 0x18 ≤ f6 && f6 ≤ 0x1F then
    if (cmpElem f6 form n 0 0).isNone || !v.okMask e1 then none
    else some (v.maskLoop true fun i => ((cmpElem f6 form n (a i) (b i)).getD false, 0))
  else match f6 with
    | 0x0C =>
      if !v.ok n n e1 || !v.clear v.vs2 n || (vv && !v.clear v.vs1 n) then none
      else some (v.gather fun i => if vv then v.c.velem v.vs1 n i else scalarX)
    | 0x0E =>
      if vv then
        if !v.ok n n none || !v.group v.vs1 16 || !v.apart n v.vs1 16 || !v.clear v.vs2 n || !v.clear v.vs1 16 then none
        else some (v.gather fun i => v.c.velem v.vs1 16 i)
      else if !v.ok n n none || !v.clear v.vs2 n then none
      else some (v.slideUp scalarX)
    | 0x0F => if vv || !v.ok n n none then none else some (v.slideDown scalarX)
    | 0x10 | 0x12 =>
      if v.vm || v.vd = 0 || (f6 = 0x12 && form = 3) || !({ v with vm := true } : VI).ok n n e1 then none
      else
        let sub := f6 == 0x12
        some (({ v with vm := true } : VI).loop n fun i _ =>
          let k : Int := b2n (v.c.mbit 0 i)
          (ofSigned n (if sub then (a i : Int) - b i - k else (a i : Int) + b i + k), 0))
    | 0x11 | 0x13 =>
      if (f6 = 0x13 && form = 3) || !({ v with vm := true } : VI).okMask e1 then none
      else some (v.maskLoop false fun i =>
        let k := if v.vm then 0 else b2n (v.c.mbit 0 i)
        (if f6 = 0x11 then decide (2 ^ n ≤ a i + b i + k) else decide (a i < b i + k), 0))
    | 0x17 =>
      if v.vm then
        if v.vs2 != 0 || !v.group v.vd n || (vv && !v.group v.vs1 n) then none
        else some (v.loop n fun i _ => (b i, 0))
      else if v.vd = 0 || !({ v with vm := true } : VI).ok n n e1 then none
      else some (({ v with vm := true } : VI).loop n fun i _ => (if v.c.mbit 0 i then b i else a i, 0))
    | 0x27 =>
      let k := v.vs1 + 1
      if !v.vm || !(k == 1 || k == 2 || k == 4 || k == 8) || v.vd % k != 0 || v.vs2 % k != 0 then none
      else some (v.moveRegs k)
    | 0x2C | 0x2D | 0x2E | 0x2F =>
      if 64 < 2 * n || !v.ok n (2 * n) e1 then none
      else
        some (v.loop n fun i _ =>
          let x := v.c.velem v.vs2 (2 * n) i
          let sh := v.opB w true n i % (2 * n)
          match f6 with
          | 0x2C => (x / 2 ^ sh % 2 ^ n, 0)
          | 0x2D => (ofSigned n (toSigned (2 * n) x / (2 ^ sh : Nat)), 0)
          | 0x2E => satU n (vround xrm sh x)
          | _ => satS n (vround xrm sh (toSigned (2 * n) x)))
    | 0x30 | 0x31 =>
      if !vv || v.c.vstart != 0 || 64 < 2 * n || !v.group v.vs2 n then none
      else
        let ext (x : Nat) : Nat := if f6 = 0x30 then x else ofSigned (2 * n) (toSigned n x)
        let r := v.reduce (v.c.velem v.vs1 (2 * n) 0) fun acc i => (acc + ext (a i)) % 2 ^ (2 * n)
        some (v.scalar (2 * n) r 0)
    | _ => none

/-! ### OPM -/

/-- vmsbf, vmsof, vmsif: whether an earlier active bit was set, and this bit. -/
def VI.setFirst (v : VI) (code : Nat) : Ctx :=
  let first := (List.range v.c.vl).find? fun i => v.active i && v.c.mbit v.vs2 i
  v.maskLoop true fun i =>
    (match first with
      | none => code != 2
      | some k => if code = 1 then decide (i < k) else if code = 2 then i == k else decide (i ≤ k), 0)

def VI.opm (v : VI) (w : Word32) : Option Ctx :=
  let f6 := Fw w 31 26
  let vv := f3 w == 2
  let n := v.sew
  let c := v.c
  let xrm := c.vxrm.toNat
  let e1 : Option Nat := if vv then some n else none
  let a (i : Nat) : Nat := c.velem v.vs2 n i
  let x := (c.xr (rs1Of w)).toNat
  let b (i : Nat) : Nat := if vv then c.velem v.vs1 n i else x % 2 ^ n
  if (opmElem f6 n xrm 0 0 0).isSome then
    if !v.ok n n e1 then none else some (v.loop n fun i d => (opmElem f6 n xrm (a i) (b i) d).getD (0, 0))
  else if (widenElem f6 (f3 w) n 0 0 0).isSome then
    let wide := 0x34 ≤ f6 && f6 ≤ 0x37
    if 64 < 2 * n || !v.ok (2 * n) (if wide then 2 * n else n) e1 then none
    else some (v.loop (2 * n) fun i d =>
      (widenElem f6 (f3 w) n (if wide then c.velem v.vs2 (2 * n) i else a i) (b i) d).getD (0, 0))
  else if f6 < 8 then
    if !vv || c.vstart != 0 || !v.group v.vs2 n then none
    else some (v.scalar n (v.reduce (c.velem v.vs1 n 0) fun acc i => redElem f6 n acc (a i)) 0)
  else if 0x18 ≤ f6 then
    if !vv || !v.vm || 0x20 ≤ f6 then none
    else some (v.maskLoop false fun i =>
      let p := c.mbit v.vs2 i
      let q := c.mbit v.vs1 i
      (match f6 with
        | 0x18 => p && !q | 0x19 => p && q | 0x1A => p || q | 0x1B => p != q
        | 0x1C => p || !q | 0x1D => !(p && q) | 0x1E => !(p || q) | _ => p == q, 0))
  else match f6, vv with
    | 0x0E, false => if !v.ok n n none || !v.clear v.vs2 n then none else some (v.slide1Up (x % 2 ^ n))
    | 0x0F, false => if !v.ok n n none then none else some (v.slide1Down (x % 2 ^ n))
    | 0x10, true =>
      match v.vs1 with
      | 0 =>
        if !v.vm then none
        else some { c.setX (rdOf w) (BitVec.ofNat 64 (sext64 n (c.velem v.vs2 n 0))) with vstart := 0 }
      | 0x10 =>
        if c.vstart != 0 then none
        else some (c.setX (rdOf w) (BitVec.ofNat 64 (v.reduce 0 fun k i => k + b2n (c.mbit v.vs2 i))))
      | 0x11 =>
        if c.vstart != 0 then none
        else
          let k := (List.range c.vl).find? fun i => v.active i && c.mbit v.vs2 i
          some (c.setX (rdOf w) (BitVec.ofNat 64 (k.getD (2 ^ 64 - 1))))
      | _ => none
    | 0x10, false => if v.vs2 != 0 || !v.vm then none else some (v.scalar n (x % 2 ^ n) 0)
    | 0x12, true =>
      let k := match v.vs1 with
        | 2 | 3 => 8 | 4 | 5 => 4 | 6 | 7 => 2 | _ => 0
      if k = 0 || n / k < 8 || !v.ok n (n / k) none then none
      else some (v.loop n fun i _ =>
        let e := c.velem v.vs2 (n / k) i
        (if v.vs1 % 2 = 1 then ofSigned n (toSigned (n / k) e) else e, 0))
    | 0x14, true =>
      match v.vs1 with
      | 1 | 2 | 3 =>
        if c.vstart != 0 || v.vd = v.vs2 || !v.noMask then none else some (v.setFirst v.vs1)
      | 0x10 =>
        if c.vstart != 0 || !v.noMask || !v.group v.vd n
            || (match v.emul n with | some e => v.vd ≤ v.vs2 && v.vs2 < v.vd + nregs e | none => true) then none
        else some (v.loop n fun i _ =>
          (((List.range i).filter fun j => v.active j && c.mbit v.vs2 j).length % 2 ^ n, 0))
      | 0x11 => if v.vs2 != 0 || !v.noMask || !v.group v.vd n then none else some (v.loop n fun i _ => (i % 2 ^ n, 0))
      | _ => none
    | 0x17, true =>
      if !v.vm || c.vstart != 0 || !v.group v.vd n || !v.group v.vs2 n || !v.clear v.vs2 n
          || (match v.emul n with | some e => v.vd ≤ v.vs1 && v.vs1 < v.vd + nregs e | none => true) then none
      else some v.compress
    | _, _ => none

/-! ### OPF -/

/-- The seven-bit estimates of RVV: of 1/x and of 1/√x for a normal significand index. -/
def rec7Table (i : Nat) : Nat := (256 * (255 - 2 * i) + (257 + 2 * i)) / (2 * (257 + 2 * i))
def rsqrt7Table (i : Nat) : Nat :=
  let d := if i < 64 then 2 * (129 + 2 * i) else 129 + 2 * (i - 64)
  (isqrt (4 * 65536 * 128 / d) + 1) / 2 - 128

/-- vfrec7 on an encoding. -/
def fpRec7 (f : Fmt) (rm a : Nat) : Nat × Flags :=
  let s := a / 2 ^ (f.ebits + f.fbits) % 2
  let sb := s * 2 ^ (f.ebits + f.fbits)
  let ex := a / 2 ^ f.fbits % 2 ^ f.ebits
  let fr := a % 2 ^ f.fbits
  if ex = 2 ^ f.ebits - 1 then
    if fr = 0 then (sb, 0) else (f.nan, invalidIf (isSnan f a))
  else if ex = 0 && fr = 0 then (sb + f.infBits, 8)
  else
    -- a subnormal normalised: exponent 0 for one leading zero, −1 for two
    let lz := if ex = 0 then f.fbits - 1 - Nat.log2 fr else 0
    let e : Int := if ex = 0 then -(lz : Int) else ex
    let fr' := if ex = 0 then fr * 2 ^ (lz + 1) % 2 ^ f.fbits else fr
    if ex = 0 && 1 < lz then
      -- the reciprocal overflows
      let big := rm == 1 || (rm == 2 && s == 0) || (rm == 3 && s == 1)
      (sb + (if big then f.maxFinite else f.infBits), 5)
    else
      let oe : Int := 2 * (f.bias : Int) - 1 - e
      let sig := rec7Table (fr' / 2 ^ (f.fbits - 7)) * 2 ^ (f.fbits - 7)
      if oe = 0 then (sb + (2 ^ f.fbits + sig) / 2, 0)
      else if oe < 0 then (sb + (2 ^ f.fbits + sig) / 4, 0)
      else (sb + oe.toNat * 2 ^ f.fbits + sig, 0)

/-- vfrsqrt7 on an encoding. -/
def fpRsqrt7 (f : Fmt) (a : Nat) : Nat × Flags :=
  let neg := bitOf a (f.ebits + f.fbits)
  let ex := a / 2 ^ f.fbits % 2 ^ f.ebits
  let fr := a % 2 ^ f.fbits
  let zero := ex = 0 && fr = 0
  if ex = 2 ^ f.ebits - 1 && fr != 0 then (f.nan, invalidIf (isSnan f a))
  else if zero then (f.signBit neg + f.infBits, 8)
  else if neg then (f.nan, 16)
  else if ex = 2 ^ f.ebits - 1 then (0, 0)
  else
    let lz := if ex = 0 then f.fbits - 1 - Nat.log2 fr else 0
    let e : Int := if ex = 0 then -(lz : Int) else ex
    let fr' := if ex = 0 then fr * 2 ^ (lz + 1) % 2 ^ f.fbits else fr
    let i := (e % 2).toNat * 64 + fr' / 2 ^ (f.fbits - 6)
    let oe := (3 * (f.bias : Int) - 1 - e) / 2
    (oe.toNat * 2 ^ f.fbits + rsqrt7Table i * 2 ^ (f.fbits - 7), 0)

/-- Single-width OPF operations with a rounding mode; a of vs2, b the other operand, d the old destination element. -/
def opfElem (f : Fmt) (f6 form rm a b d : Nat) : Option (Nat × Nat) :=
  let vf := form == 5
  match f6 with
  | 0x00 => some (fpAdd f rm a b)
  | 0x02 => some (fpSub f rm a b)
  | 0x04 => some (fpMinMax f false a b)
  | 0x06 => some (fpMinMax f true a b)
  | 0x08 => (fpSgnj f 0 a b).map fun v => (v, 0)
  | 0x09 => (fpSgnj f 1 a b).map fun v => (v, 0)
  | 0x0A => (fpSgnj f 2 a b).map fun v => (v, 0)
  | 0x20 => some (fpDiv f rm a b)
  | 0x21 => if vf then some (fpDiv f rm b a) else none
  | 0x24 => some (fpMul f rm a b)
  | 0x27 => if vf then some (fpSub f rm b a) else none
  | 0x28 => some (fpFma f rm b d a)
  | 0x29 => some (fpFma f rm (fpNeg f b) d (fpNeg f a))
  | 0x2A => some (fpFma f rm b d (fpNeg f a))
  | 0x2B => some (fpFma f rm (fpNeg f b) d a)
  | 0x2C => some (fpFma f rm b a d)
  | 0x2D => some (fpFma f rm (fpNeg f b) a (fpNeg f d))
  | 0x2E => some (fpFma f rm b a (fpNeg f d))
  | 0x2F => some (fpFma f rm (fpNeg f b) a d)
  | _ => none

/-- Widening OPF operations on FP64: the operands already widened. -/
def widenFp (f6 rm a b d : Nat) : Option (Nat × Nat) :=
  match f6 with
  | 0x30 | 0x34 => some (fpAdd fp64 rm a b)
  | 0x32 | 0x36 => some (fpSub fp64 rm a b)
  | 0x38 => some (fpMul fp64 rm a b)
  | 0x3C => some (fpFma fp64 rm b a d)
  | 0x3D => some (fpFma fp64 rm (fpNeg fp64 b) a (fpNeg fp64 d))
  | 0x3E => some (fpFma fp64 rm b a (fpNeg fp64 d))
  | 0x3F => some (fpFma fp64 rm (fpNeg fp64 b) a d)
  | _ => none

/-- FP comparisons to a mask. -/
def cmpFp (f : Fmt) (f6 form a b : Nat) : Option (Bool × Nat) :=
  match f6 with
  | 0x18 => some (fpEq f a b)
  | 0x19 => some (fpLe f a b)
  | 0x1B => some (fpLt f a b)
  | 0x1C => let (e, fl) := fpEq f a b; some (!e, fl)
  | 0x1D => if form = 5 then some (fpLt f b a) else none
  | 0x1F => if form = 5 then some (fpLe f b a) else none
  | _ => none

/-- Round to odd: toward zero, the last bit set where inexact. -/
def fpCvtOdd (from_ to_ : Fmt) (a : Nat) : Nat × Flags :=
  let (r, fl) := fpCvt from_ to_ 1 a
  (if bitOf fl 0 then r.lor 1 else r, fl)

/-- A widened single. -/
def wideFp (a : Nat) : Nat × Flags := fpCvt fp32 fp64 0 a

/-- Conversions of VFUNARY0 by their vs1 code: the widths of source and destination and the element's function. -/
def VI.convert (v : VI) (code rm : Nat) : Option Ctx :=
  let n := v.sew
  let f := if n = 32 then fp32 else fp64
  let c := v.c
  let m := if code % 8 = 6 || code % 8 = 7 then 1 else rm
  let signed := code % 2 == 1
  let run (d s : Nat) (g : Nat → Nat × Nat) : Option Ctx :=
    if !v.ok d s none then none else some (v.loop d fun i _ => g (c.velem v.vs2 s i))
  let ofInt (bits : Nat) (x : Nat) : Int := if signed then toSigned bits x else (x : Int)
  match code with
  | 0 | 1 | 6 | 7 => run n n (fpToInt f m n signed)
  | 2 | 3 => run n n fun x => fpOfInt f m (ofInt n x)
  | 8 | 9 | 14 | 15 => if n != 32 then none else run 64 32 (fpToInt fp32 m 64 signed)
  | 10 | 11 => if n != 32 then none else run 64 32 fun x => fpOfInt fp64 m (ofInt 32 x)
  | 12 => if n != 32 then none else run 64 32 wideFp
  | 16 | 17 | 22 | 23 => if n != 32 then none else run 32 64 (fpToInt fp64 m 32 signed)
  | 18 | 19 => if n != 32 then none else run 32 64 fun x => fpOfInt fp32 m (ofInt 64 x)
  | 20 => if n != 32 then none else run 32 64 (fpCvt fp64 fp32 m)
  | 21 => if n != 32 then none else run 32 64 (fpCvtOdd fp64 fp32)
  | _ => none

/-- A floating-point sum or extreme over the active elements of vs2 in order. -/
def VI.reduceFp (v : VI) (f : Fmt) (first : Nat) (g : Nat → Nat → Nat × Nat) : Nat × Nat :=
  let _ := f
  v.reduce (first, 0) fun acc i => let (x, fl) := g acc.1 i; (x, acc.2 ||| fl)

def VI.opf (v : VI) (w : Word32) : Option Ctx :=
  let n := v.sew
  let c := v.c
  if n < 32 then none
  else (c.rm 7).bind fun rm =>
    let f := if n = 32 then fp32 else fp64
    let f6 := Fw w 31 26
    let vv := f3 w == 1
    let e1 : Option Nat := if vv then some n else none
    let a (i : Nat) : Nat := c.velem v.vs2 n i
    let x := c.fget f (rs1Of w)
    let b (i : Nat) : Nat := if vv then c.velem v.vs1 n i else x
    if (opfElem f f6 (f3 w) rm 0 0 0).isSome then
      if !v.ok n n e1 then none else some (v.loop n fun i d => (opfElem f f6 (f3 w) rm (a i) (b i) d).getD (0, 0))
    else if (cmpFp f f6 (f3 w) 0 0).isSome then
      if !v.okMask e1 then none else some (v.maskLoop true fun i => (cmpFp f f6 (f3 w) (a i) (b i)).getD (false, 0))
    else if (widenFp f6 rm 0 0 0).isSome then
      let wide := f6 == 0x34 || f6 == 0x36
      if n != 32 || !v.ok 64 (if wide then 64 else 32) e1 then none
      else some (v.loop 64 fun i d =>
        let (p, f1) := if wide then (c.velem v.vs2 64 i, 0) else wideFp (a i)
        let (q, f2) := wideFp (b i)
        let (r, f3) := (widenFp f6 rm p q d).getD (0, 0)
        (r, f1 ||| f2 ||| f3))
    else match f6, vv with
      | 0x01, true | 0x03, true =>
        if c.vstart != 0 || !v.group v.vs2 n then none
        else let (r, fl) := v.reduceFp f (c.velem v.vs1 n 0) fun acc i => fpAdd f rm acc (a i); some (v.scalar n r fl)
      | 0x05, true | 0x07, true =>
        if c.vstart != 0 || !v.group v.vs2 n then none
        else
          let (r, fl) := v.reduceFp f (c.velem v.vs1 n 0) fun acc i => fpMinMax f (f6 == 7) acc (a i)
          some (v.scalar n r fl)
      | 0x31, true | 0x33, true =>
        if n != 32 || c.vstart != 0 || !v.group v.vs2 n then none
        else
          let (r, fl) := v.reduceFp fp64 (c.velem v.vs1 64 0) fun acc i =>
            let (y, f1) := wideFp (a i)
            let (z, f2) := fpAdd fp64 rm acc y
            (z, f1 ||| f2)
          some (v.scalar 64 r fl)
      | 0x0E, false => if !v.ok n n none || !v.clear v.vs2 n then none else some (v.slide1Up x)
      | 0x0F, false => if !v.ok n n none then none else some (v.slide1Down x)
      | 0x10, true =>
        if v.vs1 != 0 || !v.vm then none
        else some { c.fput f (rdOf w) (c.velem v.vs2 n 0) with vstart := 0 }
      | 0x10, false => if v.vs2 != 0 || !v.vm then none else some (v.scalar n x 0)
      | 0x12, true => v.convert v.vs1 rm
      | 0x13, true =>
        if !v.ok n n none then none
        else match v.vs1 with
          | 0 => some (v.loop n fun i _ => fpSqrt f rm (a i))
          | 4 => some (v.loop n fun i _ => fpRsqrt7 f (a i))
          | 5 => some (v.loop n fun i _ => fpRec7 f rm (a i))
          | 0x10 => some (v.loop n fun i _ => (fpClass f (a i), 0))
          | _ => none
      | 0x17, false =>
        if v.vm then
          if v.vs2 != 0 || !v.group v.vd n then none else some (v.loop n fun _ _ => (x, 0))
        else if v.vd = 0 || !({ v with vm := true } : VI).ok n n none then none
        else some (({ v with vm := true } : VI).loop n fun i _ => (if c.mbit 0 i then x else a i, 0))
      | _, _ => none

/-- OP-V (0x57): the context after, none for an encoding outside V. -/
def vecExec (c : Ctx) (free : Word64) (w : Word32) (len : Nat) : Option Ctx :=
  if opcode w != 0x57 then none
  else if f3 w = 7 then vsetExec c w len
  else if bitOf c.vtype.toNat 63 then none
  else (vtypeOf c.vtype.toNat).bind fun t =>
    let v : VI := ⟨c, t.1, t.2, Fw w 25 25 == 1, free, Fw w 11 7, Fw w 19 15, Fw w 24 20⟩
    let r := match f3 w with
      | 0 | 3 | 4 => v.opi w
      | 2 | 6 => v.opm w
      | _ => v.opf w
    r.map fun c' => { c' with pc := c.pc + BitVec.ofNat 64 len }

end Sys2Proof.Machine
end

