-- ==== Sys2Proof/Machine/Rv.lean ====
section
/-! DEFINITION. Standard instructions as a context of the block runs them (R59, R60, R65 to R72, R82, R83): memory
accesses by target, atomics and reservations, CSRs, traps. -/

namespace Sys2Proof.Machine

/-- How a core reaches register space: the operations of the register blocks, given to the instructions from above. -/
structure RegPort where
  read  : State → Source → Nat → Nat → Word64 × State
  write : State → Source → Nat → Nat → Word64 → State

/-- The port of an instruction known to name no register. -/
def RegPort.closed : RegPort := ⟨fun s _ _ _ => (0, s), fun s _ _ _ _ => s⟩

/-! ### Targets -/

/-- What Tables 03-4 and 03-17 say of an access. -/
inductive Target where
  | fault
  | regs (off : Nat)
  | remote
  | mem (off : Nat)
  deriving DecidableEq, Repr

/-- The target of an access of n bytes. -/
def State.access (s : State) (k a n : Nat) (vec atomic : Bool) : Target :=
  let o := offOf a
  if !s.isSelf a then (if vec || atomic then .fault else .remote)
  else match place o with
    | .regs off => if vec || atomic then .fault else .regs off
    | _ =>
      let ok : Kind → Bool :=
        if atomic then fun x => isSramStack x || (isPx k && isTier x)
        else fun x => isSramStack x || isTier x || x == .hwin
      if s.extentIn ok o n then .mem o else .fault

/-- A local access of a standard instruction of len bytes, raw being the issued word: performed, parked while its memory is held,
or ended by an uncorrectable line (R62, R291, R301, R316). -/
def State.localOp (s : State) (k len off : Nat) (raw : Word32) (op : MemOp) (fin : List Byte → Ctx → Ctx) : State :=
  match s.homeOp true off op (some k) with
  | (.done d, s) => s.complete k len (ownSram k off op.len) (fin d)
  | (.held g, s) => (s.onCtx k fun c => c.park (.memory raw)).holdOp g (.core (hartOf k))
  | (.ue p ps, s) => s.coreUes k (p :: ps)

/-! ### Scalar loads and stores -/

/-- What a load or store moves: bytes and the destination's rule. -/
structure Ls where
  n    : Nat
  addr : Nat
  fin  : Ctx → Nat → Ctx
  data : Option (List Byte)

/-- LOAD, STORE, LOAD-FP, STORE-FP of scalar registers; none for another encoding. -/
def lsOf (c : Ctx) (w : Word32) : Option Ls :=
  let rd := rdOf w
  let base := (c.xr (rs1Of w)).toNat
  let la := (base + immI w) % 2 ^ 64
  let sa := (base + immS w) % 2 ^ 64
  let st (n v : Nat) : Option Ls := some ⟨n, sa, fun c _ => c, some (leBytes n v)⟩
  match opcode w with
  | 0x03 =>
    let n := 2 ^ (f3 w % 4)
    if f3 w = 7 then none
    else some ⟨n, la, fun c v => c.setX rd (BitVec.ofNat 64 (if f3 w < 4 then sext64 (8 * n) v else v)), none⟩
  | 0x23 => if 3 < f3 w then none else st (2 ^ f3 w) (c.xr (rs2Of w)).toNat
  | 0x07 =>
    if f3 w = 2 then some ⟨4, la, fun c v => c.setF rd (boxed v), none⟩
    else if f3 w = 3 then some ⟨8, la, fun c v => c.setF rd (BitVec.ofNat 64 v), none⟩
    else none
  | 0x27 =>
    if f3 w = 2 then st 4 (c.fr (rs2Of w)).toNat
    else if f3 w = 3 then st 8 (c.fr (rs2Of w)).toNat
    else none
  | _ => none

/-- R195: a standard access to another endpoint is the remote operation of its size, class 0, 1,000,000 ticks. A
condition that the core checks by itself ends it with its status (R67, R78, R209). -/
def State.stdRemote (s : State) (k : Nat) (raw : Word32) (l : Ls) : State :=
  if !s.epOk l.addr then s.trap k .remoteFail (some l.addr) ST.RANGE
  else if l.addr % l.n != 0 then s.trap k .remoteFail (some l.addr) ST.ALIGN
  else match s.freeSlot k with
    | none => s.waitQuota k (.quotaStd raw)
    | some e =>
      let (n, s) := s.addRop k e (.std raw) false 1000000
      let s := s.onCtx k fun c => c.park (.reply n)
      let size := match l.n with
        | 1 => 0 | 2 => 1 | 4 => 2 | _ => 3
      match l.data with
      | none => s.sendRequest k n 0 PT.LOAD size l.addr []
      | some d => s.sendRequest k n 0 PT.STORE size l.addr d

/-- A scalar load or store (Tables 03-4, 03-17). -/
def State.loadStore (s : State) (port : RegPort) (k len : Nat) (raw : Word32) (l : Ls) : State :=
  match s.access k l.addr l.n false false with
  | .fault => s.trap k .accessFault (some l.addr)
  | .remote => s.stdRemote k raw l
  | .regs off =>
    match l.data with
    | none =>
      let (v, s) := port.read s (.hart (hartOf k)) off l.n
      s.complete k len false fun c => l.fin c v.toNat
    | some d => port.write (s.complete k len false id) (.hart (hartOf k)) off l.n (BitVec.ofNat 64 (ofLe d))
  | .mem off =>
    match l.data with
    | none => s.localOp k len off raw (.load l.n) fun d c => l.fin c (ofLe d)
    | some d => s.localOp k len off raw (.store d) fun _ c => c

/-! ### AMO, LR, SC (R71) -/

/-- The operation of an AMO's funct5. -/
def amoKindOf : Nat → Option AmoKind
  | 0x00 => some .add | 0x01 => some .swap | 0x04 => some .xor | 0x08 => some .or | 0x0C => some .and
  | 0x10 => some .min | 0x14 => some .max | 0x18 => some .minu | 0x1C => some .maxu | _ => none

/-- The A extension; none for another encoding. A misaligned one raises ACCESS_FAULT (PRESUMED, log entry 12). -/
def State.amoInsn (s : State) (k len : Nat) (raw w : Word32) : Option State :=
  let c := s.ctx k
  let f5 := Fw w 31 27
  let n := if f3 w = 2 then 4 else 8
  let a := (c.xr (rs1Of w)).toNat
  let rd := rdOf w
  let x := (c.xr (rs2Of w)).toNat % 2 ^ (8 * n)
  let known := (amoKindOf f5).isSome || (f5 == 2 && rs2Of w == 0) || f5 == 3
  if (f3 w != 2 && f3 w != 3) || !known then none
  else some (
    match (if a % n != 0 then Target.fault else s.access k a n false true) with
    | .mem off =>
      let old (d : List Byte) : Word64 := BitVec.ofNat 64 (sext64 (8 * n) (ofLe d))
      if f5 = 2 then
        s.localOp k len off raw (.load n) fun d c => { c.setX rd (old d) with resv := some (off / 64) }
      else if f5 = 3 then
        if c.resv != some (off / 64) then s.complete k len (ownSram k off n) fun c => { c.setX rd 1 with resv := none }
        else s.localOp k len off raw (.store (leBytes n x)) fun _ c => { c.setX rd 0 with resv := none }
      else match amoKindOf f5 with
        | some op => s.localOp k len off raw (.amo op n x) fun d c => c.setX rd (old d)
        | none => s
    | _ => s.trap k .accessFault (some a))

/-! ### CSRs (R72) -/

/-- A CSR's value, none where there is none; cycle is a free value (DESIGN CHOICE, log entry 19). -/
def State.csr (s : State) (k n : Nat) : Option (Word64 × State) :=
  let c := s.ctx k
  let v (x : Nat) : Option (Word64 × State) := some (BitVec.ofNat 64 x, s)
  match n with
  | 0x001 => v c.fflags.toNat
  | 0x002 => v c.frm.toNat
  | 0x003 => v (c.frm.toNat * 32 + c.fflags.toNat)
  | 0x008 => v c.vstart
  | 0x009 => v c.vxsat.toNat
  | 0x00A => v c.vxrm.toNat
  | 0x00F => v (c.vxrm.toNat * 2 + c.vxsat.toNat)
  | 0x800 => v c.xst.toNat
  | 0x801 => v c.xwlim
  | 0x802 => v c.xclass.toNat
  | 0x803 => v c.xrlim
  | 0xC00 => some s.free
  | 0xC01 => v s.now
  | 0xC02 => v (s.core (coreKey k)).instret
  | 0xC20 => v c.vl
  | 0xC21 => some (c.vtype, s)
  | 0xC22 => v 32
  | 0xCC0 => v (if isPx k then 2 ^ 15 + pxOf k else coreOf k * 128 + ctxOf k)
  | 0xCC1 => v (c.thread.getD 0)
  | 0xCC2 => v ((s.running.map fun l => recStart l.bytes).getD 0)
  | 0xCC3 => v s.jobTag
  | _ => none

/-- A CSR written; an out-of-range value of a Xeol CSR is refused with KIND 2 (R72). -/
def State.setCsr (s : State) (k n : Nat) (v : Nat) : State :=
  let put (f : Ctx → Ctx) : State := s.onCtx k f
  let limit (f : Ctx → Ctx) (ok : Bool) : State :=
    if ok then s.onCtx k f else s.refuse (.hart (hartOf k)) 2 n (BitVec.ofNat 64 v)
  match n with
  | 0x001 => put fun c => { c with fflags := BitVec.ofNat 5 v }
  | 0x002 => put fun c => { c with frm := BitVec.ofNat 3 v }
  | 0x003 => put fun c => { c with fflags := BitVec.ofNat 5 v, frm := BitVec.ofNat 3 (v / 32) }
  | 0x008 => put fun c => { c with vstart := v % 256 }
  | 0x009 => put fun c => { c with vxsat := BitVec.ofNat 1 v }
  | 0x00A => put fun c => { c with vxrm := BitVec.ofNat 2 v }
  | 0x00F => put fun c => { c with vxsat := BitVec.ofNat 1 v, vxrm := BitVec.ofNat 2 (v / 2) }
  | 0x800 => put fun c => { c with xst := BitVec.ofNat 16 v }
  | 0x801 => limit (fun c => { c with xwlim := v }) (decide (1 ≤ v ∧ v < 2 ^ 40))
  | 0x802 => limit (fun c => { c with xclass := BitVec.ofNat 3 v }) (decide (v < 8))
  | 0x803 => limit (fun c => { c with xrlim := v }) (decide (1 ≤ v ∧ v < 2 ^ 40))
  | _ => s

/-- Zicsr; none for an encoding that is illegal: an absent CSR, a write of a read-only one. -/
def State.csrInsn (s : State) (k len : Nat) (w : Word32) : Option State :=
  let c := s.ctx k
  let n := Fw w 31 20
  let op := f3 w % 4
  let src := if f3 w < 4 then (c.xr (rs1Of w)).toNat else Fw w 19 15
  let writes := op == 1 || rs1Of w != 0
  if op = 0 || (writes && n / 0x400 == 3) then none
  else match s.csr k n with
    | none => none
    | some (old, s') =>
      let s := if op = 1 && rdOf w == 0 then s else s'
      let v := if op = 1 then src else if op = 2 then old.toNat.lor src else (old.toNat.lor src) ^^^ src
      let s := if writes then s.setCsr k n v else s
      some (s.finish k len fun c => c.setX (rdOf w) old)

/-! ### Vector loads and stores -/

/-- One element access of a vector instruction: the element's index, the register group and element width its data takes,
its address. -/
structure Vel where
  i    : Nat
  base : Nat
  eew  : Nat
  addr : Nat

/-- A vector memory instruction taken apart: its elements in order, whether it loads, whether it stops at a fault behind
the first element. -/
structure Vmem where
  load  : Bool
  first : Bool
  els   : List Vel
  /-- Registers and elements for the tail of a load: field bases, element width, element count. -/
  dests : List Nat
  eew   : Nat
  evl   : Nat
  /-- Masked-off and tail elements follow vma and vta; whole-register loads have none. -/
  whole : Bool
  vi    : VI

/-- Width codes of vector memory instructions. -/
def vWidth : Nat → Option Nat
  | 0 => some 8 | 5 => some 16 | 6 => some 32 | 7 => some 64 | _ => none

/-- The elements vstart to evl - 1 of nf fields. -/
def vElems (v : VI) (evl nf regsPer eew : Nat) (at_ : Nat → Nat → Nat) : List Vel :=
  (List.range evl).flatMap fun i =>
    if i < v.c.vstart || !v.active i then []
    else (List.range nf).map fun f => ⟨i, v.vd + f * regsPer, eew, at_ i f % 2 ^ 64⟩

/-- The fields of a segment fit the register file; the destination of a masked load is not v0. -/
def segOk (v : VI) (load : Bool) (nf per : Nat) : Bool :=
  v.vd % per == 0 && nf * per ≤ 8 && v.vd + nf * per ≤ 32 && (v.vm || !load || v.vd != 0)

/-- A vector memory instruction's elements; none for an encoding outside V. -/
def vmemOf (c : Ctx) (free : Word64) (w : Word32) : Option Vmem :=
  let load := opcode w == 0x07
  let nf := Fw w 31 29 + 1
  let mop := Fw w 27 26
  let vm := Fw w 25 25 == 1
  let sub := Fw w 24 20
  let base := (c.xr (rs1Of w)).toNat
  let vd := Fw w 11 7
  (vWidth (f3 w)).bind fun width =>
    let vi (sew l8 : Nat) : VI := ⟨c, sew, l8, vm, free, vd, 0, sub⟩
    if Fw w 28 28 = 1 then none
    else if mop = 0 && sub = 8 then
      -- whole registers
      let v : VI := { vi width 8 with vm := true }
      if !vm || !(nf == 1 || nf == 2 || nf == 4 || nf == 8) || vd % nf != 0 || (!load && width != 8) then none
      else
        let evl := nf * 256 / width
        some ⟨load, false, vElems v evl 1 nf width fun i _ => base + i * (width / 8), [vd], width, evl, true, v⟩
    else if bitOf c.vtype.toNat 63 then none
    else (vtypeOf c.vtype.toNat).bind fun t =>
      let v := vi t.1 t.2
      if mop = 0 && sub = 0xB then
        let evl := (c.vl + 7) / 8
        if !vm || nf != 1 || width != 8 then none
        else some ⟨load, false, vElems v evl 1 1 8 fun i _ => base + i, [vd], 8, evl, false, { v with sew := 8, l8 := 8 }⟩
      else if mop = 0 || mop = 2 then
        let ff := mop == 0 && sub == 0x10
        if mop = 0 && sub != 0 && !(ff && load) then none
        else (v.emul width).bind fun e =>
          let per := nregs e
          let stride := if mop = 0 then nf * (width / 8) else (c.xr (rs2Of w)).toNat
          if !segOk v load nf per then none
          else some ⟨load, ff, vElems v c.vl nf per width fun i f => base + i * stride + f * (width / 8),
            (List.range nf).map fun f => vd + f * per, width, c.vl, false, v⟩
      else
        -- indexed: the width is the index's, data elements have SEW
        (v.emul width).bind fun ei =>
          let per := nregs t.2
          let apart := if nf = 1 then v.apart v.sew sub width
            else sub + nregs ei ≤ vd || vd + nf * per ≤ sub
          if !segOk v load nf per || sub % nregs ei != 0 || (load && !apart) then none
          else some ⟨load, false, vElems v c.vl nf per v.sew fun i f => base + c.velem sub width i + f * (v.sew / 8),
            (List.range nf).map fun f => vd + f * per, v.sew, c.vl, false, v⟩

/-- Elements a load leaves to policy: masked-off ones and the tail of each field's group. -/
def Vmem.policy (m : Vmem) (c : Ctx) : Ctx :=
  if m.whole then c
  else
    let v := m.vi
    m.dests.foldl (fun (c : Ctx) d =>
      let total := Nat.max ((v.emul m.eew).getD 8 * 32 / m.eew) (256 / m.eew)
      foldRange total (fun (c : Ctx) i =>
        let set : Ctx := c.setElem d m.eew i (v.agn i m.eew (c.velem d m.eew i))
        if i < v.c.vstart then c
        else if i < m.evl then (if !v.active i && v.vma then set else c)
        else if v.vta then set else c) c) c

/-- A vector load or store: every element's target is checked first and the instruction performs nothing on a fault; a
fault-only-first load ends before the element that would fault (PRESUMED, log entry 13). -/
def State.vmem (s : State) (k len : Nat) (raw : Word32) (m : Vmem) : State :=
  let bytes (e : Vel) : Nat := e.eew / 8
  let target (e : Vel) : Target := s.access k e.addr (bytes e) true false
  let bad (e : Vel) : Bool := match target e with
    | .mem _ => false
    | _ => true
  let unread (e : Vel) : Bool := m.load && (s.poisonIn (offOf e.addr) (bytes e)).isSome
  let own : Bool := m.els.all fun e => ownSram k (offOf e.addr) (bytes e)
  let c0 := s.ctx k
  let stop : Option Nat := if m.first then (m.els.find? fun (e : Vel) => decide (0 < e.i) && (bad e || unread e)).map (·.i) else none
  let els : List Vel := match stop with
    | some j => m.els.filter fun e => decide (e.i < j)
    | none => m.els
  match els.find? bad with
  | some e => s.trap k .accessFault (some e.addr)
  | none =>
    if m.load then
      match els.find? fun e => s.memWaits (offOf e.addr) with
      | some _ => (s.onCtx k fun c => c.park (.memory raw)).holdOp resetHold (.core (hartOf k))
      | none =>
        match els.findSome? fun e => s.poisonIn (offOf e.addr) (bytes e) with
        | some p => s.coreUe k p
        | none =>
          let r := els.foldl (fun (r : Ctx × State) (e : Vel) =>
            let (d, s) := r.2.read (offOf e.addr) (bytes e)
            (r.1.setElem e.base e.eew e.i (ofLe d), s)) (c0, s)
          let m := match stop with
            | some j => { m with evl := j }
            | none => m
          let c := m.policy r.1
          let c := if m.els.isEmpty && m.evl ≤ c0.vstart then c0 else c
          let vl := stop.getD c.vl
          (r.2.setCtx k { c with vl := vl, vstart := 0 }).complete k len own id
    else
      match els.findSome? fun e => s.writeHold (offOf e.addr) (bytes e) with
      | some g => (s.onCtx k fun c => c.park (.memory raw)).holdOp g (.core (hartOf k))
      | none =>
        let r := els.foldl (fun (r : State × List Nat) (e : Vel) =>
          let (s, us) := r.1.storeAt true (some k) (offOf e.addr) (leBytes (bytes e) (c0.velem e.base e.eew e.i))
          (s, r.2 ++ us)) (s, [])
        if r.2.isEmpty then r.1.complete k len own fun c => { c with vstart := 0 } else r.1.coreUes k r.2

/-- The vector memory group; none for another encoding. -/
def State.vmemInsn (s : State) (k len : Nat) (raw w : Word32) : Option State :=
  let (free, s') := s.free
  (vmemOf (s.ctx k) free w).map fun m => s'.vmem k len raw m

/-! ### One instruction -/

/-- The 32-bit form of an instruction word and its bytes; none where a compressed encoding is reserved. -/
def insnOf (raw : Word32) : Option (Word32 × Nat) :=
  if raw.toNat % 4 = 3 then some (raw, 4) else (expandC (raw.toNat % 2 ^ 16)).map fun v => (BitVec.ofNat 32 v, 2)

/-- Bytes an instruction word takes in memory. -/
def insnLen (raw : Word32) : Nat := if raw.toNat % 4 = 3 then 4 else 2

/-- A vector computation draws one free word for its agnostic elements. -/
def State.vecInsn (s : State) (k len : Nat) (w : Word32) : Option State :=
  let (free, s') := s.free
  (vecExec (s.ctx k) free w len).map fun c => (s'.setCtx k c).finish k 0 id

/-- ECALL and EBREAK trap; CSR instructions; no other SYSTEM encoding is legal (R59). -/
def State.systemInsn (s : State) (k len : Nat) (w : Word32) : Option State :=
  if w = 0x00000073 then some (s.trap k .ecall)
  else if w = 0x00100073 then some (s.trap k .ebreak)
  else s.csrInsn k len w

/-- FENCE and FENCE.I order what this model performs in order anyway (R70): they retire. -/
def State.fenceInsn (s : State) (k len : Nat) (w : Word32) : Option State :=
  if f3 w ≤ 1 then some (s.finish k len id) else none

/-- The memory group: scalar, atomic, vector. -/
def State.memInsn (s : State) (port : RegPort) (k len : Nat) (raw w : Word32) : Option State :=
  match lsOf (s.ctx k) w with
  | some l => some (s.loadStore port k len raw l)
  | none =>
    if opcode w = 0x2F then s.amoInsn k len raw w
    else if opcode w = 0x07 || opcode w = 0x27 then s.vmemInsn k len raw w
    else none

/-- A standard instruction; an encoding outside R59 raises ILLEGAL_INSN. -/
def State.standard (s : State) (port : RegPort) (k : Nat) (raw : Word32) : State :=
  let r := (insnOf raw).bind fun (w, len) =>
    let c := s.ctx k
    match (intExec c w len).or (fpExec c w len) with
    | some c' => some ((s.setCtx k c').finish k 0 id)
    | none =>
      match opcode w with
      | 0x57 => s.vecInsn k len w
      | 0x0F => s.fenceInsn k len w
      | 0x73 => s.systemInsn k len w
      | _ => s.memInsn port k len raw w
  r.getD (s.trap k .illegalInsn)

/-- The result of a standard remote access reaches the core (R67, R206). -/
def State.stdReply (s : State) (k : Nat) (raw : Word32) (st : Half) (data : List Byte) : State :=
  match (insnOf raw).bind fun (w, len) => (lsOf (s.ctx k) w).map fun l => (l, len) with
  | none => s
  | some (l, len) =>
    if st != ST.OK then s.trap k .remoteFail (some l.addr) st
    else s.finish k len fun c => if l.data.isNone then l.fin c (ofLe data) else c

end Sys2Proof.Machine
end

