-- ==== Sys2Proof/Machine/Xeol.lean ====
section
/-! DEFINITION. The Xeol encodings: Tables 03-7, 03-8 (R75) and 04-4 (R92), read and written. -/

namespace Sys2Proof.Machine

/-- Opcodes custom-0 to custom-3. -/
def isCustom (w : Word32) : Bool := opcode w == 0x0B || opcode w == 0x2B || opcode w == 0x5B || opcode w == 0x7B

def evenRg (r : Rg) : Bool := r.toNat % 2 == 0

/-- Whether an instruction's operands are ones an encoding exists for: sizes, even registers (R75). -/
def Xop.legal : Xop → Bool
  | .ldu size _ _ => size != 3
  | .ldv size vd _ => size != 3 && (size != 2 || evenRg vd)
  | .stv size _ vs => size != 3 && (size != 2 || evenRg vs)
  | .amo k _ _ _ => k == .add || k == .min || k == .max || k == .and || k == .or || k == .swap
  | .cas q rd _ rs2 => !q || (evenRg rd && evenRg rs2)
  | _ => true

/-- Remote memory instructions (Table 03-7). -/
def decodeRemote (w : Word32) : Option Xop :=
  let rd := rdOf w
  let rs1 := rs1Of w
  let rs2 := rs2Of w
  let s2 : BitVec 2 := BitVec.ofNat 2 (f3 w)
  let z (b : Bool) (x : Xop) : Option Xop := if b && x.legal then some x else none
  match f7 w with
  | 0 => if f3 w < 4 then z (rs2 == 0) (.ld s2 rd rs1) else z (rs2 == 0 && f3 w < 7) (.ldu s2 rd rs1)
  | 1 => z (rd == 0 && f3 w < 4) (.st s2 rs1 rs2)
  | 2 => z (rs2 == 0 && f3 w < 3) (.ldv s2 rd rs1)
  | 3 => z (rd == 0 && f3 w < 3) (.stv s2 rs1 rs2)
  | 4 => if f3 w = 0 then z (rs2 == 0) (.put rd rs1) else z (rs2 == 0 && f3 w == 1) (.get rd rs1)
  | 8 =>
    match f3 w with
    | 0 => some (.amo .add rd rs1 rs2) | 1 => some (.amo .min rd rs1 rs2) | 2 => some (.amo .max rd rs1 rs2)
    | 3 => some (.amo .and rd rs1 rs2) | 4 => some (.amo .or rd rs1 rs2) | 5 => some (.amo .swap rd rs1 rs2)
    | _ => none
  | 9 => z (f3 w < 2) (.cas (f3 w == 1) rd rs1 rs2)
  | 10 => z (f3 w == 0) (.fadd rd rs1 rs2)
  | 12 => z (f3 w == 0 && rs1 == 0 && rs2 == 0) (.fence rd)
  | 13 => z (f3 w == 0) (.hand rd rs1 rs2)
  | _ => none

/-- Wait, command and thread instructions (Table 03-8). -/
def decodeWait (w : Word32) : Option Xop :=
  let rd := rdOf w
  let rs1 := rs1Of w
  let rs2 := rs2Of w
  let z (b : Bool) (x : Xop) : Option Xop := if b then some x else none
  match f7 w with
  | 0 => z (f3 w == 0 && rd == 0 && rs1 == 0 && rs2 == 0) .yield
  | 1 => z (f3 w == 0) (.bwait rd rs1 rs2)
  | 2 => z (f3 w == 0 && rs2 == 0) (.sleep rd rs1)
  | 3 => z (f3 w == 0) (.finish rd rs1 rs2)
  | 4 => z (f3 w < 2 && rs2 == 0) (.dsu (f3 w == 1) rd rs1)
  | 5 => z (f3 w < 2) (.puu (f3 w == 1) rd rs1 rs2)
  | 6 => z (f3 w == 0 && rd == 0 && rs1 == 0 && rs2 == 0) .exit
  | _ => none

/-- Tensor instructions (Table 04-4). -/
def decodeTensor (w : Word32) : Option Xop :=
  let rd := rdOf w
  let rs1 := rs1Of w
  let rs2 := rs2Of w
  let z (b : Bool) (x : Xop) : Option Xop := if b then some x else none
  if opcode w = 0x5B then
    match f3 w with
    | 0 => z (f7 w < 4) (.tmma (BitVec.ofNat 2 (f7 w)) rd rs1 rs2)
    | 1 => z (f7 w < 4) (.tcvt (bitOf (f7 w) 1) (bitOf (f7 w) 0) rd rs1 rs2)
    | 2 => z (f7 w < 4) (.trd (bitOf (f7 w) 1) (bitOf (f7 w) 0) rd rs1 rs2)
    | _ => none
  else if f7 w != 0 then none
  else match f3 w with
    | 0 => z (rs1 == 0) (.tzero rd rs2)
    | 1 => some (.tfill rd rs1 rs2)
    | 2 => some (.tspill rd rs1 rs2)
    | 3 => z (rs1 == 0) (.twait rd rs2)
    | 4 => some (.tstat rd rs1 rs2)
    | _ => none

/-- The Xeol instruction of a word under custom-0 to custom-3; none where Tables 03-7, 03-8, 04-4 have none. -/
def decodeXeol (w : Word32) : Option Xop :=
  if opcode w = 0x0B then decodeRemote w
  else if opcode w = 0x2B then decodeWait w
  else if opcode w = 0x5B || opcode w = 0x7B then decodeTensor w
  else none

/-- The word of an instruction. -/
def encodeXeol (x : Xop) : Word32 :=
  let r (op f3 f7 : Nat) (rd rs1 rs2 : Rg) : Word32 := BitVec.ofNat 32 (mkR op f3 f7 rd.toNat rs1.toNat rs2.toNat)
  match x with
  | .ld s rd rs1 => r 0x0B s.toNat 0 rd rs1 0
  | .ldu s rd rs1 => r 0x0B (4 + s.toNat) 0 rd rs1 0
  | .st s rs1 rs2 => r 0x0B s.toNat 1 0 rs1 rs2
  | .ldv s vd rs1 => r 0x0B s.toNat 2 vd rs1 0
  | .stv s rs1 vs => r 0x0B s.toNat 3 0 rs1 vs
  | .put rd rs1 => r 0x0B 0 4 rd rs1 0
  | .get rd rs1 => r 0x0B 1 4 rd rs1 0
  | .amo k rd rs1 rs2 =>
    let code := match k with
      | .add => 0 | .min => 1 | .max => 2 | .and => 3 | .or => 4 | _ => 5
    r 0x0B code 8 rd rs1 rs2
  | .cas q rd rs1 rs2 => r 0x0B (b2n q) 9 rd rs1 rs2
  | .fadd rd rs1 fs2 => r 0x0B 0 10 rd rs1 fs2
  | .fence rd => r 0x0B 0 12 rd 0 0
  | .hand rd rs1 rs2 => r 0x0B 0 13 rd rs1 rs2
  | .yield => r 0x2B 0 0 0 0 0
  | .bwait rd rs1 rs2 => r 0x2B 0 1 rd rs1 rs2
  | .sleep rd rs1 => r 0x2B 0 2 rd rs1 0
  | .finish rd rs1 rs2 => r 0x2B 0 3 rd rs1 rs2
  | .dsu w rd rs1 => r 0x2B (b2n w) 4 rd rs1 0
  | .puu w rd rs1 rs2 => r 0x2B (b2n w) 5 rd rs1 rs2
  | .exit => r 0x2B 0 6 0 0 0
  | .tmma p rd rs1 rs2 => r 0x5B 0 p.toNat rd rs1 rs2
  | .tcvt sc ov rd rs1 rs2 => r 0x5B 1 (2 * b2n sc + b2n ov) rd rs1 rs2
  | .trd sc ov rd rs1 rs2 => r 0x5B 2 (2 * b2n sc + b2n ov) rd rs1 rs2
  | .tzero rd rs2 => r 0x7B 0 0 rd 0 rs2
  | .tfill rd rs1 rs2 => r 0x7B 1 0 rd rs1 rs2
  | .tspill rd rs1 rs2 => r 0x7B 2 0 rd rs1 rs2
  | .twait rd rs2 => r 0x7B 3 0 rd 0 rs2
  | .tstat rd rs1 rs2 => r 0x7B 4 0 rd rs1 rs2

end Sys2Proof.Machine
end

