-- ==== Sys2Proof/Machine/Cores.lean ====
section
/-! DEFINITION. Xeol instructions (R75 to R80, R84, R97 to R101, R187 to R207): issue, replies, stopwatches, waits and the
end of a thread. -/

namespace Sys2Proof.Machine

/-! ### Ends -/

/-- The status an XFENCE reports: the first failed posted operation in program order (R76). -/
def Ctx.fenceStatus (c : Ctx) : Half :=
  match minOf (c.failed.map (·.1)) with
  | some m => (assocGet m c.failed).getD ST.OK
  | none => ST.OK

/-- XEXIT ends the thread (R73, R85): the lowest unstarted thread follows, else the context is EMPTY. -/
def State.endThread (s : State) (k : Nat) : State :=
  let s := (s.retire k).onCtx k Ctx.left
  match s.image, s.running with
  | some m, some l =>
    if isPx k || isCollective k || recThreads l.bytes ≤ l.next then s
    else ({ s with running := some { l with next := l.next + 1 } } : State).startThread m k (recT0 l.bytes + l.next)
      (recArg l.bytes)
  | _, _ => s

/-- XFINISH after its fence: one arrival (R257). -/
def State.finishGo (s : State) (k : Nat) (rd : Rg) (comm lap deadline : Nat) (fence : Half) : State :=
  match s.commOf comm with
  | none => s.onCtx k fun c => (c.setStatus rd ST.COMM_UNKNOWN).wake
  | some (i, c) =>
    let s := s.onCtx k fun c => c.waits (.finish rd comm lap deadline fence)
    match s.finishArrive i c lap with
    | (none, s) => s
    | (some st, s) => s.onCtx k fun c => (c.setStatus rd (if fence != ST.OK then fence else st)).wake

/-- The hand-off of an XHAND whose fence has ended (R202); rlim is what remains of its stopwatch. -/
def State.handGo (s : State) (k : Nat) (rd : Rg) (a operand deadline : Nat) : State :=
  match s.freeSlot k with
  | none => s
  | some e =>
    let (n, s) := s.addRop k e (.hand rd) false (deadline - s.now)
    let s := s.onCtx k fun c => c.park (.reply n)
    s.sendRequest k n (s.ctx k).xclass.toNat PT.HAND 0 a (leBytes 8 operand)

/-- A context that waits for its remote operations goes on once none is outstanding (R76, R194, R202, R257). -/
def State.fenceLook (s : State) (k : Nat) : State :=
  let c := s.ctx k
  if !c.rops.isEmpty then s
  else
    let st := c.fenceStatus
    let told := { c with failed := [] }
    match c.wait with
    | .fence rd => s.setCtx k (told.setStatus rd st).wake
    | .handFence rd a operand deadline =>
      if st != ST.OK then (s.setCtx k (told.setStatus rd st).wake).retire k
      else (s.setCtx k told).handGo k rd a.toNat operand.toNat deadline
    | .finishFence rd comm lap deadline => (s.setCtx k told).finishGo k rd comm lap deadline st
    | .exitFence => (s.setCtx k told).endThread k
    | _ => s

/-- Arrivals whose XFINISH has expired count once the operations its fence waited for have completed (R79, R257, DEDUCED, log
entry 57). -/
def State.lateArrivals (s : State) (k : Nat) : State :=
  let c := s.ctx k
  let due (e : Nat × Nat × List Nat) : Bool := e.2.2.all fun n => c.rops.all fun r => r.num != n
  let ready := c.late.filter due
  let s := if ready.isEmpty then s else s.setCtx k { c with late := c.late.filter fun e => !due e }
  ready.foldl (fun s e => match s.commOf e.1 with
    | none => s
    | some (i, c) => (s.finishArrive i c e.2.1).2) s

/-- A remote operation has completed: its entries are free, a posted one's failure is kept for the next fence (R76). -/
def State.ropEnd (s : State) (k : Nat) (r : Rop) (st : Half) : State :=
  let s := s.onCtx k fun c => { c with
    rops := c.rops.filter fun o => o.num != r.num,
    failed := if r.posted && st != ST.OK then c.failed ++ [(r.num, st)] else c.failed }
  (s.lateArrivals k).fenceLook k

/-- A vector register or pair loaded with n bytes from the lowest up; the rest of a register stays (DEDUCED, log entry 29). -/
def Ctx.loadV (c : Ctx) (vd : Nat) (n v : Nat) : Ctx :=
  if n = 64 then (c.setV vd (BitVec.ofNat 256 v)).setV (vd + 1) (BitVec.ofNat 256 (v / 2 ^ 256))
  else if n = 32 then c.setV vd (BitVec.ofNat 256 v)
  else c.setV vd (BitVec.ofNat 256 ((c.vr vd).toNat / 2 ^ 128 * 2 ^ 128 + v % 2 ^ 128))

/-- What the context of a parked operation gets: data and status to the registers (R76, R206). -/
def Rop.deliver (r : Rop) (st : Half) (data : List Byte) (c : Ctx) : Ctx :=
  let v := if st = ST.OK then ofLe data else 0
  match r.kind with
  | .load n signed rd => (({ c with xst := st } : Ctx).setX rd (BitVec.ofNat 64 (if signed then sext64 (8 * n) v else v))).wake
  | .loadv n vd => (({ c with xst := st } : Ctx).loadV vd.toNat (if st = ST.OK then n else Nat.max n 32) v).wake
  | .amo rd => (({ c with xst := st } : Ctx).setX rd (BitVec.ofNat 64 v)).wake
  | .cas n rd =>
    let c := ({ c with xst := st } : Ctx).setX rd (BitVec.ofNat 64 v)
    (if n = 16 then c.setX (rd + 1) (BitVec.ofNat 64 (v / 2 ^ 64)) else c).wake
  | .hand rd => (c.setStatus rd st).wake
  | _ => c

/-- The end of an operation with a status: reply or stopwatch (R203, R206). -/
def State.ropFinish (s : State) (k : Nat) (r : Rop) (st : Half) (data : List Byte) : State :=
  match r.kind with
  | .std raw => (s.ropEnd k r st).stdReply k raw st data
  | .load _ _ _ | .loadv _ _ | .amo _ | .cas _ _ | .hand _ =>
    if st = ST.POISONED then s.abortCtx k else ((s.onCtx k (r.deliver st data)).ropEnd k r st).retire k
  | .store | .put | .fadd | .get _ _ => if st = ST.POISONED then s.abortCtx k else s.ropEnd k r st

/-- The data of a get is written at LOCAL (R187, R188). -/
def State.getData (s : State) (k : Nat) (r : Rop) (a : Nat) (data : List Byte) : State :=
  match s.homeOp true a (.store data) (some k) with
  | (.done _, s) => s.ropFinish k r ST.OK []
  | (.held g, s) => s.holdOp g (.getData (hartOf k) r.num a data)
  | (.ue p ps, s) => s.coreUes k (p :: ps)

/-- A context's operation by its number. -/
def State.rop (s : State) (k n : Nat) : Option Rop := (s.ctx k).rops.find? fun r => r.num == n

/-- Whether the core's clock runs, so that it takes a response (R172, R205). -/
def State.coreClock (s : State) (k : Nat) : Bool := if isPx k then s.powered else s.clockOn (clusterOfHart k)

/-- The reply kept at the FX for an operation of a context reaches the core (R206). -/
def State.replyTaken (s : State) (k op : Nat) : State :=
  match s.rop k op with
  | none => s
  | some r =>
    match r.reply with
    | none => s
    | some (st, data) =>
      match r.kind with
      | .get a _ =>
        if st = ST.OK then
          let s := s.onCtx k fun c => { c with rops := c.rops.map fun o => if o.num = op then { o with reply := none } else o }
          s.getData k r a data
        else s.ropFinish k r st data
      | _ => s.ropFinish k r st data

/-- REMOTE_REPLY (R61, R64, R206): the reply of a remote operation, or the response to a standard access beyond the core's own SRAM,
reaches the core; a stopped core takes it after the restart (R172). -/
def execRemoteReply (h : Hart) (op : Nat) (s : State) : Host.Outcome State Fault Refusal :=
  done (
    let k := hartKey h
    if !s.coreClock k then s
    else match (s.ctx k).wait with
      | .response n len => if n = op then s.finish k len id else s.replyTaken k op
      | _ => s.replyTaken k op)

/-- REMOTE_STOPWATCH_EXPIRY (R172, R205): an operation without a reply ends with ST_TIMEOUT, also while the core's clock is stopped;
a reply held for a stopped core is taken instead (DEDUCED, log entry 56). -/
def execRemoteStopwatchExpiry (h : Hart) (op : Nat) (s : State) : Host.Outcome State Fault Refusal :=
  done (
    let k := hartKey h
    match s.rop k op with
    | none => s
    | some r =>
      if r.reply.isSome || s.now < r.deadline || (isPx k && !s.powered) then s
      else (s.count F.FAB_STATS.TIMEOUTS).ropFinish k r ST.TIMEOUT [])

/-! ### Remote operations at issue -/

/-- One remote operation as its instruction asks for it. -/
structure Req where
  a      : Nat
  align  : Nat
  ok     : Bool
  cls    : Nat
  kind   : RopKind
  posted : Bool
  type   : BitVec 6
  sub    : Nat
  data   : List Byte

/-- The memory operation of a request, for the place check of Table 08-15. -/
def Req.op (q : Req) : MemOp :=
  (requestOp ⟨0, 0, 0, q.type, 0, 0, false, 0, 0, 0, BitVec.ofNat 6 q.sub, 0, q.data⟩).1

/-- R78: the status the core refuses a request with; ST_OK where it does not. -/
def State.reqCheck (s : State) (q : Req) : Half :=
  if !q.ok || !s.epOk q.a || (q.type != PT.HAND && !s.placeOk q.a q.op) then ST.RANGE
  else if q.a % q.align != 0 then ST.ALIGN else ST.OK

/-- A remote operation issues (R76 to R78): refused with its status, waiting for an entry, parked, or posted. tell writes
the status of issue. -/
def State.remote (s : State) (k : Nat) (x : Xop) (q : Req) (tell : Half → Ctx → Ctx) : State :=
  let st := s.reqCheck q
  if st != ST.OK then s.finish k 4 (tell st)
  else match s.freeSlot k with
    | none => s.waitQuota k (.quota x)
    | some e =>
      let (n, s) := s.addRop k e q.kind q.posted (s.ctx k).xrlim
      let s := if q.posted then s.finish k 4 (tell ST.OK) else s.onCtx k fun c => c.park (.reply n)
      s.sendRequest k n q.cls q.type q.sub q.a q.data

/-- A status in xst, with the data registers zero (R76). -/
def tellLoad (c : Ctx → Ctx) (st : Half) (c0 : Ctx) : Ctx := { c c0 with xst := st }
def tellXst (st : Half) (c : Ctx) : Ctx := { c with xst := st }
def tellRd (rd : Rg) (st : Half) (c : Ctx) : Ctx := c.setStatus rd st

/-- The bytes of one to two vector registers, lowest first. -/
def Ctx.vbytes (c : Ctx) (v n : Nat) : List Byte :=
  leBytes (Nat.min 32 n) (c.vr v).toNat ++ (if n = 64 then leBytes 32 (c.vr (v + 1)).toNat else [])

/-- A descriptor's bytes: its memory in reset parks the context, which goes on with the same stopwatch after the reset; an
uncorrectable line aborts (R301, R316). -/
def State.withDesc (s : State) (k : Nat) (x : Xop) (deadline a n : Nat) (act : List Byte → State → State) : State :=
  if s.memWaits (offOf a) 64 then (s.onCtx k fun c => c.park (.desc x deadline)).holdOp resetHold (.core (hartOf k))
  else match s.poisonIn (offOf a) n with
    | some p => s.coreUe k p
    | none => let (d, s) := s.read (offOf a) n; act d s

/-- A local extent lies in one place that the test names. -/
def State.within (s : State) (a n : Nat) (ok : Kind → Bool) : Bool :=
  let k := s.kindAt a
  ok k && s.extentIn (· == k) a n

/-- Where an XPUT or XGET descriptor lies: the core's own SRAM; a stack or the near tier for an application core (R84). -/
def State.descPlace (s : State) (k a : Nat) : Bool :=
  s.isSelf a && (if isPx k then s.within (offOf a) 32 (fun x => x == .stack || x == .near)
    else decide (lsramBase (coreOf k) ≤ offOf a ∧ offOf a + 32 ≤ lsramBase (coreOf k) + 0x100000))

/-- The LOCAL extent of a put or get (R188, R84). -/
def State.localPlace (s : State) (k a n : Nat) : Bool :=
  let o := offOf a
  s.isSelf a && (s.within o n (fun x => isStackCsram x || isTier x)
    || (!isPx k && decide (lsramBase (coreOf k) ≤ o ∧ o + n ≤ lsramBase (coreOf k) + 0x100000)))

/-- XPUT and XGET (Table 03-9, R188). -/
def State.putGet (s : State) (k : Nat) (x : Xop) (put : Bool) (rd rs1 : Rg) (deadline : Nat) : State :=
  let a := ((s.ctx k).xr rs1).toNat
  let ok (d : List Byte) : Bool :=
    let rem := fieldAt d 0 8
    let n := fieldAt d 16 4
    decide (1 ≤ n ∧ n ≤ 4096 ∧ fieldAt d 20 1 < 8) && zeroAt d 21 11
      && regionOf (offOf rem) == regionOf (offOf rem + n - 1) && s.localPlace k (fieldAt d 8 8) n
  let q (d data : List Byte) : Req :=
    let loc := offOf (fieldAt d 8 8)
    ⟨fieldAt d 0 8, 1, ok d, fieldAt d 20 1, if put then .put else .get loc (fieldAt d 16 4), true,
      if put then PT.PUT else PT.GET, 0, data⟩
  let probe (d : List Byte) : Req := q d (if put then List.replicate (Nat.min (fieldAt d 16 4) 4096) 0 else leBytes 8 (fieldAt d 16 4))
  if !s.descPlace k a then s.finish k 4 (tellRd rd ST.RANGE)
  else if a % 32 != 0 then
    -- the range checks come first (R13)
    s.finish k 4 (tellRd rd (if s.reqCheck (probe (s.peek (offOf a) 32)) = ST.RANGE then ST.RANGE else ST.ALIGN))
  else s.withDesc k x deadline a 32 fun d s =>
    if !put || s.reqCheck (probe d) != ST.OK then s.remote k x (probe d) (tellRd rd)
    else s.withDesc k x deadline (fieldAt d 8 8) (fieldAt d 16 4) fun bytes s => s.remote k x (q d bytes) (tellRd rd)

/-- XHAND (R200 to R202). -/
def State.handInsn (s : State) (k : Nat) (rd rs1 rs2 : Rg) : State :=
  let c := s.ctx k
  let v := (c.xr rs2).toNat
  let a := (c.xr rs1).toNat
  let owner := v % 2 ^ 16
  let ok := v < 2 ^ 18 && (owner == 0 || v / 2 ^ 16 == 2) && (owner < 0x4000 || owner == 0xFFFF) && s.epOk a
    && (!s.isSelf a || s.regionGoverned (regionOf (offOf a)))
  if !ok then s.finish k 4 (tellRd rd ST.RANGE)
  else
    let s := s.onCtx k fun c => c.park (.handFence rd (c.xr rs1) (c.xr rs2) (s.now + c.xrlim))
    s.fenceLook k

/-! ### Waits -/

/-- XYIELD (Table 03-10): the other selectable contexts of the pipeline issue first. -/
def State.yieldInsn (s : State) (k : Nat) : State :=
  let s := s.finish k 4 id
  let others := (s.harts.map (·.1)).filter fun j => j != k && samePipe j k && s.selectable j
  if isPx k || others.isEmpty then s else s.onCtx k fun c => { c with wait := .yield others }

/-- XBWAIT (R78, R79). -/
def State.bwaitInsn (s : State) (k : Nat) (x : Xop) (rd rs1 rs2 : Rg) (deadline : Nat) : State :=
  let c := s.ctx k
  let a := (c.xr rs1).toNat
  let t := (c.xr rs2).toNat
  if !(s.isSelf a && s.extentIn isSramStack (offOf a) 8) then s.finish k 4 (tellRd rd ST.RANGE)
  else if a % 8 != 0 then s.finish k 4 (tellRd rd ST.ALIGN)
  else s.withDesc k x deadline a 8 fun d s =>
    if t ≤ ofLe d then s.finish k 4 (tellRd rd ST.OK)
    else (s.onCtx k fun c => c.waits (.baton rd (offOf a) t false deadline)).retire k

/-- XSLEEP (R78). -/
def State.sleepInsn (s : State) (k : Nat) (rd rs1 : Rg) : State :=
  let t := ((s.ctx k).xr rs1).toNat
  if t ≤ s.now then s.finish k 4 (tellRd rd ST.OK)
  else if s.now + 2 ^ 40 < t then s.finish k 4 (tellRd rd ST.RANGE)
  else (s.onCtx k fun c => c.waits (.sleep rd t)).retire k

/-- XFINISH (R78, R257). -/
def State.finishInsn (s : State) (k : Nat) (rd rs1 rs2 : Rg) : State :=
  let c := s.ctx k
  let comm := (c.xr rs1).toNat
  if (s.commOf comm).isNone then s.finish k 4 (tellRd rd ST.COMM_UNKNOWN)
  else
    let s := s.onCtx k fun c => c.waits (.finishFence rd comm (c.xr rs2).toNat (s.now + c.xwlim))
    (s.retire k).fenceLook k

/-! ### Commands of the solver and update units (R78, R80) -/

/-- The instruction waits for a queue entry. -/
def State.waitQueue (s : State) (k : Nat) (w : Wait) : State := s.onCtx k fun c => c.waits w

/-- The descriptor of a unit command lies in the issuing cluster's SRAM. -/
def State.cmdPlace (s : State) (k a n : Nat) : Bool :=
  let base := csramBase (clusterOfHart k)
  s.isSelf a && decide (base ≤ offOf a ∧ offOf a + n ≤ base + 0x2000000)

/-- An accepted command: ST_PENDING, or the wait for its completion. -/
def State.accepted (s : State) (k : Nat) (w : Bool) (rd : Rg) (wait : Wait) : State :=
  if w then (s.onCtx k fun c => c.waits wait).retire k else s.finish k 4 (tellRd rd ST.PENDING)

/-- XDSU (R80, R115). One that waited for a full queue reads its descriptor again and repeats its checks when an entry frees: it
issues then (R80, R115, DESIGN CHOICE, log entry 60). -/
def State.dsuInsn (s : State) (k : Nat) (x : Xop) (w : Bool) (rd rs1 : Rg) (deadline : Nat) : State :=
  let a := ((s.ctx k).xr rs1).toNat
  let u := clusterOfHart k
  if !s.cmdPlace k a 64 then s.finish k 4 (tellRd rd ST.RANGE)
  else if a % 64 != 0 then s.finish k 4 (tellRd rd ST.ALIGN)
  else s.withDesc k x deadline a 64 fun d s =>
    let q := s.dsu u
    let h : Heat := ⟨q.nextId, k, d, false⟩
    let st := s.heatCheck u h
    if st != ST.OK then s.finish k 4 (tellRd rd st)
    else if 8 ≤ q.queue.length then s.waitQueue k (.unitQueue x deadline)
    else (s.setDsu u { q with queue := q.queue ++ [h], nextId := q.nextId + 1 }).accepted k w rd (.dsu rd u h.id deadline)

/-- XPUU (R80, R142); the unit's clock starts with it (R376). -/
def State.puuInsn (s : State) (k : Nat) (x : Xop) (w : Bool) (rd rs1 rs2 : Rg) (deadline : Nat) : State :=
  let a := ((s.ctx k).xr rs1).toNat
  let u := ((s.ctx k).xr rs2).toNat
  if 15 < u || !s.cmdPlace k a 128 then s.finish k 4 (tellRd rd ST.RANGE)
  else if a % 128 != 0 then s.finish k 4 (tellRd rd ST.ALIGN)
  else s.withDesc k x deadline a 128 fun d s =>
    let q := s.puu u
    let h : PuuCmd := ⟨q.nextId, k, d, false⟩
    let st := s.puuCheck u h
    if st != ST.OK then s.finish k 4 (tellRd rd st)
    else if 4 ≤ q.queue.length then s.waitQueue k (.unitQueue x deadline)
    else ((s.setPuu u { q with queue := q.queue ++ [h], nextId := q.nextId + 1 }).clockUnit u).accepted k w rd
      (.puu rd u h.id deadline)

/-! ### Tensor instructions -/

/-- The bits of the select operand an instruction leaves free (Table 04-5). -/
def Xop.selBits : Xop → Nat
  | .tzero _ _ => 32
  | .tfill _ _ _ => 16
  | .tcvt _ _ _ _ _ | .twait _ _ | .tstat _ _ _ => 4
  | _ => 8

/-- The contexts that still wait for an entry of an engine's queue, in order of issue (R97). -/
def State.engWaiters (s : State) (e : Nat) : List Nat :=
  (s.engine e).waiters.filter fun c => match (s.ctx (e / 4 * 128 + c)).wait with
    | .engQueue _ _ => true
    | _ => false

/-- R92 to R97: a tensor instruction offered to its engine, behind those that issued before it and wait. -/
def State.offer (s : State) (k : Nat) (x : Xop) (rd : Rg) (sel : Nat) (i : EngInstr) (deadline : Nat) : State :=
  let e := coreOf k * 4 + sel % 4
  let en := s.engine e
  let i := { i with id := en.nextId, slot := sel / 4 % 2 }
  let st := s.engCheck (coreOf k) en i
  if st != ST.OK then s.finish k 4 (tellRd rd st)
  else
    let ahead := (s.engWaiters e).takeWhile (· != ctxOf k)
    if 16 ≤ en.queue.length || !ahead.isEmpty then
      let line := if (s.engWaiters e).contains (ctxOf k) then s.engWaiters e else s.engWaiters e ++ [ctxOf k]
      (s.setEngine e { en with waiters := line }).waitQueue k (.engQueue x deadline)
    else
    let s := s.setEngine e { en with
      queue := en.queue ++ [i], nextId := en.nextId + 1, waiters := en.waiters.filter (· != ctxOf k) }
    s.finish k 4 fun c => { c with tensor := c.tensor ++ [(sel % 4, i.id, none)] }.setStatus rd ST.PENDING

/-- An instruction before its engine is known. -/
def State.plain (s : State) (k : Nat) (op : EngOp) : EngInstr :=
  ⟨0, ctxOf k, op, 0, false, false, [], 0, s.passes, false, false, s.canonical, false⟩

/-- An output descriptor with RM = 7 replaced by the frm of the issuing context (R38); frm 4 to 7 leave it, and it is refused. -/
def Ctx.dynRm (c : Ctx) (d : List Byte) : List Byte :=
  let b := fieldAt d 14 1
  if b / 16 % 8 = 7 && c.frm.toNat ≤ 3 then splice d 14 [BitVec.ofNat 8 (b - 0x70 + 16 * c.frm.toNat)] else d

/-- The tensor set. A descriptor that is not aligned is refused with ST_ALIGN and its contents are not looked at, whatever range faults
they hold (R94, which does not say which status comes first: DESIGN CHOICE, log entry 60). -/
def State.tensorInsn (s : State) (k : Nat) (x : Xop) (deadline : Nat) : State :=
  let c := s.ctx k
  let selOf (r : Rg) : Nat := (c.xr r).toNat
  let bad (r : Rg) : Bool := x.selBits ≤ selOf r
  let refuse (rd : Rg) (st : Half) : State := s.finish k 4 (tellRd rd st)
  let desc (rd rs1 rs2 : Rg) (mk : List Byte → EngInstr) : State :=
    let a := (c.xr rs1).toNat
    let base := lsramBase (coreOf k)
    if bad rs2 || !(s.isSelf a && decide (base ≤ offOf a ∧ offOf a + 64 ≤ base + 0x100000)) then refuse rd ST.RANGE
    else if a % 64 != 0 then refuse rd ST.ALIGN
    else s.withDesc k x deadline a 64 fun d s => s.offer k x rd (selOf rs2) (mk d) deadline
  match x with
  | .tmma pp rd rs1 rs2 =>
    desc rd rs1 rs2 fun d => { s.plain k .mma with desc := d, passes := if pp = 0 then s.passes else pp.toNat }
  | .tcvt sc ov rd rs1 rs2 => desc rd rs1 rs2 fun d => { s.plain k .cvt with desc := c.dynRm d, scale := sc, ovf := ov }
  | .trd sc ov rd rs1 rs2 => desc rd rs1 rs2 fun d => { s.plain k .rd with desc := c.dynRm d, scale := sc, ovf := ov }
  | .tzero rd rs2 =>
    if bad rs2 then refuse rd ST.RANGE
    else s.offer k x rd (selOf rs2)
      { s.plain k .zero with kind64 := bitOf (selOf rs2) 3, running := bitOf (selOf rs2) 4 } deadline
  | .tfill rd rs1 rs2 =>
    if bad rs2 then refuse rd ST.RANGE
    else s.offer k x rd (selOf rs2)
      { s.plain k .fill with kind64 := bitOf (selOf rs2) 3, cells := (c.xr rs1).toNat } deadline
  | .tspill rd rs1 rs2 =>
    if bad rs2 then refuse rd ST.RANGE
    else s.offer k x rd (selOf rs2) { s.plain k .spill with cells := (c.xr rs1).toNat } deadline
  | .twait rd rs2 =>
    if bad rs2 then refuse rd ST.RANGE
    else ((s.onCtx k fun c => c.waits (.engWait rd (selOf rs2) deadline)).retire k).engWake k
  | .tstat rd rs1 rs2 =>
    if bad rs2 then s.finish k 4 fun c => c.setX rd 0
    else ((s.onCtx k fun c => c.waits (.engStat rd (selOf rs2) (c.xr rs1).toNat deadline)).retire k).engWake k
  | _ => s

/-! ### Every Xeol instruction -/

/-- Instructions an application core has not (R84). -/
def Xop.clusterOnly : Xop → Bool
  | .dsu _ _ _ | .puu _ _ _ _ | .tmma _ _ _ _ | .tcvt _ _ _ _ _ | .trd _ _ _ _ _ | .tzero _ _ | .tfill _ _ _
  | .tspill _ _ _ | .twait _ _ | .tstat _ _ _ => true
  | _ => false

/-- An issued Xeol instruction; deadline ends its waits under xwlim (R79). -/
def State.xop (s : State) (k : Nat) (x : Xop) (deadline : Nat) : State :=
  let c := s.ctx k
  let a (r : Rg) : Nat := (c.xr r).toNat
  let cls := c.xclass.toNat
  if !x.legal || (isPx k && x.clusterOnly) then s.trap k .illegalInsn
  else match x with
    | .ld z rd rs1 => s.remote k x ⟨a rs1, 2 ^ z.toNat, true, cls, .load (2 ^ z.toNat) true rd, false, PT.LOAD, z.toNat, []⟩
        (tellLoad fun c => c.setX rd 0)
    | .ldu z rd rs1 => s.remote k x ⟨a rs1, 2 ^ z.toNat, true, cls, .load (2 ^ z.toNat) false rd, false, PT.LOAD, z.toNat, []⟩
        (tellLoad fun c => c.setX rd 0)
    | .ldv z vd rs1 =>
      let n := 16 * 2 ^ z.toNat
      s.remote k x ⟨a rs1, n, true, cls, .loadv n vd, false, PT.LOAD, 4 + z.toNat, []⟩ (tellLoad fun c => c.loadV vd.toNat (Nat.max n 32) 0)
    | .st z rs1 rs2 =>
      s.remote k x ⟨a rs1, 2 ^ z.toNat, true, cls, .store, true, PT.STORE, z.toNat, leBytes (2 ^ z.toNat) (a rs2)⟩ tellXst
    | .stv z rs1 vs =>
      let n := 16 * 2 ^ z.toNat
      s.remote k x ⟨a rs1, n, true, cls, .store, true, PT.STORE, 4 + z.toNat, c.vbytes vs.toNat n⟩ tellXst
    | .put rd rs1 => s.putGet k x true rd rs1 deadline
    | .get rd rs1 => s.putGet k x false rd rs1 deadline
    | .amo op rd rs1 rs2 =>
      let code := match op with
        | .add => 0 | .min => 1 | .max => 2 | .and => 3 | .or => 4 | _ => 5
      s.remote k x ⟨a rs1, 8, true, cls, .amo rd, false, PT.AMO, code, leBytes 8 (a rs2)⟩ (tellLoad fun c => c.setX rd 0)
    | .cas q rd rs1 rs2 =>
      let n := if q then 16 else 8
      let data := if q then leBytes 8 (a rd) ++ leBytes 8 (a (rd + 1)) ++ leBytes 8 (a rs2) ++ leBytes 8 (a (rs2 + 1))
        else leBytes 8 (a rd) ++ leBytes 8 (a rs2)
      s.remote k x ⟨a rs1, n, true, cls, .cas n rd, false, PT.CAS, b2n q, data⟩
        (tellLoad fun c => if q then (c.setX rd 0).setX (rd + 1) 0 else c.setX rd 0)
    | .fadd rd rs1 fs2 =>
      s.remote k x ⟨a rs1, 64, true, cls, .fadd, true, PT.FADD, 0, leBytes 8 (c.fr fs2).toNat⟩ (tellRd rd)
    | .fence rd => (((s.onCtx k fun c => c.waits (.fence rd)).retire k)).fenceLook k
    | .hand rd rs1 rs2 => s.handInsn k rd rs1 rs2
    | .yield => s.yieldInsn k
    | .bwait rd rs1 rs2 => s.bwaitInsn k x rd rs1 rs2 deadline
    | .sleep rd rs1 => s.sleepInsn k rd rs1
    | .finish rd rs1 rs2 => s.finishInsn k rd rs1 rs2
    | .dsu w rd rs1 => s.dsuInsn k x w rd rs1 deadline
    | .puu w rd rs1 rs2 => s.puuInsn k x w rd rs1 rs2 deadline
    | .exit => (s.onCtx k fun c => c.waits .exitFence).fenceLook k
    | _ => s.tensorInsn k x deadline

/-- A status where the instruction has a place for one, its data registers zero (R76). -/
def Xop.tell (x : Xop) (st : Half) : Ctx → Ctx :=
  match x with
  | .ld _ rd _ | .ldu _ rd _ | .amo _ rd _ _ => tellLoad (fun c => c.setX rd 0) st
  | .ldv z vd _ => tellLoad (fun c => c.loadV vd.toNat (Nat.max (16 * 2 ^ z.toNat) 32) 0) st
  | .cas q rd _ _ => tellLoad (fun c => if q then (c.setX rd 0).setX (rd + 1) 0 else c.setX rd 0) st
  | .st _ _ _ | .stv _ _ _ => tellXst st
  | .tstat rd _ _ => fun c => c.setX rd 0
  | .yield | .exit => id
  | .put rd _ | .get rd _ | .fadd rd _ _ | .fence rd | .hand rd _ _ | .bwait rd _ _ | .sleep rd _ | .finish rd _ _ | .dsu _ rd _
  | .puu _ rd _ _ | .tmma _ rd _ _ | .tcvt _ _ rd _ _ | .trd _ _ rd _ _ | .tzero rd _ | .tfill rd _ _ | .tspill rd _ _
  | .twait rd _ => tellRd rd st

/-- A Xeol instruction issues. -/
def State.xissue (s : State) (h : Hart) (x : Xop) : State :=
  let k := hartKey h
  s.issue k 4 (x.tell ST.ABORTED) fun s => s.xop k x (s.now + (s.ctx k).xwlim)

/-- A parked access whose memory is free again (R291, R316): performed now; a fetch makes its context READY. -/
def State.resume (s : State) (k : Nat) : State :=
  match (s.ctx k).wait with
  | .memory raw => s.standard RegPort.closed k raw
  | .desc x deadline => s.xop k x deadline
  | .fetch => s.onCtx k Ctx.ready
  | _ => s

/-- XLD. -/
def execXld (h : Hart) (sz : BitVec 2) (rd rs1 : Rg) (s : State) := done (s.xissue h (.ld sz rd rs1))
/-- XLDU. -/
def execXldu (h : Hart) (sz : BitVec 2) (rd rs1 : Rg) (s : State) := done (s.xissue h (.ldu sz rd rs1))
/-- XLDV. -/
def execXldv (h : Hart) (sz : BitVec 2) (vd rs1 : Rg) (s : State) := done (s.xissue h (.ldv sz vd rs1))
/-- XST. -/
def execXst (h : Hart) (sz : BitVec 2) (rs1 rs2 : Rg) (s : State) := done (s.xissue h (.st sz rs1 rs2))
/-- XSTV. -/
def execXstv (h : Hart) (sz : BitVec 2) (rs1 vs : Rg) (s : State) := done (s.xissue h (.stv sz rs1 vs))
/-- XPUT. -/
def execXput (h : Hart) (rd rs1 : Rg) (s : State) := done (s.xissue h (.put rd rs1))
/-- XGET. -/
def execXget (h : Hart) (rd rs1 : Rg) (s : State) := done (s.xissue h (.get rd rs1))
/-- XAMO.ADD. -/
def execXamoAdd (h : Hart) (rd rs1 rs2 : Rg) (s : State) := done (s.xissue h (.amo .add rd rs1 rs2))
/-- XAMO.MIN. -/
def execXamoMin (h : Hart) (rd rs1 rs2 : Rg) (s : State) := done (s.xissue h (.amo .min rd rs1 rs2))
/-- XAMO.MAX. -/
def execXamoMax (h : Hart) (rd rs1 rs2 : Rg) (s : State) := done (s.xissue h (.amo .max rd rs1 rs2))
/-- XAMO.AND. -/
def execXamoAnd (h : Hart) (rd rs1 rs2 : Rg) (s : State) := done (s.xissue h (.amo .and rd rs1 rs2))
/-- XAMO.OR. -/
def execXamoOr (h : Hart) (rd rs1 rs2 : Rg) (s : State) := done (s.xissue h (.amo .or rd rs1 rs2))
/-- XAMO.SWAP. -/
def execXamoSwap (h : Hart) (rd rs1 rs2 : Rg) (s : State) := done (s.xissue h (.amo .swap rd rs1 rs2))
/-- XCAS.D. -/
def execXcasD (h : Hart) (rd rs1 rs2 : Rg) (s : State) := done (s.xissue h (.cas false rd rs1 rs2))
/-- XCAS.Q. -/
def execXcasQ (h : Hart) (rd rs1 rs2 : Rg) (s : State) := done (s.xissue h (.cas true rd rs1 rs2))
/-- XFADD. -/
def execXfadd (h : Hart) (rd rs1 fs2 : Rg) (s : State) := done (s.xissue h (.fadd rd rs1 fs2))
/-- XFENCE. -/
def execXfence (h : Hart) (rd : Rg) (s : State) := done (s.xissue h (.fence rd))
/-- XHAND. -/
def execXhand (h : Hart) (rd rs1 rs2 : Rg) (s : State) := done (s.xissue h (.hand rd rs1 rs2))
/-- XYIELD. -/
def execXyield (h : Hart) (s : State) := done (s.xissue h .yield)
/-- XBWAIT. -/
def execXbwait (h : Hart) (rd rs1 rs2 : Rg) (s : State) := done (s.xissue h (.bwait rd rs1 rs2))
/-- XSLEEP. -/
def execXsleep (h : Hart) (rd rs1 : Rg) (s : State) := done (s.xissue h (.sleep rd rs1))
/-- XFINISH. -/
def execXfinish (h : Hart) (rd rs1 rs2 : Rg) (s : State) := done (s.xissue h (.finish rd rs1 rs2))
/-- XDSU. -/
def execXdsu (h : Hart) (w : Bool) (rd rs1 : Rg) (s : State) := done (s.xissue h (.dsu w rd rs1))
/-- XPUU. -/
def execXpuu (h : Hart) (w : Bool) (rd rs1 rs2 : Rg) (s : State) := done (s.xissue h (.puu w rd rs1 rs2))
/-- XEXIT. -/
def execXexit (h : Hart) (s : State) := done (s.xissue h .exit)
/-- XTMMA. -/
def execXtmma (h : Hart) (passes : BitVec 2) (rd rs1 rs2 : Rg) (s : State) := done (s.xissue h (.tmma passes rd rs1 rs2))
/-- XTCVT. -/
def execXtcvt (h : Hart) (scale ovf : Bool) (rd rs1 rs2 : Rg) (s : State) := done (s.xissue h (.tcvt scale ovf rd rs1 rs2))
/-- XTRD. -/
def execXtrd (h : Hart) (scale ovf : Bool) (rd rs1 rs2 : Rg) (s : State) := done (s.xissue h (.trd scale ovf rd rs1 rs2))
/-- XTZERO. -/
def execXtzero (h : Hart) (rd rs2 : Rg) (s : State) := done (s.xissue h (.tzero rd rs2))
/-- XTFILL. -/
def execXtfill (h : Hart) (rd rs1 rs2 : Rg) (s : State) := done (s.xissue h (.tfill rd rs1 rs2))
/-- XTSPILL. -/
def execXtspill (h : Hart) (rd rs1 rs2 : Rg) (s : State) := done (s.xissue h (.tspill rd rs1 rs2))
/-- XTWAIT. -/
def execXtwait (h : Hart) (rd rs2 : Rg) (s : State) := done (s.xissue h (.twait rd rs2))
/-- XTSTAT. -/
def execXtstat (h : Hart) (rd rs1 rs2 : Rg) (s : State) := done (s.xissue h (.tstat rd rs1 rs2))

/-! ### Events of a waiting context -/

/-- XBWAIT_SATISFIED (R79): a write to the baton's line met the threshold. -/
def execXbwaitSatisfied (h : Hart) (s : State) : Host.Outcome State Fault Refusal :=
  done (
    let k := hartKey h
    match (s.ctx k).wait with
    | .baton rd _ _ true _ => if s.coreClock k then s.onCtx k fun c => (c.setStatus rd ST.OK).wake else s
    | _ => s)

/-- XSLEEP_TICK_REACHED. -/
def execXsleepTickReached (h : Hart) (s : State) : Host.Outcome State Fault Refusal :=
  done (
    let k := hartKey h
    match (s.ctx k).wait with
    | .sleep rd t => if t ≤ s.now && s.coreClock k then s.onCtx k fun c => (c.setStatus rd ST.OK).wake else s
    | _ => s)

/-- The status register of an instruction that waits for a queue. -/
def Xop.rd : Xop → Rg
  | .dsu _ rd _ | .puu _ rd _ _ | .tmma _ rd _ _ | .tcvt _ _ rd _ _ | .trd _ _ rd _ _ | .tzero rd _ | .tfill rd _ _
  | .tspill rd _ _ => rd
  | _ => 0

/-- The stopwatch of a wait and the register that takes ST_TIMEOUT (R79, R80, R97, R100, R202). -/
def Wait.stopwatch : Wait → Option (Nat × Rg)
  | .handFence rd _ _ d | .finishFence rd _ _ d | .baton rd _ _ _ d | .finish rd _ _ d _ | .dsu rd _ _ d | .puu rd _ _ d
  | .engWait rd _ d | .engStat rd _ _ d => some (d, rd)
  | .unitQueue x d | .engQueue x d => some (d, x.rd)
  | _ => Option.none

/-- WAIT_STOPWATCH_EXPIRY (R79, R172): the context goes on with ST_TIMEOUT, also while its clock is stopped; what it waited for is
not cancelled. A baton comparison that has succeeded gives ST_OK, and an XFINISH in its fence arrives once the fence's
operations have completed (DEDUCED, log entry 57). -/
def execWaitStopwatchExpiry (h : Hart) (s : State) : Host.Outcome State Fault Refusal :=
  done (
    let k := hartKey h
    let w := (s.ctx k).wait
    match w.stopwatch with
    | none => s
    | some (d, rd) =>
      if s.now < d || (isPx k && !s.powered) then s
      else
        let (st, s) : Half × State := match w with
          | .handFence _ _ _ _ => (ST.TIMEOUT, (s.count F.FAB_STATS.TIMEOUTS).retire k)
          | .unitQueue _ _ | .engQueue _ _ => (ST.TIMEOUT, s.retire k)
          | .finishFence _ comm lap _ =>
            (ST.TIMEOUT, s.onCtx k fun c => { c with late := c.late ++ [(comm, lap, c.rops.map (·.num))] })
          | .baton _ _ _ met _ => (if met then ST.OK else ST.TIMEOUT, s)
          | _ => (ST.TIMEOUT, s)
        s.onCtx k fun c => (c.setStatus rd st).wake)

/-- QUOTA_ENTRY_FREED (R77): the instruction that waited issues. -/
def execQuotaEntryFreed (h : Hart) (s : State) : Host.Outcome State Fault Refusal :=
  done (
    let k := hartKey h
    if (s.freeSlot k).isNone || !s.coreClock k then s
    else match (s.ctx k).wait with
      | .quota x => s.xop k x (s.now + (s.ctx k).xwlim)
      | .quotaStd raw =>
        match (insnOf raw).bind fun (w, _) => lsOf (s.ctx k) w with
        | some l => s.stdRemote k raw l
        | none => s
      | .handFence rd a operand deadline =>
        if (s.ctx k).rops.isEmpty then s.handGo k rd a.toNat operand.toNat deadline else s
      | _ => s)

/-- UNIT_QUEUE_ENTRY_FREED (R80, R97): the instruction that waited is accepted. -/
def execUnitQueueEntryFreed (h : Hart) (s : State) : Host.Outcome State Fault Refusal :=
  done (
    let k := hartKey h
    match (s.ctx k).wait with
    | .unitQueue x d | .engQueue x d => if s.coreClock k then s.xop k x d else s
    | _ => s)

/-- CONTEXT_ABORT_COMPLETE (Table 03-3): ABORTED becomes EMPTY; an application core stays until the next start count. -/
def execContextAbortComplete (h : Hart) (s : State) : Host.Outcome State Fault Refusal :=
  done (
    let k := hartKey h
    if (s.ctx k).st = .aborted && !isPx k then (s.onCtx k Ctx.left).unloadIfDue else s)

end Sys2Proof.Machine
end

