-- ==== Sys2Proof/Machine/Digest.lean ====
section
/-! DEFINITION. Digest engines (R280 to R284): posts, the checks, completion. -/

namespace Sys2Proof.Machine

/-- Table 11-7. -/
def DigCmd.u (c : DigCmd) (o n : Nat) : Nat := fieldAt c.desc o n
def DigCmd.op (c : DigCmd) : Nat := c.u 0 1
def DigCmd.src_ (c : DigCmd) : Nat := c.u 8 8
def DigCmd.len (c : DigCmd) : Nat := c.u 16 8
def DigCmd.total (c : DigCmd) : Nat := c.u 24 8
def DigCmd.out (c : DigCmd) : Nat := c.u 40 8
def DigCmd.doneAt (c : DigCmd) : Nat := c.u 56 8
/-- Source and output bytes. -/
def DigCmd.srcLen (c : DigCmd) : Nat := match c.op with
  | 1 => 64 * c.len | 3 => 256 | _ => c.len
def DigCmd.outLen (c : DigCmd) : Nat := if c.op = 0 then 64 * chunkCount c.len else 64

/-- The completion word's place: 8-byte aligned, in this package's SRAM or stacks. -/
def State.doneOk (s : State) (a : Nat) : Bool := s.isSelf a && a % 8 == 0 && s.extentIn isSramStack (offOf a) 8

/-- The places of R283. -/
def State.digPlace (s : State) (a n : Nat) : Bool :=
  n == 0 || (s.isSelf a && s.extentIn (fun k => isSramStack k || isTier k) (offOf a) n)

/-- R283. -/
def State.digCheck (s : State) (c : DigCmd) : Half :=
  let fl := c.u 1 1
  let off := c.u 32 8
  let fields := c.op ≤ 3 && (fl == 0 || ((c.op == 1 || c.op == 2) && fl % 2 == 0 && fl < 8)) && zeroAt c.desc 2 6
    && (if c.op = 0 then off % 2 ^ 20 == 0 else off == 0) && (c.op == 3 || c.u 48 8 == 0)
    && (c.op != 3 || (c.len == 0 && c.total == 0))
  let shape := match c.op with
    | 0 => off + c.len ≤ c.total && (c.len % 2 ^ 20 == 0 || c.total ≤ off + c.len)
    | 1 => c.len == chunkCount c.total
    | 2 => c.len == c.total
    | _ => true
  if fields && shape && s.digPlace c.src_ c.srcLen && s.digPlace c.out c.outLen then ST.OK else ST.RANGE

/-- A post of DIG_POST_k (R282): accepted, or refused with KIND 3. -/
def State.digPost (s : State) (src : Source) (k : Nat) (value : Word64) : State :=
  let a := offOf value.toNat
  let no (s : State) : State := (s.refuse src 3 (R.DIG_POST + 8 * k) value).count F.DIG_STATS.REFUSED
  let inside (lo size : Nat) : Bool := decide (lo ≤ a ∧ a + 64 ≤ lo + size)
  if !(s.isSelf value.toNat && a % 64 == 0 && (inside (stackBase k) 0x1800000000 || inside (csramBase (2 * k)) 0x4000000))
  then no s
  else if 16 ≤ (s.dig k).queue.length then no s
  else match s.poisonIn a 64 with
    | some p => (no s).uncorrectable p none (16 * k) none 0
    | none =>
      let (d, s) := s.read a 64
      let c : DigCmd := ⟨d, src⟩
      if !s.doneOk c.doneAt then no s
      else s.setDig k { s.dig k with queue := (s.dig k).queue ++ [c] }

/-- The running command of engine k ends: its completion word, the counts. -/
def State.digEnd (s : State) (k : Nat) (c : DigCmd) (st : Half) : State :=
  let s := s.setDig k { s.dig k with queue := (s.dig k).queue.tail }
  let s := (s.putNat (offOf c.doneAt) 8 (completionWord st 0) (16 * k)).count F.DIG_STATS.DONE
  if st = ST.RANGE then s.count F.DIG_STATS.REFUSED else s

/-- Bytes hashed: whole MiB are counted. -/
def State.hashed (s : State) (n : Nat) : State :=
  let t := s.digBytes + n
  let s := { s with digBytes := t % 2 ^ 20 }
  if t < 2 ^ 20 then s else s.count F.DIG_STATS.MIB 0 (t / 2 ^ 20)

/-- What a command writes. -/
def DigCmd.result (c : DigCmd) (data : List Byte) : List Byte :=
  match c.op with
  | 0 => (digestChunks (chunkCount c.len) data).flatMap sha3
  | 1 => digestRoot data c.total
  | 2 => digestOf data
  | _ => digestBind (c.u 48 8) data

/-- A bound digest set, with its measurement (R283, Table 15-5). -/
def State.bindDigest (s : State) (j : Nat) (d : List Byte) : State :=
  let s := (List.range 8).foldl (fun (s : State) i =>
    s.setReg (R.DIG_BOUND + 8 * (8 * j + i)) 0 (BitVec.ofNat 64 (fieldAt d (8 * i) 8))) s
  s.extendMr (4 + j) d

/-- The running command, the oldest posted, ends (R282, R283); not while the package loses its power (R370). -/
def State.digDone (s : State) (k : Nat) : State :=
  match (s.dig k).queue with
  | [] => s
  | c :: _ =>
    if !s.powered then s
    else if s.digFenced k then s.digEnd k c ST.ABORTED
    else if s.digCheck c != ST.OK then s.digEnd k c ST.RANGE
    else
      let a := offOf c.src_
      let o := offOf c.out
      if s.memWaits a then s.holdOp resetHold (.unit (.dig k))
      else match (s.writeHold o c.outLen).or (s.writeHold (offOf c.doneAt) 8) with
        | some g => s.holdOp g (.unit (.dig k))
        | none =>
          match (s.poisonIn a c.srcLen).or (s.poisonPart o c.outLen) with
          | some p => (s.digEnd k c ST.ABORTED).uncorrectable p none (16 * k) none ST.ABORTED
          | none =>
            let (data, s) := s.read a c.srcLen
            let d := c.result data
            let s := (s.hashed c.srcLen).homeWrite o d
            let s := if bitOf (c.u 1 1) 1 then s.bindDigest 0 d else s
            let s := if bitOf (c.u 1 1) 2 then s.bindDigest 1 d else s
            s.digEnd k c ST.OK

/-- DIGEST_COMMAND_COMPLETE (R282, R283). -/
def execDigestCommandComplete (unit : BitVec 4) (s : State) : Host.Outcome State Fault Refusal := done (s.digDone unit.toNat)

/-- DIG_ENGINE_FAULT (R300): the running command ends with ST_ABORTED and the engine is fenced. -/
def execDigEngineFault (unit : BitVec 4) (s : State) : Host.Outcome State Fault Refusal :=
  done (
    let k := unit.toNat
    let s := match (s.dig k).queue with
      | c :: _ => s.digEnd k c ST.ABORTED
      | [] => s
    let s := s.setDig k { s.dig k with fenced := true }
    s.raise { ErrInfo.of .digFault with core := 16 * k, status := ST.ABORTED })

end Sys2Proof.Machine
end

