-- ==== Sys2Proof/Machine/Split.lean ====
section
/-! DEFINITION. Held writes and their release (R291, R292, R316), and the split engine (R285 to R299). -/

namespace Sys2Proof.Machine

/-! ### Release -/

/-- A host CXL.mem write at a local offset (R326): not checked against region states, held by protection; on a poisoned line
a partial write is recorded and not performed. -/
def State.hostWrite (s : State) (a : Nat) (bs : List Byte) : State :=
  match s.writeHold a bs.length with
  | some g => s.holdOp g (.host a bs)
  | none =>
    match s.poisonPart a bs.length with
    | some p => s.uncorrectable p none 0 none 0
    | none => s.writeBytes a bs

/-- A host CXL.mem read at a local offset (R326): poisoned data on a marked line. -/
def State.hostRead (s : State) (a n : Nat) : State :=
  if s.memWaits a n then s.holdOp resetHold (.unit (.hostRead a n))
  else match s.poisonIn a n with
    | some p => (s.uncorrectable p none 0 none 0).emit (.cxlData (s.peek a n) true)
    | none =>
      let (bs, s) := s.read a n
      s.emit (.cxlData bs false)

/-- A unit's event that waited happens. A load is gone on with by its own command. -/
def State.unitEvent (s : State) (e : UnitEvent) : State :=
  match e with
  | .engine e xfer stall => s.engineEnd e xfer stall
  | .lane op u lane stall => s.laneRun op u lane stall
  | .heat u => s.heatEnd u
  | .puu u op n =>
    match op with
    | 0 => s.normGo u
    | 1 => s.beginGo u
    | _ => s.updateRun u op n
  | .puuEnd u stall park => s.puuEnd u stall park
  | .dig k => s.digDone k
  | .transfer id => s.transferStep id
  | .relay u => s.relayPump u
  | .hostRead a n => s.hostRead a n
  | .mgmt => s

/-- One held access goes on. -/
def State.release1 (s : State) (op : HeldOp) : State :=
  match op with
  | .core h => s.resume (hartKey h)
  | .self h n cls a op =>
    let k := hartKey h
    s.selfOp k n cls a op (s.rop k n).isSome
  | .selfHand h n a operand => if (s.rop (hartKey h) n).isSome then s.selfHand (hartKey h) n a operand else s
  | .getData h n a bytes =>
    let k := hartKey h
    match s.rop k n with
    | none => s
    | some r => s.getData k r a bytes
  | .remote port pk => if pk.type == PT.COL_DATA then s.onColData port pk else s.performRequest port pk
  | .arrived port pk => s.homeRequest port pk
  | .write a bs core => s.put a bs core
  | .launch src v arrival => s.launchRead src v arrival
  | .unit e => s.unitEvent e
  | .host a bs => s.hostWrite a bs
  | .post _ _ _ => s

/-- Whether a held access writes: a load may wait for its order only (R192). -/
def HeldOp.writes : HeldOp → Bool
  | .self _ _ _ _ op => !op.isLoad
  | .remote _ pk => pk.type != PT.LOAD && pk.type != PT.GET
  | _ => true

/-- A granule's protection is lifted: its held accesses go on in order of arrival, each write adding its wait (R291, R292). -/
def State.liftGranule (s : State) (g : Nat) : State :=
  let mine := s.heldWrites.filter fun h => h.granule == g
  let s := { s with
    protectedGranules := s.protectedGranules.filter (· != g),
    heldWrites := s.heldWrites.filter fun h => h.granule != g,
    splPrio := s.splPrio.filter (· != g) }
  mine.foldl (fun s h =>
    let w := s.now - h.since
    (if h.op.writes then (s.count F.SPL_STALL.STALL_TICKS 0 w).countMax F.SPL_STALL.MAX_STALL 0 w else s).release1 h.op) s

/-- Every protection is lifted. -/
def State.liftAll (s : State) : State := s.protectedGranules.foldl State.liftGranule s

/-! ### Images -/

def SplCmd.u (c : SplCmd) (o n : Nat) : Nat := fieldAt c.desc o n
def SplCmd.op (c : SplCmd) : Nat := c.u 0 1
def SplCmd.comm (c : SplCmd) : Nat := c.u 4 2
def SplCmd.recmask (c : SplCmd) : Nat := c.u 6 2
def SplCmd.lap (c : SplCmd) : Nat := c.u 8 8
def SplCmd.image (c : SplCmd) : Nat := c.u 16 8
def SplCmd.table (c : SplCmd) : Nat := c.u 24 8
def SplCmd.aux (c : SplCmd) : Nat := c.u 32 8
def SplCmd.arg (c : SplCmd) : Nat := c.u 40 8
def SplCmd.count (c : SplCmd) : Nat := c.u 48 4
def SplCmd.doneAt (c : SplCmd) : Nat := c.u 56 8
def SplCmd.digest (c : SplCmd) : List Byte := slice c.desc 64 64

/-- Places a table, a summary or an old image's piece can lie in (DEDUCED, log entry 30). -/
def splPlace : Kind → Bool := fun k => isSramStack k || isTier k || k == .hwin

/-- A local extent of the package in such places. -/
def State.splExtent (s : State) (a n : Nat) (ok : Kind → Bool := splPlace) : Bool := s.isSelf a && s.extentIn ok (offOf a) n

/-- The places of an image (R287): one of the near tier, the far tier, the host window. -/
def State.imagePlace (s : State) (a n : Nat) : Bool :=
  s.isSelf a && s.within (offOf a) n fun k => isTier k || k == .hwin

/-- Cells of an extent with places relative to its start. -/
def State.cellsOf (s : State) (a n : Nat) : List Host.Cell :=
  match place a with
  | .hwin o => (s.hostMem.filter fun e => s.hwinPhys o ≤ e.1 && e.1 < s.hwinPhys o + n).map fun e => (e.1 - s.hwinPhys o, e.2)
  | _ => (s.mem.filter fun e => a ≤ e.1 && e.1 < a + n).map fun e => (e.1 - a, e.2)

/-- An extent of a memory replaced by cells relative to its start. -/
def memFill (m : Memory) (a n : Nat) (cells : List Host.Cell) : Memory :=
  (m.filter fun e => e.1 < a) ++ (cells.map fun e => (a + e.1, e.2)) ++ (m.filter fun e => a + n ≤ e.1)

/-- n bytes copied between two extents: whole lines, so the target's marks go (R168); lines and home writes are
counted. -/
def State.copyBytes (s : State) (src dst n : Nat) : State :=
  let cells := s.cellsOf src n
  let s := s.countLines src n false
  let s := match place dst with
    | .hwin o => { s with hostMem := memFill s.hostMem (s.hwinPhys o) n cells }
    | _ => { s with mem := memFill s.mem dst n cells }
  let s := { s with poisoned := s.poisoned.filter fun p => !(dst ≤ p && p + poisonUnit p ≤ dst + n) }
  ((s.countHome dst n).countLines dst n true).afterWrite dst n none

/-- A command ends: its completion word (R289), the count of statuses other than ST_OK. -/
def State.splEnd (s : State) (c : SplCmd) (st : Half) : State :=
  let s := s.putNat (offOf c.doneAt) 8 (completionWord st 0)
  if st = ST.OK then s else s.count F.SPL_STATS.REFUSED

/-- The running START ends without a split (R293, R299). -/
def State.startEnds (s : State) (c : SplCmd) (st : Half) : State :=
  let s := { s with splRun := none }.liftAll
  (s.splEnd c st).count F.SPL_STATS.ABANDONED

/-! ### START (R289, R290) -/

/-- Extent i of a table: source and length. -/
def extentAt (t : List Byte) (i : Nat) : Nat × Nat := (fieldAt t (16 * i) 8, fieldAt t (16 * i + 8) 8)

/-- Two extents do not meet. -/
def disjoint (x y : Nat × Nat) : Bool := offOf x.1 + x.2 ≤ offOf y.1 || offOf y.1 + y.2 ≤ offOf x.1
def allDisjoint : List (Nat × Nat) → Bool
  | [] => true
  | e :: es => es.all (disjoint e) && allDisjoint es

/-- Step records a mask holds: unit and address. -/
def recordsOf (mask : Nat) (addrs : List Byte) : List (Nat × Nat) :=
  (List.range 16).filterMap fun k => if bitOf mask k then some (k, fieldAt addrs (8 * k) 8) else none

/-- Rank of this package in a communicator. -/
def State.rankIn (s : State) (c : Comm) : Option Nat := firstIdx (· == s.self) c.members

/-- What a command reads beside its descriptor, by place and bytes. -/
def SplCmd.reads (c : SplCmd) : List (Nat × Nat) :=
  match c.op with
  | 0 => [(c.table, 16 * c.count)] ++ (if c.recmask = 0 then [] else [(c.aux, 128)])
  | 1 => []
  | 3 => [(c.table, 192 * c.count)] ++ (if c.aux = 0 then [] else [(c.aux, 256)])
  | _ => []

/-- The range checks of Table 12-2. -/
def State.splFields (s : State) (c : SplCmd) : Bool :=
  let z (o n : Nat) : Bool := zeroAt c.desc o n
  let reads := c.reads.all fun e => s.splExtent e.1 e.2
  z 1 3 && z 52 4 && match c.op with
    | 0 => decide (1 ≤ c.count ∧ c.count ≤ 64) && reads
    | 1 => z 4 12 && z 32 20 && z 64 64 && s.isSelf c.image
    | 2 => z 4 12 && z 32 20 && z 64 64 && s.epOk c.image && s.splExtent c.table 192
    | 3 => z 6 2 && z 8 16 && decide (1 ≤ c.count ∧ c.count ≤ 16384) && reads
    | 4 => z 4 52 && z 64 64
    | _ => false

/-- The extents, records and status of a START's checks, in the order of R289. -/
def State.startCheck (s : State) (c : SplCmd) : Half :=
  if !s.splFields c then ST.RANGE
  else if c.busy then ST.SPLIT_BUSY
  else match s.commOf c.comm with
    | none => ST.COMM_UNKNOWN
    | some (_, m) =>
      let exts := (List.range c.count).map (extentAt (s.peek (offOf c.table) (16 * c.count)))
      let recs := recordsOf c.recmask (s.peek (offOf c.aux) 128)
      let len := (exts.map (·.2)).sum
      let total := 4096 + len + 64 * m.members.length
      let img := (c.image, total)
      if (s.rankIn m).isNone then ST.COMM_UNKNOWN
      else if m.lapDone != some c.lap then ST.RANGE
      else if !recs.all fun r => s.splExtent r.2 64 then ST.RANGE
      else if recs.any fun r => s.peekNat (offOf r.2) 8 != c.lap then ST.SPLIT_MIXED
      else if exts.any fun e => e.1 % 2 ^ 21 != 0 || e.2 % 2 ^ 21 != 0 || e.2 == 0 then ST.ALIGN
      else if !exts.all fun e => s.splExtent e.1 e.2 fun k => k == .stack || isTier k then ST.RANGE
      else if !(allDisjoint exts && exts.all (disjoint img)) then ST.RANGE
      else if c.image % 4096 != 0 then ST.ALIGN
      else if c.arg < total || !s.imagePlace c.image total then ST.RANGE
      else ST.OK

/-- The header of Table 12-1, unsealed and without SHARD. -/
def State.splHeader (s : State) (c : SplCmd) (m : Comm) : List Byte :=
  let table := s.peek (offOf c.table) (16 * c.count)
  let exts := (List.range c.count).map (extentAt table)
  let aux := if c.recmask = 0 then List.replicate 128 0 else s.peek (offOf c.aux) 128
  let held (k : Nat) : Bool := bitOf c.recmask k
  let rec_ (k : Nat) : List Byte := if held k then s.peek (offOf (fieldAt aux (8 * k) 8)) 64 else List.replicate 64 0
  let addr (k : Nat) : List Byte := if held k then slice aux (8 * k) 8 else List.replicate 8 0
  let b := [0x45, 0x4F, 0x4C, 0x53, 0x50, 0x4C, 0x54, 0x31] ++ leBytes 2 1 ++ leBytes 2 s.jobTag
    ++ leBytes 4 (2 * b2n s.canonical) ++ leBytes 8 c.lap ++ leBytes 4 m.members.length ++ leBytes 4 ((s.rankIn m).getD 0)
    ++ leBytes 2 s.self ++ leBytes 2 c.recmask ++ leBytes 4 c.count ++ leBytes 8 (exts.map (·.2)).sum ++ leBytes 8 m.sig
    ++ List.replicate 8 0 ++ c.digest ++ List.replicate 128 0 ++ (List.range 16).flatMap rec_ ++ (List.range 16).flatMap addr
    ++ table
  slice b 0 4096

/-- Granules of the extents in data order with their places in the image. -/
def granulesOf (image : Nat) (exts : List (Nat × Nat)) : List (Nat × Nat) :=
  (exts.foldl (fun (r : List (Nat × Nat) × Nat) (e : Nat × Nat) =>
    let gs : List (Nat × Nat) := (List.range (e.2 / 2 ^ 21)).map fun i => (regionOf (offOf e.1) + i, r.2 + i * 2 ^ 21)
    (r.1 ++ gs, r.2 + e.2)) ([], image + 4096)).1

/-- A START that passes its checks (R290). -/
def State.startSplit (s : State) (c : SplCmd) : State :=
  match s.commOf c.comm with
  | none => s
  | some (_, m) =>
    let exts := (List.range c.count).map (extentAt (s.peek (offOf c.table) (16 * c.count)))
    let gs : List (Nat × Nat) := granulesOf (offOf c.image) exts
    let held : List Nat := gs.map Prod.fst
    let hdr := s.splHeader c m
    -- line 0 first (R288)
    let s := (s.homeWrite (offOf c.image) (hdr.take 64)).homeWrite (offOf c.image + 64) (hdr.drop 64)
    let s := { s with
      protectedGranules := setUnion held s.protectedGranules,
      splRun := some ⟨c, s.now, gs, false⟩ }
    s.setFld F.SPL_STATE.COPIED 0

/-- The extents a START reads at its turn: its tables, then the step records they name. -/
def State.startReads (s : State) (c : SplCmd) : List (Nat × Nat) :=
  let recs := if c.recmask = 0 then [] else (recordsOf c.recmask (s.peek (offOf c.aux) 128)).map fun r => (r.2, 64)
  if s.splFields c then c.reads ++ recs else []

/-- A START whose reads wait for their memory does not begin (R316). -/
def State.startWaits (s : State) (c : SplCmd) : Bool :=
  c.op == 0 && (s.startReads c).any fun e => s.memWaits (offOf e.1) e.2

/-- A START at its turn: the lines it reads first, then R289. -/
def State.startTurn (s : State) (c : SplCmd) : State :=
  match (s.startReads c).findSome? fun e => s.poisonIn (offOf e.1) e.2 with
  | some p => (s.splEnd c ST.ABORTED).uncorrectable p none 0 none ST.ABORTED
  | none =>
    let st := s.startCheck c
    if st != ST.OK then s.splEnd c st else s.startSplit c

/-- The engine takes the commands that are next: those that end at their turn, then the one that runs (R289, R299). -/
def splNextN : Nat → State → State
  | 0, s => s
  | n + 1, s =>
    if s.splRun.isSome then s
    else match s.splQueue with
      | [] => s
      | c :: rest =>
        if s.startWaits c then s
        else
        let s := { s with splQueue := rest }
        if s.splFenced then splNextN n (s.splEnd c ST.ABORTED)
        else if c.op = 0 then splNextN n (s.startTurn c)
        else if c.op = 4 then splNextN n (s.splEnd c (if s.splFields c then ST.OK else ST.RANGE))
        else { s with splRun := some ⟨c, s.now, [], false⟩ }
def State.splNext (s : State) : State := splNextN (s.splQueue.length + 1) s

/-- A START that is not yet complete: running or queued. -/
def State.startPending (s : State) : Bool :=
  s.splQueue.any (fun c => c.op == 0) || s.splRun.any fun r => r.cmd.op == 0

/-- An accepted command (R289): ABANDON goes first (R299); a START posted while another is not complete is refused at its turn (DEDUCED,
log entry 30). -/
def State.splAccept (s : State) (c : SplCmd) : State :=
  if c.op = 4 then
    let s := if !s.splFields c then s
      else match s.splRun with
        | some r => if r.cmd.op = 0 then s.startEnds r.cmd ST.ABORTED else s
        | none => s
    ({ s with splQueue := c :: s.splQueue } : State).splNext
  else ({ s with splQueue := s.splQueue ++ [{ c with busy := c.op == 0 && s.startPending }] } : State).splNext

/-- No room for a command (R289): 8 are queued; ABANDON needs none unless it waits for a running SEAL, CHECK or RESTORE (DEDUCED, log
entry 30). -/
def State.splFull (s : State) (c : SplCmd) : Bool :=
  decide (8 ≤ s.splQueue.length) && (c.op != 4 || s.splRun.any fun r => r.cmd.op != 0)

/-- A write of SPL_POST (R289, R308). -/
def State.splPost (s : State) (src : Source) (value : Word64) : State :=
  let a := offOf value.toNat
  let no (s : State) : State := s.refuse src 3 R.SPL_POST value
  if !(s.isSelf value.toNat && a % 64 == 0 && s.extentIn isStackCsram a 128) then no s
  else match s.poisonIn a 128 with
    | some p => (no s).uncorrectable p none 0 none 0
    | none =>
      let (d, s) := s.read a 128
      let c : SplCmd := ⟨d, src, false⟩
      if s.splFull c || !s.doneOk c.doneAt then no s else s.splAccept c

/-! ### The copy -/

/-- One granule of the running START is copied (R290, R291): a failed write or an uncorrectable source ends the START. -/
def State.copyGranule (s : State) (r : SplRun) (g at_ : Nat) (ok : Bool) : State :=
  if s.memWaits (g * 2 ^ 21) (2 ^ 21) then s
  else match s.poisonIn (g * 2 ^ 21) (2 ^ 21) with
  | some p => (s.startEnds r.cmd ST.ABORTED).splNext.uncorrectable p none 0 none ST.ABORTED
  | none =>
    if !(ok && s.kindAt at_ != .none) then (s.startEnds r.cmd ST.ABORTED).splNext
    else
      let s := s.copyBytes (g * 2 ^ 21) at_ (2 ^ 21)
      let left := r.left.filter fun e => e.1 != g
      let s := { s with splRun := some { r with left := left, copied := left.isEmpty } }
      let s := if left.isEmpty then s.setFld F.SPL_STATE.COPIED 1 else s
      s.liftGranule g

/-- GRANULE_COPY_DONE (R290): the background copy, suspended while a priority request waits. -/
def execGranuleCopyDone (ok : Bool) (s : State) : Host.Outcome State Fault Refusal :=
  done (match s.splRun with
    | some r =>
      match r.left with
      | (g, a) :: _ => if s.splPrio.isEmpty then s.copyGranule r g a ok else s
      | [] => s
    | none => s)

/-- PRIORITY_COPY_DONE (R291): the oldest priority request. -/
def execPriorityCopyDone (ok : Bool) (s : State) : Host.Outcome State Fault Refusal :=
  done (match s.splRun, s.splPrio with
    | some r, g :: _ =>
      match assocGet g r.left with
      | some a => (s.count F.SPL_STATS.COW_COPIES).copyGranule r g a ok
      | none => s
    | _, _ => s)

/-- PRIORITY_REQUEST_RETRY: a hold whose request found the queue full asks again. -/
def execPriorityRequestRetry (granule : Nat) (s : State) : Host.Outcome State Fault Refusal :=
  done (if s.protectedGranules.contains granule && s.heldWrites.any fun h => h.granule == granule
    then s.requestCopy granule else s)

/-- A write of the engine into an image or a summary, in place. -/
def State.splWrite (s : State) (a : Nat) (bs : List Byte) : State := s.homeWrite (offOf a) bs

/-- The commands that hash an image of len bytes over the digest engines: a LEAVES for each chunk, chunk i on engine i mod 16, and a ROOT on
the next (R293). -/
def hashEngines (len : Nat) : List Nat := (List.range (chunkCount len + 1)).map (· % 16)

/-- Whether each of them can run, and the commands counted as done (DIG_STATS). -/
def State.enginesHash (s : State) (len : Nat) : Bool × State :=
  ((hashEngines len).all fun k => !s.digFenced k, (s.hashed len).count F.DIG_STATS.DONE 0 (chunkCount len + 1))

/-- SPLIT_START_COMPLETE (R293): SHARD is computed from the image by the digest engines and written; the START completes. A write that fails,
the image's tier being gone, or a fenced engine (R300, DEDUCED, log entry 30) ends it with ST_ABORTED. -/
def execSplitStartComplete (s : State) : Host.Outcome State Fault Refusal :=
  done (match s.splRun with
    | some r =>
      if !r.copied then s
      else
        let a := offOf r.cmd.image
        let len := s.peekNat (a + 40) 8
        match s.poisonIn a (4096 + len) with
        | some p => (s.startEnds r.cmd ST.ABORTED).splNext.uncorrectable p none 0 none ST.ABORTED
        | none =>
          let (d, s) := s.read (a + 4096) len
          let (ran, s) := s.enginesHash len
          if !(ran && s.imagePlace r.cmd.image (4096 + len)) then (s.startEnds r.cmd ST.ABORTED).splNext
          else
          let s := s.homeWrite (a + 128) (digestOf d)
          let s := ({ s with splRun := none } : State).count F.SPL_STATS.SPLITS_DONE
          (s.splEnd r.cmd ST.OK).splNext
    | none => s)

/-! ### SEAL (R294) -/

/-- Fields of a header (Table 12-1). -/
def hdrOk (h : List Byte) : Bool := slice h 0 8 == [0x45, 0x4F, 0x4C, 0x53, 0x50, 0x4C, 0x54, 0x31]
def hdrSealed (h : List Byte) : Bool := bitOf (fieldAt h 12 4) 0
def hdrLap (h : List Byte) : Nat := fieldAt h 16 8
def hdrNmemb (h : List Byte) : Nat := fieldAt h 24 4
def hdrRank (h : List Byte) : Nat := fieldAt h 28 4
def hdrRecmask (h : List Byte) : Nat := fieldAt h 34 2
def hdrNext (h : List Byte) : Nat := fieldAt h 36 4
def hdrLen (h : List Byte) : Nat := fieldAt h 40 8

/-- The status of a SEAL, and the state it leaves. -/
def State.seal (s : State) (c : SplCmd) : Half × State :=
  let a := offOf c.image
  if !s.splFields c || !s.imagePlace c.image 4096 then (ST.RANGE, s)
  else
    let h := s.peek a 4096
    let n := hdrNmemb h
    let at_ := a + 4096 + hdrLen h
    let roster := s.peek (offOf c.table) (64 * n)
    if !hdrOk h || hdrSealed h then (ST.SPLIT_DIGEST, s)
    else if !(s.splExtent c.table (64 * n) && s.imagePlace c.image (4096 + hdrLen h + 64 * n)) then (ST.RANGE, s)
    else if n ≤ hdrRank h || slice roster (64 * hdrRank h) 64 != slice h 128 64
    then (ST.SPLIT_DIGEST, s)
    else
      let h := splice h 192 (digestOf roster)
      let h := splice h 12 (leBytes 4 (fieldAt h 12 4 + 1))
      -- roster, lines 1 to 63, line 0 last (R288)
      (ST.OK, (((s.hashed (64 * n)).homeWrite at_ roster).homeWrite (a + 64) (h.drop 64)).homeWrite a (h.take 64))

/-! ### Images of other packages -/

/-- Why the source sends no read of a global address (R203, R210). -/
def State.readUnsent (s : State) (a : Nat) : Option Half :=
  if s.self = 0xFFFF then some ST.UNREACHABLE
  else if s.localEntry.isNone then some ST.TAG_REVOKED
  else
    let pk := s.mkPacket s.jobTag (epOf a) PT.GET 7 0 0 a (leBytes 8 64)
    match s.nextPorts pk with
    | (pk, .ports ps) => match s.choosePort pk ps with
      | .ok _ => none
      | .error e => some e
    | _ => some ST.UNREACHABLE

/-- What a read of another endpoint's memory returns: data, or one of the statuses of R295, ST_ABORTED being an uncorrectable line; which of
those the home answers is a free value (DESIGN CHOICE, log entry 31). -/
def State.readFar (s : State) (a : Nat) : Option Half × State :=
  match s.readUnsent a with
  | some e => (some e, s)
  | none =>
    match place (offOf a) with
    | .stack _ _ | .csram _ _ | .near _ _ | .far _ _ =>
      let (w, s) := s.free
      ([none, none, none, some ST.RANGE, some ST.REFUSED_OWNER, some ST.NOT_READY, some ST.TIMEOUT, some ST.ABORTED].getD (w.toNat % 8) none, s)
    | _ => (some ST.RANGE, s)

/-! ### CHECK (R295) -/

/-- The verdict of CHECK on an image that it could read, by its header; data says whether D of the data and the roster entry and digest agree
with it. -/
def imageVerdict (h : List Byte) (data : Bool) : Half :=
  if !hdrOk h || fieldAt h 8 2 != 1 then ST.BAD_IMAGE
  else if !hdrSealed h || !data then ST.SPLIT_DIGEST
  else if (List.range 16).any fun k => bitOf (hdrRecmask h) k && fieldAt h (256 + 64 * k) 8 != hdrLap h
  then ST.SPLIT_MIXED
  else ST.OK

/-- The failure CHECK finds in a local image, in order. -/
def State.checkImage (s : State) (image : Nat) : Half :=
  let a := offOf image
  if !s.imagePlace image 4096 then ST.RANGE
  else
    let h := s.peek a 4096
    let n := hdrNmemb h
    let len := hdrLen h
    let roster := s.peek (a + 4096 + len) (64 * n)
    let shard := slice h 128 64
    if hdrOk h && fieldAt h 8 2 == 1 && hdrSealed h && !s.imagePlace image (4096 + len + 64 * n) then ST.RANGE
    else imageVerdict h (digestOf (s.peek (a + 4096) len) == shard && hdrRank h < n && slice roster (64 * hdrRank h) 64 == shard
      && digestOf roster == slice h 192 64)

/-- The summary of Table 12-5 from a header's bytes. -/
def State.summary (s : State) (image : Nat) (st : Half) (h : List Byte) : List Byte :=
  leBytes 8 (hdrLap h) ++ leBytes 8 (if s.isSelf image then s.global (offOf image) else image) ++ leBytes 2 st.toNat
    ++ leBytes 2 s.self ++ leBytes 4 (hdrRank h) ++ leBytes 4 (hdrNmemb h) ++ List.replicate 4 0 ++ slice h 48 8
    ++ List.replicate 24 0 ++ slice h 64 64 ++ slice h 192 64

/-- What a CHECK reads of a local image: its header, and all of it once the header is sound. -/
def State.imageExtent (s : State) (image : Nat) : Nat :=
  let h := s.peek (offOf image) 4096
  let total := 4096 + hdrLen h + 64 * hdrNmemb h
  if hdrOk h && hdrSealed h && s.imagePlace image total then total else 4096

/-- CHECK writes its summary and completes; a fenced digest engine or an uncorrectable line ends it with ST_ABORTED. The bytes of another
endpoint's image, and those of a header that could not be read, are free values (DESIGN CHOICE, log entry 31). -/
def State.checkSplit (s : State) (c : SplCmd) : State :=
  let tell (s : State) (st : Half) (h : List Byte) : State := (s.put (offOf c.table) (s.summary c.image st h)).splEnd c ST.OK
  if s.isSelf c.image then
    let st := s.checkImage c.image
    if !s.imagePlace c.image 4096 then (let (h, s) := s.freeBytes 4096; tell s st h)
    else
      let h := s.peek (offOf c.image) 4096
      let n := s.imageExtent c.image
      let s := (s.read (offOf c.image) n).2
      let (ran, s) := if n = 4096 then (true, s) else s.enginesHash (hdrLen h)
      if ran then tell s st h else s.splEnd c ST.ABORTED
  else
    let (got, s) := s.readFar c.image
    let (h, s) := s.freeBytes 4096
    let (w, s) := s.free
    match got with
    | none =>
      let (ran, s) := if hdrOk h && hdrSealed h then s.enginesHash (hdrLen h) else (true, s)
      if ran then tell s (imageVerdict h (w.toNat % 2 == 0)) h else s.splEnd c ST.ABORTED
    | some e => if e = ST.ABORTED then s.splEnd c ST.ABORTED else tell s e h

/-! ### RESTORE (R296 to R298) -/

/-- Fields of a summary (Table 12-5). -/
def sumAt (t : List Byte) (i : Nat) : List Byte := slice t (192 * i) 192
def sumStatus (e : List Byte) : Nat := fieldAt e 16 2

/-- The piece table (R298): its head and its pieces (old rank, source offset, length, destination). -/
def pieceAt (t : List Byte) (i : Nat) : Nat × Nat × Nat × Nat :=
  let o := 256 + 32 * i
  (fieldAt t o 4, fieldAt t (o + 8) 8, fieldAt t (o + 16) 8, fieldAt t (o + 24) 8)
def State.pieces (s : State) (c : SplCmd) : List (Nat × Nat × Nat × Nat) :=
  let n := s.peekNat (offOf c.aux + 8) 4
  (List.range n).map (pieceAt (s.peek (offOf c.aux) (256 + 32 * n)))

/-- The old ranks whose images a RESTORE reads, ascending. -/
def State.imagesRead (s : State) (c : SplCmd) (rank : Nat) : List Nat :=
  if c.aux = 0 then [rank]
  else
    let recs := s.peekNat (offOf c.aux) 2
    setUnion ((s.pieces c).map Prod.fst) (if recs = 0 then [] else [s.peekNat (offOf c.aux + 4) 4])

/-- The header of the image of an old rank: as it stands here, or of another endpoint, whose bytes are free values, the same throughout one
RESTORE (DESIGN CHOICE, log entry 31). -/
def State.rankHeader (s : State) (base : Nat) (img rank : Nat) : List Byte :=
  if s.isSelf img then s.peek (offOf img) 4096
  else (List.range 512).flatMap fun j => leBytes 8 (Config.freeWord (base + 512 * rank + j)).toNat

/-- The piece table's own rules. -/
def State.piecesOk (s : State) (c : SplCmd) (tab : List Byte) (base : Nat) : Bool :=
  let t := s.peek (offOf c.aux) 256
  let n := fieldAt t 8 4
  let ps := s.pieces c
  let raw := s.peek (offOf c.aux) (256 + 32 * n)
  let dst := ps.map fun p => (p.2.2.2, p.2.2.1)
  decide (1 ≤ n ∧ n ≤ 65535) && s.splExtent c.aux (256 + 32 * n) && zeroAt t 2 2 && zeroAt t 12 116
    && (fieldAt t 0 2 == 0 || fieldAt t 4 4 < c.count)
    && (recordsOf (fieldAt t 0 2) (slice t 128 128)).all (fun r => s.splExtent r.2 64)
    && ps.all (fun p =>
      let img := fieldAt (sumAt tab p.1) 8 8
      p.1 < c.count && 1 ≤ p.2.2.1 && p.2.2.1 ≤ 2 ^ 32 && s.splExtent p.2.2.2 p.2.2.1 (fun k => k == .stack || isTier k)
        && p.2.1 + p.2.2.1 ≤ hdrLen (s.rankHeader base img p.1))
    && (List.range n).all (fun i => zeroAt raw (256 + 32 * i + 4) 4) && allDisjoint dst

/-- Whether line 0 of an image differs from its summary (check 9). -/
def lineDiffers (h e : List Byte) : Bool :=
  !hdrOk h || fieldAt h 8 2 != 1 || !hdrSealed h || hdrLap h != fieldAt e 0 8 || hdrRank h != fieldAt e 20 4
    || hdrNmemb h != fieldAt e 24 4 || slice h 48 8 != slice e 32 8

/-- The first rank at which a test of the summaries fails. -/
def failRank (n : Nat) (bad : Nat → Bool) : Option Nat := (List.range n).find? bad

/-- The verdict of Table 12-6: status and FIRST_RANK, and whether check 4 was reached. -/
def State.restoreCheck (s : State) (c : SplCmd) (base : Nat) : Half × Nat × Bool :=
  if !s.splFields c then (ST.RANGE, 0, false)
  else
    let n := c.count
    let tab := s.peek (offOf c.table) (192 * n)
    let e := sumAt tab
    let lap (i : Nat) : Nat := fieldAt (e i) 0 8
    let same (i : Nat) : Bool := slice (e i) 32 8 == slice (e 0) 32 8 && slice (e i) 64 128 == slice (e 0) 64 128
    let comm := s.commOf c.comm
    let rank := (comm.bind fun m => s.rankIn m.2).getD n
    match failRank n fun i => fieldAt (e i) 20 4 != i || fieldAt (e i) 24 4 != n with
    | some i => (ST.RANGE, i, false)
    | none =>
      if c.aux != 0 && !s.piecesOk c tab base then (ST.RANGE, 0, false)
      else if s.startPending then (ST.SPLIT_BUSY, 0, false)
      else match failRank n fun i => sumStatus (e i) != 0 with
        | some i => (BitVec.ofNat 16 (sumStatus (e i)), i, false)
        | none =>
          match failRank n fun i => lap i != lap 0 with
          | some i => (ST.SPLIT_MIXED, i, true)
          | none =>
            match failRank n fun i => !same i with
            | some i => (ST.SPLIT_MIXED, i, true)
            | none =>
              if fieldAt (e 0) 32 8 != c.arg then (ST.MEMBERSHIP, 0, true)
              else if slice (e 0) 64 64 != c.digest then (ST.DIGEST_MISMATCH, 0, true)
              else if c.aux = 0 && (!comm.any fun m => m.2.sig == c.arg) then (ST.MEMBERSHIP, 0, true)
              else if c.aux = 0 && (n ≤ rank || fieldAt (e rank) 18 2 != s.self) then (ST.MEMBERSHIP, rank % 2 ^ 14, true)
              else
                let differs (i : Nat) : Bool :=
                  let img := fieldAt (e i) 8 8
                  (s.isSelf img && !s.imagePlace img 4096) || lineDiffers (s.rankHeader base img i) (e i)
                match (s.imagesRead c rank).find? differs with
                | some i => (ST.SPLIT_DIGEST, i, true)
                | none => (ST.OK, 0, true)

/-- SPL_RESTORE_LOG, MIN and MAX after a verdict (R296). -/
def State.restoreLog (s : State) (c : SplCmd) (st : Half) (rank : Nat) (laps : Bool) : State :=
  let tab := s.peek (offOf c.table) (192 * c.count)
  let ls := (List.range c.count).map fun i => fieldAt (sumAt tab i) 0 8
  let s := if !laps then s
    else (s.setReg R.SPL_RESTORE_MIN 0 (BitVec.ofNat 64 ((minOf ls).getD 0))).setReg R.SPL_RESTORE_MAX 0 (BitVec.ofNat 64 (maxOf ls))
  ((s.setFld F.SPL_RESTORE_LOG.STATUS st.toNat).setFld F.SPL_RESTORE_LOG.FIRST_RANK (if st = ST.OK then 0 else rank)).hwSet
    F.SPL_RESTORE_LOG.VALID 1

/-- One piece of a RESTORE, while all is well: a local image's bytes, or another endpoint's, which are free values where its read gives
data (DESIGN CHOICE, log entry 31). -/
def restorePiece (r : State × Half) (src dst n : Nat) : State × Half :=
  let s := r.1
  if r.2 != ST.OK then r
  else if s.isSelf src then
    match s.poisonIn (offOf src) n with
    | some p => (s.uncorrectable p none 0 none ST.ABORTED, ST.ABORTED)
    | none => (s.copyBytes (offOf src) (offOf dst) n, ST.OK)
  else
    match s.readFar src with
    | (some e, s) => (s, e)
    | (none, s) => let (b, s) := s.freeBytes n; (s.homeWrite (offOf dst) b, ST.OK)

/-- Whether the pieces of a RESTORE, as source, destination and length, lie where they may: in an image here or on another endpoint, and in
this package's stacks and populated tiers (R287, R298). -/
def State.piecesLie (s : State) (ps : List (Nat × Nat × Nat)) : Bool :=
  ps.all fun p => s.splExtent p.2.1 p.2.2 (fun k => k == .stack || isTier k) && (!s.isSelf p.1 || s.imagePlace p.1 p.2.2)

/-- The pieces copied in order; none, and ST_RANGE, where one does not lie where it may: no check of Table 12-6 covers that (DESIGN CHOICE,
log entry 62). -/
def State.copyPieces (s : State) (ps : List (Nat × Nat × Nat)) : State × Half :=
  if s.piecesLie ps then ps.foldl (fun r p => restorePiece r p.1 p.2.1 p.2.2) (s, ST.OK) else (s, ST.RANGE)

/-- Step records written back: from a header, to addresses. -/
def restoreRecords (r : State × Half) (h : List Byte) (to_ : List (Nat × Nat)) : State × Half :=
  if r.2 != ST.OK then r
  else (to_.foldl (fun (s : State) (e : Nat × Nat) => s.put (offOf e.2) (slice h (256 + 64 * e.1) 64)) r.1, r.2)

/-- The copies of a RESTORE whose checks have passed (R297, R298). -/
def State.restoreRun (s : State) (c : SplCmd) (base : Nat) : State × Half :=
  let tab := s.peek (offOf c.table) (192 * c.count)
  let img (i : Nat) : Nat := fieldAt (sumAt tab i) 8 8
  if c.aux = 0 then
    let rank := ((s.commOf c.comm).bind fun m => s.rankIn m.2).getD 0
    let a := img rank
    let h := s.rankHeader base a rank
    let exts := (List.range (Nat.min 64 (hdrNext h))).map fun i => extentAt (slice h 1408 1024) i
    let ps := (exts.foldl (fun (r : List (Nat × Nat × Nat) × Nat) (e : Nat × Nat) =>
      (r.1 ++ [(a + 4096 + r.2, e.1, e.2)], r.2 + e.2)) ([], 0)).1
    restoreRecords (s.copyPieces ps) h (recordsOf (hdrRecmask h) (slice h 1280 128))
  else
    let head := s.peek (offOf c.aux) 256
    let ps := (s.pieces c).map fun p => (img p.1 + 4096 + p.2.1, p.2.2.2, p.2.2.1)
    let rank := fieldAt head 4 4
    restoreRecords (s.copyPieces ps) (s.rankHeader base (img rank) rank) (recordsOf (fieldAt head 0 2) (slice head 128 128))

/-- RESTORE: its verdict, its copies, its end. The free values of other endpoints' headers are taken first. -/
def State.restoreSplit (s : State) (c : SplCmd) : State :=
  let base := s.fresh
  let s := { s with fresh := s.fresh + 512 * c.count }
  let (st, rank, laps) := s.restoreCheck c base
  if st != ST.OK then (s.restoreLog c st rank laps).splEnd c st
  else
    let s := s.restoreLog c ST.OK 0 true
    let (s, st) := s.restoreRun c base
    (s.setFld F.SPL_RESTORE_LOG.STATUS st.toNat).splEnd c st

/-! ### The end of a command -/

/-- Lines a SEAL, CHECK or RESTORE reads before it acts: an uncorrectable one ends it (R301). -/
def State.splReads (s : State) (c : SplCmd) : List (Nat × Nat) :=
  if !s.splFields c then []
  else match c.op with
    | 1 =>
      let h := s.peek (offOf c.image) 4096
      if !s.imagePlace c.image 4096 then []
      else if !hdrOk h || hdrSealed h then [(c.image, 4096)]
      else [(c.image, 4096), (c.table, 64 * hdrNmemb h)]
    | 2 => if s.isSelf c.image && s.imagePlace c.image 4096 then [(c.image, s.imageExtent c.image)] else []
    | _ => c.reads

/-- SPLIT_COMMAND_COMPLETE: a running SEAL, CHECK or RESTORE is performed and ends. -/
def execSplitCommandComplete (s : State) : Host.Outcome State Fault Refusal :=
  done (match s.splRun with
    | none => s
    | some r =>
      let c := r.cmd
      if c.op = 0 then s
      else match (s.splReads c).find? fun e => s.memWaits (offOf e.1) with
        | some _ => s
        | none =>
          let bad := (s.splReads c).findSome? fun e => s.poisonIn (offOf e.1) e.2
          let s := { s with splRun := none }
          match bad with
          | some p => ((s.splEnd c ST.ABORTED).uncorrectable p none 0 none ST.ABORTED).splNext
          | none =>
            if c.op = 1 then (let (st, s) := s.seal c; s.splEnd c st).splNext
            else if c.op = 2 && s.splFields c then (s.checkSplit c).splNext
            else if c.op = 3 then (s.restoreSplit c).splNext
            else (s.splEnd c ST.RANGE).splNext)

/-- SPL_ENGINE_FAULT (R300): the running command ends with ST_ABORTED, the engine is fenced. -/
def execSplEngineFault (s : State) : Host.Outcome State Fault Refusal :=
  done (
    let s := { s with fencedSplit := true }
    let s := match s.splRun with
      | some r => if r.cmd.op = 0 then s.startEnds r.cmd ST.ABORTED
          else ({ s with splRun := none } : State).splEnd r.cmd ST.ABORTED
      | none => s
    (s.splNext).raise { ErrInfo.of .splFault with status := ST.ABORTED })

/-- R299: a package or compute reset ends the running command and discards the queue without completion words. -/
def State.splReset (s : State) : State :=
  let started := s.splRun.any fun r => r.cmd.op == 0
  let s := { s with splRun := none, splQueue := [], splPrio := [] }.liftAll
  if started then s.count F.SPL_STATS.ABANDONED else s

end Sys2Proof.Machine
end

