-- ==== Sys2Proof/Machine/Memory.lean ====
section
/-! DEFINITION. Memory events: re-sends, retrains, uncorrectable lines and their readers, the scrub and row sparing, tier
links and zeroing, utilisation (R165 to R184, R301). -/

namespace Sys2Proof.Machine

/-! ### Readers -/

/-- A reader met an uncorrectable line at an address, none where the address is not known; one that is absent changes
nothing (R301, DESIGN CHOICE, log entry 2). -/
def State.endReader (s : State) (a : Option Nat) (r : Reader) : State :=
  let tell (s : State) (hart : Option Nat) (core : Nat) (st : Half) : State :=
    match a with
    | some p => s.uncorrectable p hart core none st
    | none => s.raise { ErrInfo.of .tierUe with hart := hart, core := core, status := st }
  match r with
  | .hart h =>
    let k := hartKey h
    let st := (s.ctx k).st
    if st = .empty || st = .aborted then s else tell s (some k) 0 ST.ABORTED
  | .engine e x =>
    let en := s.engine e.toNat
    match (if x then en.xfer else en.array) with
    | none => s
    | some r => tell (s.engEnd e.toNat x r.ins ST.ABORTED (s.cutRecord e.toNat r 0)) none (e.toNat / 4) ST.ABORTED
  | .heat u =>
    match (s.dsu u.toNat).running with
    | [] => s
    | r :: _ => tell (s.heatAborts u.toNat r.heat) none (8 * u.toNat) ST.ABORTED
  | .update u => if (s.puu u.toNat).run.isNone then s else tell (s.puuAborts u.toNat) none (16 * u.toNat) ST.ABORTED
  | .digest u =>
    match (s.dig u.toNat).queue with
    | [] => s
    | c :: _ => tell (s.digEnd u.toNat c ST.ABORTED) none (16 * u.toNat) ST.ABORTED
  | .transfer id =>
    match s.xfer id with
    | none => s
    | some x => tell (s.failXfer id ST.ABORTED) none x.core ST.ABORTED
  | .split =>
    match s.splRun with
    | none => s
    | some r =>
      let s := if r.cmd.op = 0 then s.startEnds r.cmd ST.ABORTED
        else ({ s with splRun := none } : State).splEnd r.cmd ST.ABORTED
      tell s.splNext none 0 ST.ABORTED
  | .remote _ pkt => match a with
    | some p => (s.uncorrectable p none 0 (some pkt.src.toNat) ST.POISONED).reply pkt ST.POISONED []
    | none => (s.raise { ErrInfo.of .tierUe with ep := some pkt.src.toNat, status := ST.POISONED }).reply pkt ST.POISONED []
  | .hostRead | .hostPartialWrite => tell s none 0 0
  | .scrub | .record => tell s none 0 0

/-- A memory place whose lines carry marks. -/
def State.markable (s : State) (a : Nat) : Bool :=
  match s.kindAt a with
  | .stack | .near | .far | .csram | .lsram => true
  | _ => false

/-! ### Transfer blocks (R166) -/

/-- The bytes that a block's CRC-32C covers: command, address, data (R166; their layout is a DESIGN CHOICE, log entry 61). -/
def blockBytes (command : Byte) (addr : Nat) (data : List Byte) : List Byte := [command] ++ leBytes 8 addr ++ data

/-- STACK_CRC_RESEND (R166): a block reached its receiver. With its CRC right it is acknowledged and no longer kept; a mismatch has it sent
again, three times, and then the channel retrains. -/
def execStackCrcResend (block : TransferBlock) (s : State) : Host.Outcome State Fault Refusal :=
  done (
    let a := block.addr.toNat / 64 * 64
    let others := s.blocks.filter fun b => b.addr != a
    let was := s.blocks.find? fun b => b.addr == a
    match place a with
    | .stack k _ =>
      if was.any (·.retraining) then s
      else if crc32c (blockBytes block.command a block.data) = block.crc.toNat then { s with blocks := others }
      else
        let n := (was.map (·.failed)).getD 0 + 1
        if n ≤ 3 then ({ s with blocks := others ++ [⟨a, n, false⟩] } : State).count F.MEM_ERR_STATS.CRC_RESENDS k
        else { s with blocks := others ++ [⟨a, n, true⟩] }
    | _ => s)

/-- The retrain of a line's channel ends (R166): a block that fails once more ends its access as an uncorrectable line. -/
def State.channelRetrained (s : State) (k : Nat) (ok : Bool) (addr : Nat) (reader : Reader) : State :=
  let a := addr / 64 * 64
  match place a, s.blocks.find? fun b => b.addr == a && b.retraining with
  | .stack j _, some _ =>
    if j != k then s
    else
      let s := ({ s with blocks := s.blocks.filter fun b => b.addr != a } : State).count F.MEM_ERR_STATS.RETRAINS k
      if ok then s else (s.markUe a).endReader (some a) reader
  | _, _ => s

/-! ### Rows (R167, R169, R183) -/

/-- The number of a row, and of its bank. -/
def rowKey (r : RowAddr) : Nat :=
  (((r.stack.toNat * 16 + r.die.toNat) * 32 + r.channel.toNat) * 64 + r.bank.toNat) * 2 ^ 18 + r.row.toNat
def bankOf (row : Nat) : Nat := row / 2 ^ 18

/-- Spare rows of a bank (Table 07-3). -/
abbrev spareRows : Nat := 4

/-- A row is to be spared (R169): its copy begins, or there is no spare row left and it stays in use. -/
def State.startSparing (s : State) (r : RowAddr) : State :=
  let inBank (q : Nat) : Bool := bankOf q == bankOf (rowKey r)
  if s.sparing.contains r then s
  else if spareRows ≤ (s.spared.filter inBank).length + (s.sparing.filter fun q => inBank (rowKey q)).length then
    s.setFld F.MEM_STATE.SPARE_EXHAUSTED 1 r.stack.toNat
  else { s with sparing := s.sparing ++ [r] }

/-- A corrected error of a row (R167, R169): at the limit, as it stood before this tick's writes (R183), its sparing begins. -/
def State.corrected (s : State) (r : RowAddr) : State :=
  let n := mapGet (fun _ => 0) (rowKey r) s.rowErrors + 1
  let s := { s with rowErrors := mapSet (fun _ => 0) (rowKey r) n s.rowErrors }
  let s := s.count F.MEM_ERR_STATS.CORRECTED r.stack.toNat
  if s.fldOld F.MEM_ROW_CE_LIMIT.LIMIT ≤ n then s.startSparing r else s

/-- PATROL_SCRUB (R167, R175, R302): a corrected line or word, found by the scrub or by a read (DESIGN CHOICE, log entry 61). -/
def execPatrolScrub (what : Corrected) (s : State) : Host.Outcome State Fault Refusal :=
  done (
    match what with
    | .row r => s.corrected r
    | .tier u => if s.flag F.TIER_INFO.PRESENT u.toNat then s.count F.TIER_STATS.CORRECTED u.toNat else s
    | .sram => s.count F.ERR_STATS.SRAM_CORRECTED)

/-- The line at an offset is uncorrectable: its row is spared, once (R169). -/
def State.spareUe (s : State) (a : Nat) : State :=
  match rowAt a with
  | none => s
  | some r => if s.spared.contains (rowKey r) then s else s.startSparing r

/-- MEM_UE (R168, R302): the read of a line or word finds it uncorrectable; it stays marked, and a stack's row is spared. A remote request
takes its own way to the line. -/
def execMemUe (addr : BitVec 48) (reader : Reader) (s : State) : Host.Outcome State Fault Refusal :=
  done (
    let a := addr.toNat
    if !s.markable a then s
    else match reader with
      | .remote port pkt => ((s.markUe a).onRequest pkt.type port pkt).spareUe a
      | _ => ((s.markUe a).endReader (some a) reader).spareUe a)

/-- The copy of a row ends (R169): the row's addresses go to a spare of its bank, and it is logged. -/
def State.rowSpared (s : State) (row : RowAddr) : State :=
  let k := row.stack.toNat
  if !s.sparing.contains row then s
  else
    let s := { s with
      sparing := s.sparing.filter (· != row), spared := s.spared ++ [rowKey row],
      rowErrors := mapSet (fun _ => 0) (rowKey row) 0 s.rowErrors }
    let w := 2 ^ 63 + row.die.toNat * 2 ^ 59 + row.channel.toNat * 2 ^ 54 + row.bank.toNat * 2 ^ 48 + row.row.toNat * 2 ^ 30
    let s := (s.setReg R.MEM_ROW_LOG k (BitVec.ofNat 64 w)).hwSet F.MEM_ROW_LOG.VALID 1 k
    (s.count F.MEM_ERR_STATS.ROWS_SPARED k).setFld F.MEM_STATE.SPARE_ROWS_USED
      (Nat.min 4095 (s.fld F.MEM_STATE.SPARE_ROWS_USED k + 1)) k

/-- R184: a commit of MEM_THERM. -/
def State.memCommit (s : State) : State :=
  let w := s.stgOld R.MEM_THERM
  let hot := wordGet w 15 8
  let crit := wordGet w 23 16
  if 50 ≤ hot && hot ≤ 100 && 60 ≤ crit && crit ≤ 105 && hot + 5 ≤ crit then
    ((s.hold R.MEM_THERM 0).setReg R.MEM_THERM 0 w).setFld F.MEM_COMMIT.REFUSED 0
  else (s.setFld F.MEM_COMMIT.REFUSED 1).commitRefused

/-! ### Tiers -/

/-- A tier unit's rate in bytes per 1,000 ticks: MT/s times 8 bytes on a channel, GT/s times lanes / 8 each way on a port (R174, R176). -/
def State.tierRate (s : State) (u : Nat) : Nat :=
  let r := s.fld F.TIER_INFO.RATE u
  if u < 8 then 8 * r else 125 * r * s.fld F.TIER_INFO.WIDTH u

/-- FAR_TIER_LINK_DOWN (R177): the window goes, accesses in flight to it end as uncorrectable (R168, R301). -/
def execFarTierLinkDown (port : BitVec 1) (inFlight : List (BitVec 48 × Reader)) (s : State) : Host.Outcome State Fault Refusal :=
  done (
    let u := 8 + port.toNat
    if !s.flag F.TIER_INFO.PRESENT u then s
    else
      let mine := inFlight.filter fun e => match place e.1.toNat with
        | .far p _ => p == port.toNat
        | _ => false
      let s := ((s.setFld F.TIER_INFO.PRESENT 0 u).setFld F.TIER_INFO.FAIL 5 u).setFld F.TIER_INFO.CAPACITY 0 u
      let s := { s with zeroing := s.zeroing.filter fun e => e.1 != u }
      mine.foldl (fun s e => s.endReader e.1.toNat e.2) s)

/-- MiB of a unit zeroed so far, at the rate it writes (R179, Table 07-21; DEDUCED, log entry 61). -/
def State.zeroedMib (s : State) (u : Nat) : Nat :=
  match assocGet u s.zeroing with
  | none => s.fld F.TIER_INIT.ZEROED_MIB u
  | some t => Nat.min (s.fld F.TIER_INFO.CAPACITY u * 1024) ((s.pwr.ticks - t) * s.tierRate u / (1000 * 2 ^ 20))

/-- TIER_ZEROING_DONE (R179): only after a cold reset does a unit zero. -/
def execTierZeroingDone (unit : BitVec 4) (s : State) : Host.Outcome State Fault Refusal :=
  done (
    let u := unit.toNat
    if (assocGet u s.zeroing).isNone then s
    else
      let s := { s with zeroing := s.zeroing.filter fun e => e.1 != u }
      (s.setFld F.TIER_INFO.INIT_DONE 1 u).setFld F.TIER_INIT.ZEROED_MIB (s.fld F.TIER_INFO.CAPACITY u * 1024) u)

/-! ### Utilisation (R181, R240) -/

/-- A unit's peak in bytes per 1,000 ticks (R181, R217, R240). -/
def State.peak (s : State) : Mover → Nat
  | .stack _ => 2400000
  | .tier u => if u < 8 then s.tierRate u else 2 * s.tierRate u
  | .tx p | .rx p => if s.isGen1 p then 43750 else 93750

/-- Bytes moved since the last update as a fraction of the peak, in 1/256 steps. -/
def State.util (s : State) (m : Mover) (window : Nat) : Nat :=
  Nat.min 255 (mapGet (fun _ => 0) m.key s.traffic.moved * 1000 * 256 / Nat.max 1 (window * s.peak m))

/-- The units of a group, by their keys in `Traffic.moved`. -/
def groupHas : UtilGroup → Nat → Bool
  | .stack, key => key < 16
  | .tier, key => 16 ≤ key && key < 32
  | .link, key => 32 ≤ key

/-- The fields of a group, from the bytes that its units moved in a window of n ticks. -/
def State.setUtil (s : State) (n : Nat) : UtilGroup → State
  | .stack => foldRange 16 (fun (t : State) k => t.setFld F.MEM_STATE.UTIL (s.util (.stack k) n) k) s
  | .tier => foldRange 10 (fun (t : State) u => t.setFld F.TIER_STATS.UTIL (s.util (.tier u) n) u) s
  | .link =>
    (foldRange 32 (fun (t : State) p =>
      (t.setFld F.LNK_PORT_STATE.UTIL_TX (s.util (.tx p) n) p).setFld F.LNK_PORT_STATE.UTIL_RX (s.util (.rx p) n) p) s).setFld
        F.LNK_LEVEL_UTIL.NONMIN (Nat.min 255 (s.traffic.detours * 256 / Nat.max 1 s.traffic.relaxed))

/-- A group's window begins again: nothing of it has moved. -/
def Traffic.restart (t : Traffic) (g : UtilGroup) (now : Nat) : Traffic :=
  let t := { t with moved := t.moved.filter fun e => !groupHas g e.1 }
  match g with
  | .stack => { t with sinceStack := now }
  | .tier => { t with sinceTier := now }
  | .link => { t with sinceLink := now, relaxed := 0, detours := 0 }

/-- The tick at which a group's window began. -/
def Traffic.since (t : Traffic) : UtilGroup → Nat
  | .stack => t.sinceStack
  | .tier => t.sinceTier
  | .link => t.sinceLink

/-- UTIL_UPDATE (R181, R240): once 65,536 ticks have passed since a group's last update, its fields read the time since. -/
def execUtilUpdate (group : UtilGroup) (s : State) : Host.Outcome State Fault Refusal :=
  done (
    let n := s.pwr.ticks - s.traffic.since group
    if n < 65536 then s
    else { s.setUtil n group with traffic := s.traffic.restart group s.pwr.ticks })

end Sys2Proof.Machine
end

