-- ==== Sys2Proof/Machine/Host.lean ====
section
/-! DEFINITION. The host interface (chapter 14): BARs (R324), device memory and bias (R326 to R328), the host window (R329), the
mailbox line and page (R332 to R338). -/

namespace Sys2Proof.Machine

/-- The host interface's record changed. -/
def State.onHost (s : State) (f : HostIf → HostIf) : State := { s with host := f s.host }

/-- The boot phase (Table 14-12). -/
def State.phase (s : State) : Nat := s.fld F.HIF_BOOT_STATUS.PHASE

/-- A phase change signals vector 2 and in-band interrupt 0x02 (R338, R344, Table 16-8). -/
def State.setPhase (s : State) (p : Nat) : State := ((s.setFld F.HIF_BOOT_STATUS.PHASE p).msix s.msixOn 2).ibi 2

/-- The upstream port's registers and memories are out of reach: powered off, or in a cold reset. -/
def State.dark (s : State) : Bool := s.pwr.off || s.resetting.any fun d => d.1 == 5

/-! ### The mailbox page (Table 14-7) -/

/-- n bytes of the page as a number; bytes 0 to 7 are HIF_BOOT_STATUS (BOOT). -/
def State.page (s : State) (off n : Nat) : Nat :=
  ofLe ((List.range n).map fun i =>
    if off + i < 8 then (leBytes 8 (s.reg R.HIF_BOOT_STATUS).toNat).getD (off + i) 0
    else mapGet memDefault (off + i) s.host.page)

/-- Bytes of the page written. -/
def State.setPage (s : State) (off : Nat) (bs : List Byte) : State := s.onHost fun h => { h with page := memPut h.page off bs }

abbrev MBP.READY_TICK : Nat := 8
abbrev MBP.REPLY : Nat := 64
abbrev MBP.PROD : Nat := 128
abbrev MBP.CONS : Nat := 132
abbrev MBP.DROPS : Nat := 136
abbrev MBP.RING : Nat := 192
/-- Records the ring holds. -/
abbrev ringRecords : Nat := 122

/-- A write to BAR2 (R324): stored in boot memory in WAIT_IMAGE, else discarded and counted. -/
def State.bar2Write (s : State) (off : Nat) (data : List Byte) : State :=
  if s.dark || 2 ^ 28 < off + data.length then s
  else if s.phase = 2 then { s with bootMem := memPut s.bootMem off data }
  else s.count F.HIF_STATS.BAR_DROPS

/-- BAR2_WRITE (R324). -/
def execBar2Write (off : Word32) (data : List Byte) (s : State) : Host.Outcome State Fault Refusal := done (s.bar2Write off.toNat data)

/-- A write of CONS (R337): one that would make more than 122 records outstanding is ignored. -/
def State.consWrite (s : State) (v : Nat) : State :=
  if s.dark || ringRecords < (s.page MBP.PROD 4 + 2 ^ 32 - v) % 2 ^ 32 then s
  else s.setPage MBP.CONS (leBytes 4 v)

/-- EVENT_RING_CONS_WRITE (R324, R337). -/
def execEventRingConsWrite (value : Word32) (s : State) : Host.Outcome State Fault Refusal := done (s.consWrite value.toNat)

/-- Where the host's register commands find BAR2 and BAR4 (DESIGN CHOICE, log entry 4). -/
abbrev bar2At : Nat := 0x10000000
abbrev bar4At : Nat := 0x20000000

/-- A host read of BAR2 or BAR4 (R324): boot memory in WAIT_IMAGE and zero in other phases, any byte of the mailbox page. -/
def State.barRead (s : State) (off size : Nat) : Word64 :=
  if s.dark then 0
  else if off < bar4At then
    (if s.phase = 2 && off + size ≤ bar2At + 2 ^ 28 then
      BitVec.ofNat 64 (ofLe ((List.range size).map fun i => mapGet memDefault (off - bar2At + i) s.bootMem)) else 0)
  else if off + size ≤ bar4At + 4096 then BitVec.ofNat 64 (s.page (off - bar4At) size) else 0

/-- A host write of BAR2 or BAR4 (R324): of BAR4 only bytes 132 to 135, as one 32-bit write. -/
def State.barWrite (s : State) (off size : Nat) (v : Word64) : State :=
  if off < bar4At then s.bar2Write (off - bar2At) (leBytes size v.toNat)
  else if s.dark || bar4At + 4096 < off + size then s
  else if off = bar4At + MBP.CONS && size = 4 then s.consWrite (v.toNat % 2 ^ 32)
  else s.count F.HIF_STATS.BAR_DROPS

/-- One record counted as dropped (R337). -/
def State.dropEvent (s : State) : State :=
  (s.setPage MBP.DROPS (leBytes 4 ((s.page MBP.DROPS 4 + 1) % 2 ^ 32))).count F.HIF_STATS.EVENT_DROPS

/-- The management processor runs (R347, R361, R385). -/
def State.mgmtRuns (s : State) : Bool := !s.dark && (s.phase == 4 || s.phase == 5) && !s.mgt.hung

/-- It is free for a duty below the forwarding of error records (Table 16-6). -/
def State.mgmtFree (s : State) : Bool := s.mgmtRuns && s.forward.isEmpty

/-- EVENT_RECORD_FORWARD (R337): the oldest record not yet forwarded goes into the ring, or is dropped when it is full. -/
def execEventRecordForward (s : State) : Host.Outcome State Fault Refusal :=
  done (
    match s.forward with
    | [] => s
    | (_, ws) :: rest =>
      if !s.mgmtRuns then s
      else
        let s := { s with forward := rest }
        let prod := s.page MBP.PROD 4
        if (prod + 2 ^ 32 - s.page MBP.CONS 4) % 2 ^ 32 = ringRecords then s.dropEvent
        else
          let s := s.setPage (MBP.RING + 32 * (prod % ringRecords)) (ws.flatMap fun w => leBytes 8 w.toNat)
          (s.setPage MBP.PROD (leBytes 4 ((prod + 1) % 2 ^ 32))).msix s.msixOn 0)

/-! ### Device memory -/

/-- Granules of stacked memory (R327). -/
abbrev stackGranules : Nat := 786432

/-- DEVICE_GRANULES (Table 14-20): none before Memory_Active. -/
def State.deviceGranules (s : State) : Nat := if s.host.memActive then stackGranules - s.host.hostBias.length else 0

/-- A granule in device bias flips to host bias first (R327). -/
def State.autoFlip (s : State) (g : Nat) : State :=
  if s.host.hostBias.contains g then s
  else (s.onHost fun h => { h with hostBias := setInsert g h.hostBias }).count F.HIF_STATS.AUTO_FLIPS

/-- HOST_CXL_MEM_ACCESS (R326, R327): one line or part of it, at a device physical address. -/
def execHostCxlMemAccess (addr : Word64) (len : Nat) (data : Option (List Byte)) (s : State) :
    Host.Outcome State Fault Refusal :=
  done (
    let a := addr.toNat
    let n := match data with
      | none => len
      | some d => d.length
    let ok := s.flag F.HIF_LINK.CXL && s.flag F.HIF_LINK.MEM_EN && s.host.memActive && s.host.hdm.isSome && !s.dark
    if !ok || n == 0 || 64 < a % 64 + n || 0x18000000000 < a + n then s
    else
      let s := s.autoFlip (regionOf a)
      match data with
      | some d => s.hostWrite a d
      | none => s.hostRead a n)

/-- The length of the one range that the DVSEC for CXL Devices reports (R326). -/
abbrev hdmLength : Nat := 0x18000000000

/-- A commit of the HDM decoder (R326): one way, exactly the range's length, a base aligned to 256 MiB, or Error Not Committed. -/
def State.hdmCommit (s : State) (ways : Nat) (base size : Word64) : State :=
  if ways = 1 && size.toNat == hdmLength && base.toNat % 2 ^ 28 == 0 then
    s.onHost fun h => { h with hdm := some base.toNat, hdmError := false }
  else s.onHost fun h => { h with hdm := none, hdmError := true }

/-- The function's registers changed. -/
def State.onCxl (s : State) (f : CxlRegs → CxlRegs) : State := s.onHost fun h => { h with cxl := f h.cxl }

/-- HDM_DECODER_COMMIT (R326): the host has written the decoder's registers and commits it. -/
def execHdmDecoderCommit (ways : Nat) (base size : Word64) (s : State) : Host.Outcome State Fault Refusal :=
  done (
    if s.dark || !s.flag F.HIF_LINK.CXL then s
    else (s.onCxl fun c => { c with hdmBase := base, hdmSize := size, hdmCtl := 0x200 }).hdmCommit ways base size)

/-! ### CXL component registers (R325): CXL.cachemem headers, RAS and one HDM decoder, laid out as CXL 2.0 does (PRESUMED, log entry 63) -/

abbrev compAt : Nat := 0x10000
abbrev rasAt : Nat := 0x1080
abbrev hdmAt : Nat := 0x1100

/-- One of the five registers of AER or RAS. -/
def ErrRegs.get (r : ErrRegs) (i : Nat) : Word32 := [r.ueStatus, r.ueMask, r.ueSeverity, r.ceStatus, r.ceMask].getD i 0
/-- The same written: status bits are cleared by ones. -/
def ErrRegs.set (r : ErrRegs) (i : Nat) (v : Word32) : ErrRegs :=
  match i with
  | 0 => { r with ueStatus := r.ueStatus &&& ~~~v }
  | 1 => { r with ueMask := v }
  | 2 => { r with ueSeverity := v }
  | 3 => { r with ceStatus := r.ceStatus &&& ~~~v }
  | 4 => { r with ceMask := v }
  | _ => r

/-- The halves of a 64-bit register pair. -/
def lowWord (w : Word64) : Word32 := BitVec.ofNat 32 (w.toNat % 2 ^ 32)
def highWord (w : Word64) : Word32 := BitVec.ofNat 32 (w.toNat / 2 ^ 32)
def withLow (w : Word64) (v : Word32) : Word64 := BitVec.ofNat 64 (w.toNat / 2 ^ 32 * 2 ^ 32 + v.toNat / 2 ^ 28 * 2 ^ 28)
def withHigh (w : Word64) (v : Word32) : Word64 := BitVec.ofNat 64 (v.toNat * 2 ^ 32 + w.toNat % 2 ^ 32)

/-- The 32-bit register at an offset of the block. -/
def State.compWord (s : State) (o : Nat) : Word32 :=
  let c := s.host.cxl
  if o = 0x1000 then 0x02110001
  else if o = 0x1004 then 0x08020002
  else if o = 0x1008 then 0x10010005
  else if rasAt ≤ o && o < rasAt + 20 then c.ras.get ((o - rasAt) / 4)
  else if o = hdmAt + 4 then c.hdmGlobal
  else if o = hdmAt + 0x10 then lowWord c.hdmBase
  else if o = hdmAt + 0x14 then highWord c.hdmBase
  else if o = hdmAt + 0x18 then lowWord c.hdmSize
  else if o = hdmAt + 0x1C then highWord c.hdmSize
  else if o = hdmAt + 0x20 then BitVec.ofNat 32 (c.hdmCtl.toNat + b2n s.host.hdm.isSome * 2 ^ 10 + b2n s.host.hdmError * 2 ^ 11)
  else 0

/-- The decoder's control register written: Commit commits it, a clear Commit bit takes it away. -/
def State.hdmControl (s : State) (v : Word32) : State :=
  let s := s.onCxl fun c => { c with hdmCtl := v &&& 0x3FF }
  if bitOf v.toNat 9 then s.hdmCommit (2 ^ bitsOf v.toNat 7 4) s.host.cxl.hdmBase s.host.cxl.hdmSize
  else s.onHost fun h => { h with hdm := none, hdmError := false }

/-- A 32-bit register of the block written. -/
def State.compSet (s : State) (o : Nat) (v : Word32) : State :=
  if rasAt ≤ o && o < rasAt + 20 then s.onCxl fun c => { c with ras := c.ras.set ((o - rasAt) / 4) v }
  else if o = hdmAt + 4 then s.onCxl fun c => { c with hdmGlobal := v &&& 3 }
  else if o = hdmAt + 0x10 then s.onCxl fun c => { c with hdmBase := withLow c.hdmBase v }
  else if o = hdmAt + 0x14 then s.onCxl fun c => { c with hdmBase := withHigh c.hdmBase v }
  else if o = hdmAt + 0x18 then s.onCxl fun c => { c with hdmSize := withLow c.hdmSize v }
  else if o = hdmAt + 0x1C then s.onCxl fun c => { c with hdmSize := withHigh c.hdmSize v }
  else if o = hdmAt + 0x20 then s.hdmControl v
  else s

/-- An access of 4 or 8 bytes at an offset of the block. -/
def State.compRead (s : State) (o size : Nat) : Word64 :=
  BitVec.ofNat 64 ((s.compWord o).toNat + (if size = 8 then (s.compWord (o + 4)).toNat * 2 ^ 32 else 0))
def State.compWrite (s : State) (o size : Nat) (v : Word64) : State :=
  let s := s.compSet o (lowWord v)
  if size = 8 then s.compSet (o + 4) (highWord v) else s

/-- HIF_BIAS_CMD.GO (R328, R356) once its checks have passed. -/
def State.biasGo (s : State) (device : Bool) (first count : Nat) : State :=
  if device then
    (s.onHost fun h => { h with flip := some (first, count) }).setFld F.HIF_BIAS_STATE.BUSY 1
  else s.onHost fun h => { h with hostBias := setUnion h.hostBias ((List.range count).map (first + ·)) }

/-- BIAS_FLIP_DONE (R328). -/
def execBiasFlipDone (s : State) : Host.Outcome State Fault Refusal :=
  done (
    match s.host.flip with
    | none => s
    | some (first, count) =>
      (s.onHost fun h => { h with
        flip := none, hostBias := h.hostBias.filter fun g => g < first || first + count ≤ g }).setFld F.HIF_BIAS_STATE.BUSY 0)

/-! ### The host window -/

/-- R355: a commit of the window's base and size. -/
def State.hifCommit (s : State) : State :=
  let b := s.stgOld R.HIF_HWIN_BASE
  let z := s.stgOld R.HIF_HWIN_SIZE
  let base := wordGet b 51 21 * 2 ^ 21
  let size := wordGet z 51 21 * 2 ^ 21
  if size ≤ 2 ^ 44 && base + size ≤ 2 ^ 52 then
    ((((s.hold R.HIF_HWIN_BASE 0).hold R.HIF_HWIN_SIZE 0).setReg R.HIF_HWIN_BASE 0 b).setReg R.HIF_HWIN_SIZE 0 z).setFld F.HIF_COMMIT.REFUSED 0
  else (s.setFld F.HIF_COMMIT.REFUSED 1).commitRefused

/-- HOST_WINDOW_TIMEOUT (R329): the access ends as TIER_UE; an expiry is counted. -/
def execHostWindowTimeout (addr : BitVec 48) (expired : Bool) (reader : Reader) (s : State) :
    Host.Outcome State Fault Refusal :=
  done (
    if s.kindAt addr.toNat != .hwin then s
    else
      let s := if expired then s.count F.HIF_STATS.CACHE_TIMEOUTS else s
      s.endReader (some addr.toNat) reader)

/-! ### The mailbox line -/

/-- MODE of Table 14-15 (R332, R335). -/
def State.mboxMode (s : State) : Nat :=
  if !s.flag F.HIF_MBOX_ADDR.ENABLE then 0
  else if s.flag F.HIF_LINK.CXL && s.flag F.HIF_LINK.CACHE_EN then 1
  else 2

/-- Fields of a line (Table 14-5). -/
def lineSeq (l : List Byte) : Nat := fieldAt l 0 8
def lineOp (l : List Byte) : Nat := fieldAt l 8 1
def lineArg (l : List Byte) : Word64 := BitVec.ofNat 64 (fieldAt l 16 8)

/-- Every byte that Table 14-5 requires zero is. -/
def lineOk (l : List Byte) : Bool :=
  zeroAt l 9 7 && zeroAt l 24 40 && (lineOp l == 1 || lineOp l == 3 || lineOp l == 5 || zeroAt l 16 8)

/-- A reply made ready (R336). -/
def State.addReply (s : State) (r : MboxReply) : State := s.onHost fun h => { h with replies := h.replies ++ [r] }
def replyTo (l : List Byte) (st : Half) (own : Bool := false) : MboxReply := ⟨lineSeq l, lineOp l, st, 0, 0, 0, own⟩

/-- The device acts on a line it has read (R333, R334, R348). -/
def State.lineRead (s : State) (l : List Byte) : State :=
  let seq := lineSeq l
  let last := s.host.lastSeq
  if seq = last then s
  else
    let s := if last + 1 < seq then s.count F.HIF_MBOX_STATE.SKIPPED 0 (seq - last - 1) else s
    let s := (s.onHost fun h => { h with lastSeq := seq }).setFld F.HIF_MBOX_STATE.LAST_SEQ (seq % 2 ^ 32)
    let s := s.count F.HIF_STATS.NOTIFY
    let op := lineOp l
    if 3 ≤ op && op ≤ 5 then
      if !s.bootReady then s.addReply (replyTo l ST.NOT_READY)
      else if s.host.run.isSome then s.addReply (replyTo l ST.MAILBOX_BUSY)
      else if !lineOk l then s.addReply (replyTo l ST.RANGE)
      else (s.onHost fun h => { h with run := some ⟨l, false⟩ }).setFld F.HIF_MBOX_STATE.BUSY 1
    else if op ≤ 2 && lineOk l then s.onHost fun h => { h with ops := h.ops ++ [l] }
    else s.addReply (replyTo l ST.RANGE)

/-- The line at ADDR (Table 14-16). -/
def State.mboxAddr (s : State) : Nat := (s.fld F.HIF_MBOX_ADDR.ADDR) * 64

/-- MAILBOX_SNOOP (R332): the line at an address is read with RdShared, after a snoop or, first, to acquire it. A store to a line that is not
the one at ADDR is not noticed. -/
def execMailboxSnoop (line : MailboxLine) (s : State) : Host.Outcome State Fault Refusal :=
  done (if s.dark || s.mboxMode != 1 || line.bytes.length != 64 || line.addr.toNat != s.mboxAddr then s
    else (s.onHost fun h => { h with mboxHeld := some line.addr.toNat }).lineRead line.bytes)

/-- HIF_MBOX_ADDR written (R332): the old line is released. -/
def State.mboxReleased (s : State) : State := s.onHost fun h => { h with mboxHeld := none }

/-- MAILBOX_POLL (R335): every HIF_MBOX_POLL ticks; a completion timeout is retried at the next interval (R331). -/
def execMailboxPoll (line : Option (List Byte)) (s : State) : Host.Outcome State Fault Refusal :=
  done (
    if s.dark || s.mboxMode != 2 || s.host.polledAt.any (fun t => s.pwr.ticks < t + s.fld F.HIF_MBOX_POLL.TICKS) then s
    else
      let s := s.onHost fun h => { h with polledAt := some s.pwr.ticks }
      match line with
      | none => s
      | some l => if l.length != 64 then s else s.lineRead l)

/-- The oldest waiting line, if its operation is the one named, and the state without it. -/
def State.takeLine (s : State) (op : Nat) (act : List Byte → State → State) : State :=
  match s.host.ops with
  | l :: rest => if lineOp l = op then act l (s.onHost fun h => { h with ops := rest }) else s
  | [] => s

/-- MBOX_NOP (R334). -/
def execMboxNop (s : State) : Host.Outcome State Fault Refusal :=
  done (s.takeLine 0 fun l s => s.addReply (replyTo l ST.OK))

/-- MBOX_LAUNCH (R334): ARG0 goes to TIM_LAUNCH_POST; a refusal under R11 gives ST_RANGE. -/
def execMboxLaunch (s : State) : Host.Outcome State Fault Refusal :=
  done (s.takeLine 1 fun l s =>
    let seq := s.fld F.ERR_LAST_REFUSED.SEQ
    let s := s.launchPosted .host (lineArg l)
    s.addReply (replyTo l (if s.fld F.ERR_LAST_REFUSED.SEQ = seq then ST.OK else ST.RANGE)))

/-- MBOX_CANCEL (R334). -/
def execMboxCancel (s : State) : Host.Outcome State Fault Refusal :=
  done (s.takeLine 2 fun l s => s.launchCancelled.addReply (replyTo l ST.OK))

/-- MAILBOX_REPLY (R336): the oldest reply is written to the page; vector 1. -/
def execMailboxReply (s : State) : Host.Outcome State Fault Refusal :=
  done (
    match s.host.replies with
    | [] => s
    | r :: rest =>
      let s := s.onHost fun h => { h with replies := rest, run := if r.own then none else h.run }
      let s := if r.own then s.setFld F.HIF_MBOX_STATE.BUSY 0 else s
      let s := s.setPage MBP.REPLY (leBytes 8 r.seq ++ leBytes 2 r.status.toNat ++ [BitVec.ofNat 8 r.op, BitVec.ofNat 8 r.res]
        ++ leBytes 4 r.index ++ leBytes 8 r.short)
      s.msix s.msixOn 1)

/-! ### Configuration space (R331, R335, R338) -/

/-- The completion timeout settings that Device Capabilities 2 reports, as Device Control 2 holds them: ranges A to D and Disable (R331; their
places are PRESUMED, log entry 63). -/
abbrev devCap2 : Half := 0x1F

/-- Device Control within Table 14-1: a payload of up to 512 bytes, a read request of up to 4,096. -/
def devCtlOk (v : Half) : Bool := decide (bitsOf v.toNat 7 5 ≤ 2 ∧ bitsOf v.toNat 14 12 ≤ 5)

/-- CONFIG_WRITE: the writes of configuration space that the rules give an effect. -/
def execConfigWrite (w : CfgWrite) (s : State) : Host.Outcome State Fault Refusal :=
  done (
    if s.dark || s.fld F.HIF_LINK.WIDTH = 0 then s
    else match w with
      | .cacheEnable on => if s.flag F.HIF_LINK.CXL then (s.setFld F.HIF_LINK.CACHE_EN (b2n on)).mboxReleased else s
      | .memEnable on => if s.flag F.HIF_LINK.CXL then s.setFld F.HIF_LINK.MEM_EN (b2n on) else s
      | .msixEnable on => { s with msixOn := on }
      | .deviceControl2 v => s.onHost fun h => { h with devCtl2 := v &&& devCap2 }
      | .deviceControl v => if devCtlOk v then s.onCxl fun c => { c with devCtl := v } else s
      | .aer i v => s.onCxl fun c => { c with aer := c.aer.set i.toNat v })

end Sys2Proof.Machine
end

