-- ==== Sys2Proof/Machine/Loader.lean ====
section
/-! DEFINITION. Loading and unloading a run image (R241, R242, R349 to R354). -/

namespace Sys2Proof.Machine

/-! ### The image -/

/-- A declared memory range of an image: KIND, BASE, LEN and whether its zero bytes are zero (Table 14-10). -/
structure MemRange where
  kind : Nat
  base : Nat
  len  : Nat
  zero : Bool

/-- A section: TYPE, SRC, DST, LEN. -/
structure Sect where
  type : Nat
  src  : Nat
  dst  : Nat
  len  : Nat

/-- An image as the loader reads it: where it lies, its header and its tables. -/
structure Img where
  at_    : Nat
  hdr    : List Byte
  ranges : List MemRange
  sects  : List Sect
  eps    : List Nat

def Img.f (m : Img) (o n : Nat) : Nat := fieldAt m.hdr o n
def Img.total (m : Img) : Nat := m.f 24 8
def Img.image (m : Img) : Image := ⟨m.hdr, [], 0⟩
/-- Bytes of the signature block (R349). -/
abbrev sigBlock : Nat := 7232

/-- The image at a local offset, its tables read as far as its header's counts go. -/
def State.img (s : State) (a : Nat) : Img :=
  let h := s.peek a 512
  let f (o n : Nat) : Nat := fieldAt h o n
  let row (off i : Nat) : List Byte := s.peek (a + off + 32 * i) 32
  { at_ := a, hdr := h,
    ranges := (List.range (f 16 2)).map fun i =>
      let r := row (f 88 8) i
      ⟨fieldAt r 0 1, fieldAt r 8 8, fieldAt r 16 8, zeroAt r 1 7 && zeroAt r 24 8⟩
    sects := (List.range (f 14 2)).map fun i =>
      let r := row (f 96 8) i
      ⟨fieldAt r 0 1, fieldAt r 8 8, fieldAt r 16 8, fieldAt r 24 8⟩
    eps := (List.range (f 20 4)).map fun i => s.peekNat (a + f 104 8 + 2 * i) 2 }

/-- The communicator table's section, if there is one. -/
def Img.table (m : Img) : Option Sect := m.sects.find? fun x => x.type == 3

/-- The table's bytes as they lie in the image. -/
def State.tableBytes (s : State) (m : Img) : List Byte :=
  match m.table with
  | some x => s.peek (m.at_ + x.src) x.len
  | none => []

/-- One record of Table 10-2 in the table's bytes. -/
def recAt (t : List Byte) (j o n : Nat) : Nat := fieldAt t (32 * j + o) n
/-- Its member list: the bytes, and the endpoint IDs in rank order. -/
def memberBytes (t : List Byte) (j : Nat) : List Byte := slice t (recAt t j 16 8) (2 * recAt t j 8 4)
def membersOf (t : List Byte) (j : Nat) : List Nat :=
  (List.range (recAt t j 8 4)).map fun i => fieldAt (memberBytes t j) (2 * i) 2

/-! ### Checks 3 to 6 of R351 -/

/-- Check 3: MAGIC, VERSION, TOTAL, every table and section inside the image, one type 3 section exactly when a communicator
is declared. -/
def Img.shapeOk (m : Img) (length : Nat) : Bool :=
  let t := m.total
  let inside (off n : Nat) : Bool := off + n ≤ t
  slice m.hdr 0 8 == [0x45, 0x4F, 0x4C, 0x52, 0x55, 0x4E, 0x49, 0x31] && m.f 8 2 == 1 && t == length && 512 + sigBlock ≤ t
    && inside (m.f 88 8) (32 * m.f 16 2) && inside (m.f 96 8) (32 * m.f 14 2) && inside (m.f 104 8) (2 * m.f 20 4)
    && (m.sects.all fun x => x.type == 1 || inside x.src x.len)
    && (m.sects.filter fun x => x.type == 3).length == (if m.f 13 1 = 0 then 0 else 1)

/-- Check 4: the signature over D of all but the signature block, with an empty context (R349). -/
def State.signed (s : State) (m : Img) (signer : List Byte) : Bool :=
  let t := m.total
  let blk := s.peek (m.at_ + t - sigBlock) sigBlock
  let key := slice blk 0 2592
  sha3 key == signer && zeroAt blk 7219 13
    && Config.mlDsaVerify key ([0, 0] ++ digestOf (s.peek m.at_ (t - sigBlock))) (slice blk 2592 4627)

/-- A range of each KIND lies in one unit of its kind and is aligned as R349 says. -/
def MemRange.ok (r : MemRange) : Bool :=
  let last := r.base + (r.len - 1)
  let mib2 := r.base % 2 ^ 21 == 0 && r.len % 2 ^ 21 == 0
  let one : Bool := match r.kind, place r.base, place last with
    | 0, .stack k _, .stack j _ => k == j && mib2
    | 1, .near k _, .near j _ => k == j && mib2
    | 2, .far k _, .far j _ => k == j && mib2
    | 3, .hwin _, .hwin _ => true
    | 4, .csram k _, .csram j _ => k == j && r.base % 64 == 0 && r.len % 64 == 0
    | _, _, _ => false
  r.zero && r.len != 0 && one

/-- An extent lies within one declared range of the kinds named. -/
def Img.covers (m : Img) (kinds : List Nat) (a n : Nat) : Bool :=
  m.ranges.any fun r => kinds.contains r.kind && r.base ≤ a && a + n ≤ r.base + r.len

/-- R85 and the application-core fields of Table 14-10. -/
def State.pxOk (s : State) (m : Img) : Bool :=
  let cores := m.f 112 8
  if cores = 0 then zeroAt m.hdr 120 20
  else
    let top := maxOf m.image.pxCores
    let bytes := m.f 136 4
    cores < 2 ^ 48 && bytes % 64 == 0 && decide (4096 ≤ bytes ∧ bytes ≤ 2 ^ 20)
      && s.isSelf (m.f 120 8) && m.covers [0, 1] (offOf (m.f 120 8)) 1
      && s.isSelf (m.f 128 8) && m.covers [0, 1] (offOf (m.f 128 8)) ((top + 1) * bytes)

/-- Extents that do not overlap, pair by pair. -/
def rangesDisjoint : List MemRange → Bool
  | [] => true
  | r :: rs => (rs.all fun q => r.base + r.len ≤ q.base || q.base + q.len ≤ r.base) && rangesDisjoint rs

/-- The fields of Table 14-10, the endpoint set, the ranges and the sections of check 6. -/
def State.fieldsOk (s : State) (m : Img) : Bool :=
  let tag := m.f 10 2
  let stackBytes := m.f 48 4
  let secIn (x : Sect) : Bool :=
    if x.type = 2 then x.dst + x.len ≤ m.f 52 4
    else decide (x.type ≤ 3) && s.isSelf x.dst && m.covers [0, 1, 2, 3, 4] (offOf x.dst) x.len
  tag != 0 && tag != 0xFFFF && decide (1 ≤ m.f 14 2 ∧ m.f 14 2 ≤ 256) && decide (1 ≤ m.f 16 2 ∧ m.f 16 2 ≤ 64)
    && decide (1 ≤ m.f 20 4 ∧ m.f 20 4 ≤ 16384)
    && s.isSelf (m.f 32 8) && m.covers [0] (offOf (m.f 32 8)) 1 && (m.f 13 1 != 0 || m.f 40 8 == 0)
    && stackBytes % 64 == 0 && decide (256 ≤ stackBytes ∧ stackBytes ≤ 65536) && m.f 52 4 % 64 == 0 && m.f 56 32 != 0
    && zeroAt m.hdr 140 372 && s.pxOk m
    && (m.ranges.all MemRange.ok) && rangesDisjoint m.ranges
    && (m.eps.all fun e => e < 0x4000) && ((m.eps.zip m.eps.tail).all fun e => e.1 < e.2)
    && m.sects.all secIn

/-- A collective buffer range declared in the host window, populated or not (R26, R242, chapter 07). Which ranges are collective
buffers is a free value (DESIGN CHOICE, log entry 54). -/
def Img.bufferInWindow (m : Img) : Bool :=
  (List.range m.ranges.length).any fun i =>
    m.f 13 1 != 0 && (m.ranges.getD i ⟨0, 0, 0, true⟩).kind == 3 && Config.collRange m.hdr i

/-- The communicator checks of R242: ST_OK, or the first refusal's status. -/
def State.commsOk (s : State) (m : Img) : Half :=
  let t := s.tableBytes m
  let n := m.f 13 1
  let ok (j : Nat) : Bool :=
    let r (o k : Nat) : Nat := recAt t j o k
    let ms := membersOf t j
    r 0 2 != 0 && r 2 1 ≤ 1 && r 3 1 ≤ 7 && decide (1 ≤ r 4 1 ∧ r 4 1 ≤ 16) && r 5 1 ≤ 31 && decide (1 ≤ r 6 2 ∧ r 6 2 ≤ 4096)
      && decide (1 ≤ r 8 4 ∧ r 8 4 ≤ 16384) && decide (1 ≤ r 12 4 ∧ r 12 4 ≤ 32768)
      && decide (r 16 8 + 2 * r 8 4 ≤ t.length) && (ms.all fun e => m.eps.contains e) && ms.eraseDups.length == ms.length
      && ms.contains s.self && ((List.range j).all fun i => recAt t i 0 2 != r 0 2)
  let far (j : Nat) : Bool := recAt t j 2 1 == 0 && (membersOf t j).any fun e => epGroup e != epGroup s.self
  if t.length < 32 * n || !(List.range n).all ok then ST.RANGE
  else if (List.range n).any far || m.bufferInWindow then ST.MODE_CONFLICT
  else ST.OK

/-! ### Resources (R352) -/

/-- Bytes two extents share. -/
def overlap (a n b k : Nat) : Nat := Nat.min (a + n) (b + k) - Nat.max a b

/-- The bytes a list of ranges shares with an extent. -/
def Img.shared (m : Img) (kind a n : Nat) : Nat :=
  ((m.ranges.filter fun r => r.kind == kind).map fun r => overlap r.base r.len a n).sum

/-- Communicators of an image whose HOME is cluster c. -/
def homesIn (t : List Byte) (n c : Nat) : Nat := ((List.range n).filter fun j => recAt t j 5 1 == c).length

/-- The first of a run of units that falls short, as code, index and amount. -/
def shortOf (code n : Nat) (f : Nat → Nat) : Option (Nat × Nat × Nat) :=
  ((List.range n).find? fun i => f i != 0).map fun i => (code, i, f i)

/-- Table 14-11: the first resource that falls short, as its code, index and amount. -/
def State.shortage (s : State) (m : Img) : Option (Nat × Nat × Nat) :=
  let t := s.tableBytes m
  let n := m.f 13 1
  let c := m.f 12 1
  let low := (m.image.cores.head?).getD 0
  let one (code : Nat) (short : Bool) (index amount : Nat) : Option (Nat × Nat × Nat) :=
    if short then some (code, index, amount) else none
  let coreBytes := m.f 52 4 + (if n = 0 then c else c + 4) * m.f 48 4
  let ring (k : Nat) : Nat :=
    let b := 4096 * homesIn t n k
    (b - 0x2000000) + m.shared 4 (csramBase k + 0x2000000 - b) b
  let park (k : Nat) : Nat := m.shared 0 (s.parkBase k) (s.parkSlots k * 65536)
  let beyond (kind base size unit : Nat) : Nat :=
    m.shared kind (base + s.tierBytes unit) (size - s.tierBytes unit)
  let slots := ((List.range n).map fun j => recAt t j 4 1).sum
  let matchSum := ((List.range n).map fun j => recAt t j 6 2).sum
  (one 0 (s.pendingLaunch.isSome || s.launchBusy) 0 0)
    <|> (one 1 (c == 0 || 124 < c) low (if c = 0 then 1 else c - 124))
    <|> (one 2 (2 ^ 20 < coreBytes) low (coreBytes - 2 ^ 20))
    <|> shortOf 3 32 ring
    <|> shortOf 4 16 park
    <|> shortOf 5 8 (fun k => beyond 1 (0x020000000000 + k * 0x4000000000) 0x4000000000 k)
    <|> shortOf 6 2 (fun p => beyond 2 (0x040000000000 + p * 0x40000000000) 0x40000000000 (8 + p))
    <|> shortOf 7 1 (fun _ => m.shared 3 (0x0F0000000000 + s.hwinBytes) (0x10000000000 - s.hwinBytes))
    <|> (one 8 (64 < m.f 18 2) 0 (m.f 18 2 - 64))
    <|> (one 9 (256 < slots) 0 (slots - 256))
    <|> (one 10 (8192 < matchSum) 0 (matchSum - 8192))
    <|> (one 11 (64 < n) 0 (n - 64))
    <|> (one 12 (!(s.localEntry.any fun i => s.fld F.LNK_TAG_ENTRY.TAG i == m.f 10 2)) 0 0)
    <|> (one 13 (s.self == 0xFFFF || !m.eps.contains s.self) 0 0)

/-! ### The load -/

/-- Where a descriptor and an image may lie (R351). -/
def loadPlace (k : Kind) : Bool := k == .stack || isTier k || k == .hwin

/-- An answer of the loader: the status and, for ST_NO_FIT, the resource. -/
structure LoadEnd where
  status : Half
  short  : Nat × Nat × Nat := (0, 0, 0)

/-- The checks of R351 in order over the descriptor at a local offset; none when all pass. -/
def State.loadCheck (s : State) (arg : Nat) : Option LoadEnd :=
  let d := s.peek (offOf arg) 256
  let img := fieldAt d 0 8
  let len := fieldAt d 8 8
  let m := s.img (offOf img)
  if !s.bootReady then some { status := ST.NOT_READY }
  else if !s.isSelf arg || arg % 64 != 0 || !s.extentIn loadPlace (offOf arg) 256 then some { status := ST.RANGE }
  else if !s.isSelf img || !s.extentIn loadPlace (offOf img) len || !zeroAt d 144 112 then some { status := ST.RANGE }
  else if len < 512 + sigBlock || !m.shapeOk len then some { status := ST.BAD_IMAGE }
  else if !s.signed m (slice d 16 64) then some { status := ST.SIG_FAIL }
  else if !zeroAt d 80 64 && slice d 80 64 != digestOf (s.peek m.at_ m.total) then some { status := ST.DIGEST_MISMATCH }
  else if !s.fieldsOk m then some { status := ST.RANGE }
  else if s.commsOk m != ST.OK then some { status := s.commsOk m }
  else (s.shortage m).map fun r => { status := ST.NO_FIT, short := r }

/-- One section copied or zeroed (R353). -/
def copySection (m : Img) (s : State) (x : Sect) : State :=
  if x.type = 1 then
    let a := offOf x.dst
    (((s.countHome a x.len).zeroBytes a x.len).countLines a x.len true).afterWrite a x.len none
  else if x.type = 2 then
    m.image.cores.foldl (fun s g => s.copyBytes (m.at_ + x.src) (lsramBase g + x.dst) x.len) s
  else s.copyBytes (m.at_ + x.src) (offOf x.dst) x.len

/-- The loaded communicator of record j (Table 10-2), its match entries after those of the earlier records, its ring
packed downward from the top of the HOME cluster's SRAM (R350). -/
def loadedComm (t : List Byte) (j : Nat) : Comm :=
  let r (o n : Nat) : Nat := recAt t j o n
  let home := r 5 1
  { comm := r 0 2, mode := r 2 1, cls := r 3 1, slots := r 4 1, home := home, reserve := r 6 2,
    base := ((List.range j).map fun i => recAt t i 6 2).sum, members := membersOf t j, arrivals := r 12 4,
    sig := crc64 (memberBytes t j), ring := csramBase home + 0x2000000 - 4096 * homesIn t (j + 1) home,
    lapDone := none, lap := none, arrived := 0, ownTick := 0, atNode := none, atGroup := none, atRoot := none }

/-- MEMBERS and MEMBER_SIG of each record rewritten in the loaded table (R353). -/
def State.rewriteTable (s : State) (t : List Byte) (dst n : Nat) : State :=
  (List.range n).foldl (fun s j =>
    s.homeWrite (offOf dst + 32 * j + 16) (leBytes 8 (dst + recAt t j 16 8) ++ leBytes 8 (crc64 (memberBytes t j)))) s

/-- R353: the previous image goes, the sections are copied, the table is rewritten, PROG is recorded and measured. -/
def State.loadCopy (s : State) (m : Img) : Half × State :=
  let t := s.tableBytes m
  let prog := digestOf (s.peek m.at_ m.total)
  let n := m.f 13 1
  let s := s.unloadImage
  let s := m.sects.foldl (copySection m) s
  if digestOf (s.peek m.at_ m.total) != prog then (ST.DIGEST_MISMATCH, s)
  else
    let dst := (m.table.map (·.dst)).getD 0
    let s := s.rewriteTable t dst n
    let s := { s with image := some ⟨m.hdr, prog, dst⟩, comms := (List.range n).map fun j => (j, loadedComm t j) }
    (ST.OK, (s.extendMr 3 prog).setFld F.HIF_BOOT_STATUS.LOADED 1)

/-- The memory a load would touch that now has to wait: its source and targets in reset, a protected granule (R291,
R316). -/
def State.loadHold (s : State) (arg : Nat) : Option Nat :=
  let m := s.img (offOf (s.peekNat (offOf arg) 8))
  if s.memWaits (offOf arg) || s.memWaits m.at_ then some resetHold
  else if (s.loadCheck arg).isSome then none
  else
    (m.sects.findSome? fun x =>
      if x.type = 2 then m.image.cores.findSome? fun g => s.writeHold (lsramBase g + x.dst) x.len
      else s.writeHold (offOf x.dst) x.len)

/-- The running mailbox operation, if it is of one kind. -/
def State.running? (s : State) (op : Nat) : Option (List Byte) :=
  (s.host.run.filter fun r => lineOp r.line == op && !r.copied && !(s.host.replies.any (·.own))).map (·.line)

/-- The reply of the running operation. -/
def State.ends (s : State) (l : List Byte) (e : LoadEnd) : State :=
  s.addReply { replyTo l e.status true with res := e.short.1, index := e.short.2.1, short := e.short.2.2 }

/-- LOAD (R351 to R353): checks, copy, measurement; a source line that is uncorrectable ends it (R301). -/
def execLoad (s : State) : Host.Outcome State Fault Refusal :=
  done (
    match s.running? 3 with
    | none => s
    | some l =>
      if !s.mgmtFree then s
      else
        let arg := (lineArg l).toNat
        match s.loadHold arg with
        | some g => s.holdOp g (.unit .mgmt)
        | none =>
          let d := s.peek (offOf arg) 256
          let named := s.isSelf arg && s.isSelf (fieldAt d 0 8)
          let bad := s.poisonIn (offOf arg) 256 <|> s.poisonIn (offOf (fieldAt d 0 8)) (fieldAt d 8 8)
          match s.loadCheck arg, bad with
          | some e, none => s.ends l e
          | some e, some p =>
            if !named || e.status == ST.NOT_READY || e.status == ST.RANGE then s.ends l e
            else (s.uncorrectable p none 0 none ST.ABORTED).ends l { status := ST.ABORTED }
          | none, some p => (s.uncorrectable p none 0 none ST.ABORTED).ends l { status := ST.ABORTED }
          | none, none =>
            let (st, s) := s.loadCopy (s.img (offOf (fieldAt d 0 8)))
            (s.onHost fun h => { h with run := some ⟨l, true⟩ }).ends l { status := st })

/-- UNLOAD (R354). -/
def execUnload (s : State) : Host.Outcome State Fault Refusal :=
  done (
    match s.running? 4 with
    | none => s
    | some l =>
      if !s.mgmtFree then s
      else if s.pendingLaunch.isSome || s.launchBusy then s.ends l { status := ST.NO_FIT }
      else s.unloadImage.ends l { status := ST.OK })

end Sys2Proof.Machine
end

