-- ==== Sys2Proof/Machine/Boot.lean ====
section
/-! DEFINITION. Reserves (R21 to R24), the configuration read (R339 to R343), boot (R344 to R348) and firmware verification
(R360, R361, R364). -/

namespace Sys2Proof.Machine

def State.onCfg (s : State) (f : Cfg → Cfg) : State := { s with cfg := f s.cfg }

/-! ### Reserves -/

/-- Table 01-8 by KIND: logical units per parent, physical units per parent, parents. For engine columns (2) and stack data
dies (5) one unit per parent is retired, and the logical unit is the parent. -/
def reserveShape : Nat → Nat × Nat × Nat
  | 0 => (16, 17, 2) | 1 => (8, 9, 32) | 2 => (64, 65, 1024) | 3 => (64, 68, 32) | 4 => (4, 5, 32) | _ => (12, 13, 16)
def retires (kind : Nat) : Bool := kind == 2 || kind == 5

/-- How many logical units INDEX numbers, and the parent of one. -/
def reserveCount (kind : Nat) : Nat :=
  let (l, _, p) := reserveShape kind
  if retires kind then p else l * p
def reserveParent (kind index : Nat) : Nat := if retires kind then index else index / (reserveShape kind).1

/-- The assignment list: 4,096 × KIND + INDEX to the physical unit and whether the field map gave it. -/
abbrev Assign := List (Nat × Nat × Bool)
def assignKey (kind index : Nat) : Nat := 4096 * kind + index

/-- The physical unit that serves a logical unit; for a retiring kind the unit retired, the idle spare without one. -/
def physOf (a : Assign) (kind index : Nat) : Nat :=
  match assocGet (assignKey kind index) a with
  | some e => e.1
  | none => if retires kind then (reserveShape kind).1 else index % (reserveShape kind).1

/-- The fuse map marks a physical unit defective (R22). -/
def fuseDefect (kind parent phys : Nat) : Bool := Config.fuseDefects.contains (kind, parent, phys)

/-- The logical units of a parent. -/
def logicalIn (kind parent : Nat) : List Nat :=
  if retires kind then [parent] else (List.range (reserveShape kind).1).map fun i => parent * (reserveShape kind).1 + i

/-- One defect of the fuse map applied: the logical unit it hits takes the lowest sound spare left; true when none is
left (R21, R23, DESIGN CHOICE, log entry 8). -/
def applyDefect (r : Assign × Bool) (d : Nat × Nat × Nat) : Assign × Bool :=
  let (kind, parent, phys) := d
  let (l, n, p) := reserveShape kind
  if 5 < kind || p ≤ parent || n ≤ phys then r
  else if retires kind then
    match assocGet (assignKey kind parent) r.1 with
    | some _ => (r.1, true)
    | none => (assocSet (assignKey kind parent) (phys, false) r.1, r.2)
  else if l ≤ phys then r
  else
    let used := (logicalIn kind parent).map (physOf r.1 kind)
    match (List.range n).find? fun q => l ≤ q && !fuseDefect kind parent q && !used.contains q with
    | some q => (assocSet (assignKey kind (parent * l + phys)) (q, false) r.1, r.2)
    | none => (r.1, true)

/-- The assignment of the manufacturing fuse map, and whether a unit falls short. -/
def fuseAssign : Assign × Bool := Config.fuseDefects.foldl applyDefect ([], false)

/-- A field repair entry of KIND 0 to 5 accepted under R22, as the new assignment. One that retires a column or die is refused
where the fuse map marks the named one defective, and also where it has retired another of the same unit, whose one spare is
then taken (DESIGN CHOICE, log entry 52). -/
def fieldAssign (a : Assign) (kind index phys : Nat) : Option Assign :=
  let parent := reserveParent kind index
  let others := (logicalIn kind parent).filter (· != index)
  if 5 < kind || reserveCount kind ≤ index || (reserveShape kind).2.1 ≤ phys then none
  else if retires kind then
    if (List.range (reserveShape kind).2.1).any fun q => fuseDefect kind parent q then none
    else some (assocSet (assignKey kind index) (phys, true) a)
  else if fuseDefect kind parent phys || (others.any fun i => physOf a kind i == phys) then none
  else some (assocSet (assignKey kind index) (phys, true) a)

/-- The logical unit runs on a reserve: its physical unit is a spare, or it has retired a column or die other than the spare
(R24). -/
def onReserve (a : Assign) (kind index : Nat) : Bool :=
  let l := (reserveShape kind).1
  if retires kind then decide (physOf a kind index < l) else decide (l ≤ physOf a kind index)

/-- Reserves of a kind in use: assignments that name a spare, columns and dies retired. -/
def reservesUsed (a : Assign) (kind : Nat) : Nat :=
  (a.filter fun e => e.1 / 4096 == kind && onReserve a kind (e.1 % 4096)).length

/-- A row redirected to a free spare row of its bank, if one is free (R341). -/
def State.repairRow (s : State) (e : List Byte) : Option State :=
  let b (i : Nat) : Nat := fieldAt e i 1
  let row := fieldAt e 8 4
  if 16 ≤ b 4 || 12 ≤ b 5 || 32 ≤ b 6 || 64 ≤ b 7 || 2 ^ 18 ≤ row then none
  else
    let k := rowKey ⟨BitVec.ofNat 4 (b 4), BitVec.ofNat 4 (b 5), BitVec.ofNat 5 (b 6), BitVec.ofNat 6 (b 7), BitVec.ofNat 18 row⟩
    if s.spared.contains k then some s
    else if spareRows ≤ (s.spared.filter fun r => bankOf r == bankOf k).length then none
    else some (({ s with spared := s.spared ++ [k] } : State).setFld F.MEM_STATE.SPARE_ROWS_USED
      (Nat.min 4095 (s.fld F.MEM_STATE.SPARE_ROWS_USED (b 4) + 1)) (b 4))

/-- One REPAIR entry (Table 14-24, R341): applied, or refused and counted (R22); a refused one leaves the assignment as the
entries before it left it (DESIGN CHOICE, log entry 52). -/
def State.repairEntry (s : State) (e : List Byte) : State :=
  let kind := fieldAt e 0 1
  let zeros := zeroAt e 1 3 && zeroAt e 12 4 && (kind == 6 || zeroAt e 8 4)
  let done? : Option State :=
    if !zeros then none
    else if kind = 6 then s.repairRow e
    else (fieldAssign s.cfg.assign kind (fieldAt e 4 2) (fieldAt e 6 2)).map fun a => s.onCfg fun c => { c with assign := a }
  match done? with
  | some s => s
  | none => s.setFld F.MGT_RESERVE_STATUS.FIELD_REFUSED (Nat.min 255 (s.fld F.MGT_RESERVE_STATUS.FIELD_REFUSED + 1))

/-! ### Configuration memory -/

/-- The header passes R343. -/
def cfgHeaderOk (b : List Byte) : Bool :=
  slice b 0 8 == [0x45, 0x4F, 0x4C, 0x43, 0x46, 0x47, 0x4D, 0x31] && fieldAt b 8 2 == 1
    && fieldAt b 12 4 ≤ 2 ^ 26 && crc32c (slice b 0 60) == fieldAt b 60 4

/-- Records used, by TYPE, and records skipped (R340, R343): n records from place i, after those of the TYPEs seen. -/
def cfgRecords : Nat → Nat → List Byte → List Nat → List (Nat × List Byte) → Nat → List (Nat × List Byte) × Nat
  | 0, _, _, _, used, skipped => (used, skipped)
  | n + 1, i, b, seen, used, skipped =>
    let len := fieldAt b (i + 4) 4
    let type := fieldAt b i 2
    let data := slice b (i + 16) len
    if b.length < i + 16 + len then (used, skipped + n + 1)
    else
      let next := i + 16 + (len + 15) / 16 * 16
      if crc32c data == fieldAt b (i + 8) 4 && 1 ≤ type && type ≤ 6 && !seen.contains type
      then cfgRecords n next b (type :: seen) (used ++ [(type, data)]) skipped
      else cfgRecords n next b (type :: seen) used (skipped + 1)

/-- A byte as a signed number. -/
def sbyte (b : List Byte) (i : Nat) : Int := toSigned 8 (fieldAt b i 1)

/-- An EQ entry in range (Table 14-25). -/
def eqOk (e : List Byte) : Bool :=
  let port := fieldAt e 0 1
  let lane := fieldAt e 1 1
  let taps := (List.range 5).map fun i => (sbyte e (3 + i)).natAbs
  if port ≤ 31 then lane ≤ 3 && zeroAt e 2 1 && decide (0 < sbyte e 6) && taps.sum ≤ 128
  else decide (0x40 ≤ port ∧ port ≤ 0x42) && lane ≤ 15 && fieldAt e 2 1 ≤ 10 && zeroAt e 3 5

/-- A TRIMS entry in range (R374). -/
def trimOk (e : List Byte) : Bool :=
  let v := (toSigned 16 (fieldAt e 2 2)).natAbs
  let i := fieldAt e 1 1
  zeroAt e 4 4 && (match fieldAt e 0 1 with
    | 0 => i ≤ 41 && v ≤ 50
    | 1 => i ≤ 99 && v ≤ 32
    | _ => false)

/-- The n-byte entries of a record. -/
def entriesIn (n : Nat) (d : List Byte) : List (List Byte) := (List.range (d.length / n)).map fun i => slice d (n * i) n

/-- Entries kept by key, a later one for its key in place of an earlier, and how many were skipped. -/
def keepEntries (ok : List Byte → Bool) (key : List Byte → Nat) (es : List (List Byte)) : List (Nat × List Byte) × Nat :=
  es.foldl (fun (r : List (Nat × List Byte) × Nat) e => if ok e then (assocSet (key e) e r.1, r.2) else (r.1, r.2 + 1)) ([], 0)

/-- The seed of the identity key (R362). -/
def idSeed : List Byte :=
  slice (sha3 ([0x45, 0x4F, 0x4C, 0x49, 0x44, 0x4B, 0x45, 0x59] ++ slice Config.fuseSeed 0 32)) 0 32

/-- CERT of a certificate record (R363). -/
def certState (r : Option (List Byte)) : Nat :=
  match r with
  | none => 0
  | some c => if slice c 96 2592 == slice (Config.mlDsaPublic idSeed) 0 2592 then 1 else 2

/-- LNK_PORT_CFG and the DISABLED ports of a PORTS record (Table 14-8). -/
def State.portsRecord (s : State) (d : List Byte) : State :=
  (List.range 32).foldl (fun s p =>
    let b := fieldAt d p 1
    let s := (s.setFld F.LNK_PORT_CFG.ENABLE (b % 2) p).setFld F.LNK_PORT_CFG.GEN (b / 2 % 4) p
    if b % 2 = 0 then s.setPortState p 5 else s) s

/-- MGT_RESERVE_STATUS and SPARE_DIE after both maps (Table 01-9). -/
def State.reserveStatus (s : State) (field : Bool) : State :=
  let a := s.cfg.assign
  let s := s.setFld F.MGT_RESERVE_STATUS.MAP_VALID 1
  let s := s.setFld F.MGT_RESERVE_STATUS.CLUSTERS_USED (reservesUsed a 0)
  let s := s.setFld F.MGT_RESERVE_STATUS.CORES_USED (reservesUsed a 1)
  let s := s.setFld F.MGT_RESERVE_STATUS.ENG_COLS_USED (reservesUsed a 2)
  let s := s.setFld F.MGT_RESERVE_STATUS.DSU_LANES_USED (reservesUsed a 3)
  let s := s.setFld F.MGT_RESERVE_STATUS.PORT_LANES_USED (reservesUsed a 4)
  let s := s.setFld F.MGT_RESERVE_STATUS.STACK_DIES_USED (reservesUsed a 5)
  let s := s.setFld F.MGT_RESERVE_STATUS.FIELD_MAP_PRESENT (b2n field)
  (List.range 16).foldl (fun s k => s.setFld F.MEM_STATE.SPARE_DIE (b2n (physOf a 5 k < 12)) k) s

/-- CONFIG_READ_DONE (R339 to R343, R362 to R364, R23): the memory's bytes are read up to LENGTH, its records applied, the
reserves assigned, the key derived; a shortage stops boot. With TESTEN the package does not boot (R400). -/
def execConfigReadDone (bytes : List Byte) (s : State) : Host.Outcome State Fault Refusal :=
  done (
    if s.dark || s.phase != 1 || s.cfg.done || s.resetting.isSome || s.flag F.MGT_PINS.TESTEN then s
    else
      let hdr := slice bytes 0 64
      let valid := cfgHeaderOk hdr
      let n := if valid then Nat.max 64 (fieldAt hdr 12 4) else 64
      let read := slice bytes 0 n
      let (recs, skipped) := if valid then cfgRecords (fieldAt hdr 10 2) 64 read [] [] 0 else ([], 0)
      let get (t : Nat) : List Byte := (assocGet t recs).getD []
      let (eq, eqBad) := keepEntries eqOk (fun e => 16 * fieldAt e 0 1 + fieldAt e 1 1) (entriesIn 8 (get 2))
      let (trims, trimBad) := keepEntries trimOk (fun e => 256 * fieldAt e 0 1 + fieldAt e 1 1) (entriesIn 8 (get 4))
      let cert := (assocGet 6 recs).map fun d => slice d 0 7392
      let (assign, short) := fuseAssign
      let s := s.onCfg fun _ => ⟨true, slice (get 3) 0 256, cert, eq, trims, assign⟩
      let s := s.setFld F.HIF_CFG_STATUS.HEADER_VALID (b2n valid)
      let s := s.setFld F.HIF_CFG_STATUS.RECORDS recs.length
      let s := s.setFld F.HIF_CFG_STATUS.SKIPPED (Nat.min 255 skipped)
      let s := s.setFld F.HIF_CFG_STATUS.ENTRIES_SKIPPED (Nat.min 255 (eqBad + trimBad))
      let s := s.setFld F.HIF_CFG_STATUS.BYTES_READ n
      let s := match assocGet 1 recs with
        | some d => s.portsRecord d
        | none => s
      let s := (entriesIn 16 (get 5)).foldl State.repairEntry s
      let s := s.reserveStatus (assocGet 5 recs).isSome
      let s := (s.setFld F.SEC_STATUS.ID_READY 1).setFld F.SEC_STATUS.CERT (certState cert)
      let s := s.extendMr 2 (digestOf read)
      if short then (s.setFld F.HIF_BOOT_STATUS.STATUS ST.RESERVE_EXHAUSTED.toNat).setPhase 6 else s)

/-! ### Boot -/

/-- UPSTREAM_LINK_TRAINED (R320, R322, R344, R345, R406): HIF_LINK shows the link; from CONFIG, once the configuration is
read, the phase becomes WAIT_IMAGE. -/
def execUpstreamLinkTrained (cxl : Bool) (width : BitVec 5) (rate : BitVec 8) (s : State) : Host.Outcome State Fault Refusal :=
  done (
    let w := width.toNat
    let r := rate.toNat
    let can := (w == 4 || w == 8 || w == 16) && (r == 8 || r == 16 || r == 32)
    if !can || s.dark || !s.cfg.done || !s.flag F.MGT_PINS.PERST_N || s.fld F.HIF_LINK.WIDTH != 0 then s
    else
      let s := ((s.setFld F.HIF_LINK.CXL (b2n cxl)).setFld F.HIF_LINK.WIDTH w).setFld F.HIF_LINK.RATE r
      if s.phase = 1 && s.resetting.isNone then s.setPhase 2 else s)

/-- HIF_BOOT_CTL.GO once its checks have passed (R346). -/
def State.bootGo (s : State) : State := s.setPhase 3

/-- The image in boot memory. -/
def State.bootImage (s : State) (n : Nat) : List Byte := (List.range n).map fun i => mapGet memDefault i s.bootMem

/-- Slot s of Table 15-1 holds a hash (PROGRAMMED). -/
def slotKey (slot : Nat) : List Byte := slice (Config.fuseKey slot) 0 64
def programmed (slot : Nat) : Bool := slot < 4 && !zeroAt (slotKey slot) 0 64
def State.revoked (s : State) (slot : Nat) : Bool := bitOf s.sec.revoked slot

/-- Check 1 of Table 15-3 over the header and the length. -/
def fwShape (b : List Byte) (n : Nat) : Bool :=
  let entry := fieldAt b 24 8
  decide (7488 ≤ n) && slice b 0 8 == [0x45, 0x4F, 0x4C, 0x46, 0x57, 0x49, 0x4D, 0x31] && fieldAt b 8 2 == 1 && zeroAt b 11 1
    && fieldAt b 12 2 ≤ 127 && zeroAt b 14 2 && fieldAt b 16 8 == n && zeroAt b 32 224 && zeroAt b (n - sigBlock + 7219) 13
    && entry % 4 == 0 && decide (256 ≤ entry ∧ entry + sigBlock < n)

/-- Table 15-3: ST_OK, or the first failure's status. -/
def State.fwCheck (s : State) (b : List Byte) (n : Nat) : Half :=
  let slot := fieldAt b 10 1
  let blk := slice b (n - sigBlock) sigBlock
  let key := slice blk 0 2592
  if !fwShape b n then ST.BAD_IMAGE
  else if !programmed slot || s.revoked slot then ST.KEY_REVOKED
  else if sha3 key != slotKey slot then ST.SIG_FAIL
  else if !Config.mlDsaVerify key ([0, 0] ++ digestOf (slice b 0 (n - sigBlock))) (slice blk 2592 4627) then ST.SIG_FAIL
  else if fieldAt b 12 2 < s.sec.svn then ST.ROLLBACK
  else ST.OK

/-- A failed verification (R346). -/
def State.fwFail (s : State) (st : Half) : State :=
  let s := ({ s with bootMem := [] } : State).setFld F.HIF_BOOT_STATUS.STATUS st.toNat
  (s.setFld F.HIF_BOOT_STATUS.ATTEMPTS (Nat.min 255 (s.fld F.HIF_BOOT_STATUS.ATTEMPTS + 1))).setPhase 2

/-- A passed verification (R361, R364): MR0 and MR1, the run slot and SVN, the management processor starts. -/
def State.fwPass (s : State) (b : List Byte) : State :=
  let slot := fieldAt b 10 1
  let svn := fieldAt b 12 2
  let s := s.extendMr 0 (digestOf b)
  let s := s.extendMr 1 (pad64 ([BitVec.ofNat 8 slot, BitVec.ofNat 8 s.sec.revoked] ++ leBytes 2 svn ++ leBytes 2 s.sec.svn ++ [1]))
  let s := s.setFld F.SEC_STATUS.RUN_SLOT slot
  let s := s.setFld F.SEC_STATUS.RUN_VALID 1
  let s := s.setFld F.SEC_STATUS.SVN_IMAGE svn
  let s := s.setFld F.HIF_BOOT_STATUS.STATUS ST.OK.toNat
  let s := { s with mgt := { s.mgt with kickAt := s.pwr.ticks, hung := false } }
  s.setPhase 4

/-- Fabric ports train in parallel from TRAIN on (Table 14-9): those that are enabled and were never trained. -/
def State.trainPorts (s : State) : State :=
  (List.range 32).foldl (fun s p => if s.portState p = 0 && !(s.port p).trained then s.startTraining p else s) s

/-- FIRMWARE_VERIFY_DONE (R361). -/
def execFirmwareVerifyDone (s : State) : Host.Outcome State Fault Refusal :=
  done (
    if s.dark || s.phase != 3 then s
    else
      let n := s.fld F.HIF_BOOT_CTL.LENGTH
      let b := s.bootImage n
      let st := s.fwCheck b n
      if st = ST.OK then (s.fwPass b).trainPorts else s.fwFail st)

/-- A DIMM that Table 07-6 lists, and the highest of its type's rates that passed (R174, R175). -/
def dimmListed (type ranks width capacity : Nat) : Bool :=
  (if type = 1 then [1, 2, 4].contains ranks else type == 2 && [2, 4].contains ranks)
    && (width == 4 || width == 8) && decide (16 ≤ capacity ∧ capacity ≤ 256)
def dimmRate (type : Nat) (passed : List Half) : Option Nat :=
  (if type = 1 then [6400, 5600, 4800] else [8800, 8000]).find? fun r => passed.contains (BitVec.ofNat 16 r)

/-- TIER_INFO of an absent unit by the reason, and of one that trained (Table 07-18). -/
def tierAbsent (fail : Nat) : Nat := fail * 2 ^ 18
def tierPresent (type rate width capacity : Nat) : Nat :=
  2 ^ 63 + type * 2 ^ 60 + rate * 2 ^ 40 + width * 2 ^ 35 + capacity * 2 ^ 22

/-- The unit of a finding, and TIER_INFO as its training leaves it, INIT_DONE apart (R174 to R177). -/
def tierUnit : TierFound → Nat
  | .empty u | .dimm u _ _ _ _ _ | .device u _ _ _ => u.toNat
def tierWord : TierFound → Nat
  | .empty _ => 0
  | .dimm _ type ranks width capacity passed =>
    if !dimmListed type.toNat ranks width capacity.toNat then tierAbsent 2
    else match dimmRate type.toNat passed with
      | none => tierAbsent 1
      | some r => tierPresent type.toNat r 0 capacity.toNat
  | .device _ kind link capacity =>
    if kind = 1 then tierAbsent 2
    else if kind = 2 then tierAbsent 3
    else if kind = 3 then tierAbsent 4
    else match link with
      | none => tierAbsent 1
      | some l => tierPresent 3 l.1.toNat l.2.toNat (Nat.min 4096 capacity.toNat)

/-- One tier unit's training (R174 to R179). A cold boot's units zero from now on. After a package reset a far-tier port whose link stayed up
keeps its window, and nothing is zeroed. -/
def tierTrained (s : State) (t : TierFound) : State :=
  let u := tierUnit t
  let kept := !s.host.cold && 8 ≤ u && s.flag F.TIER_INFO.PRESENT u
  if 9 < u || kept then s
  else
    let w := BitVec.ofNat 64 (tierWord t)
    let present := wordGet w 63 63 == 1
    -- DIMMs keep their contents, and a unit whose zeroing a reset cut short stays unpopulated (R175, R179)
    let init := !s.host.cold && present && (s.flag F.TIER_INFO.INIT_DONE u || !s.flag F.TIER_INFO.PRESENT u)
    let s := s.setReg R.TIER_INFO u (wordPut w 62 62 (b2n init))
    if s.host.cold && present then { s with zeroing := s.zeroing ++ [(u, s.pwr.ticks)] } else s

/-- BOOT_READY (R344): training ends. READY_TICK, the tiers, Memory_Active with every granule in device bias (R327), the root
ports' resets released (R407); every cluster counts as idle from now (R376). -/
def execBootReady (tiers : List TierFound) (s : State) : Host.Outcome State Fault Refusal :=
  done (
    -- error records are forwarded before anything else (Table 16-6)
    if s.dark || s.phase != 4 || s.mgt.hung || !s.forward.isEmpty then s
    else
      let s := tiers.foldl tierTrained s
      let s := if s.host.memActive then s else s.onHost fun h => { h with memActive := true, hostBias := [], cxl := { h.cxl with memInfo := true } }
      let s := s.onHost fun h => { h with cold := false, ft0 := true, ft1 := true }
      let s := s.setPage MBP.READY_TICK (leBytes 8 s.now)
      let s := { s with pwr := { s.pwr with busyAt := (List.range 32).map fun c => (c, s.pwr.ticks) } }
      s.setPhase 5)

end Sys2Proof.Machine
end

