-- ==== Sys2Proof/Machine/Security.lean ====
section
/-! DEFINITION. The security block: fuse commands (R357 to R359), DOE and the CDAT (R330), attestation (R362 to R367). -/

namespace Sys2Proof.Machine

def State.onSec (s : State) (f : Sec → Sec) : State := { s with sec := f s.sec }

/-! ### Fuses -/

/-- PROGRAMMED of SEC_STATUS (Table 15-8). -/
def programmedMask : Nat := ((List.range 4).filter programmed).foldl (fun m i => m + 2 ^ i) 0

/-- R359: whether a written command is refused. -/
def State.fuseRefused (s : State) (src : Source) (go : Bool) (op arg : Nat) : Bool :=
  let left := (List.range 4).filter fun i => programmed i && !s.revoked i && i != arg
  (src != .host && src != .mgmt) || s.sec.fuse.isSome
    || (go && (match op with
      | 1 => 4 ≤ arg || (!s.revoked arg && left.isEmpty)
      | 2 => arg ≤ s.sec.svn || !s.flag F.SEC_STATUS.RUN_VALID || s.fld F.SEC_STATUS.SVN_IMAGE < arg
      | _ => true))

/-- A command that passed: a slot already revoked completes at once, the others program (R358, R359). -/
def State.fuseGo (s : State) (op arg : Nat) : State :=
  let s := (s.setFld F.SEC_FUSE_STATE.LAST_OP op).setFld F.SEC_FUSE_STATE.INTERRUPTED 0
  if op = 1 && s.revoked arg then s
  else
    let s := s.onSec fun f => { f with fuse := some (op, arg), fuseAt := s.pwr.ticks }
    s.setFld F.SEC_FUSE_STATE.STEPS_LEFT (if op = 1 then 1 else arg - s.sec.svn)

/-- The fuses after n logical bits of a command are blown. -/
def Sec.blow (f : Sec) (op arg n : Nat) : Sec :=
  if n = 0 then f
  else if op = 1 then { f with revoked := f.revoked.lor (2 ^ arg) }
  else { f with svn := f.svn + n }

/-- FUSE_PROGRAM_DONE (R358). -/
def execFuseProgramDone (s : State) : Host.Outcome State Fault Refusal :=
  done (
    match s.sec.fuse with
    | none => s
    | some (op, arg) =>
      (s.onSec fun f => { f.blow op arg (if op = 1 then 1 else arg - f.svn) with fuse := none }).setFld
        F.SEC_FUSE_STATE.STEPS_LEFT 0)

/-- Ticks that programming one logical bit takes: at most 1,000,000 (R358). -/
def fuseTime (op arg svn : Nat) : Nat := 1 + Config.fuseTicks op arg svn % 1000000

/-- While a command with several bits runs, they are blown one after another (R359); FUSE_PROGRAM_DONE ends it. -/
def State.fuseStep (s : State) : State :=
  match s.sec.fuse with
  | none => s
  | some (op, arg) =>
    if op = 2 && s.sec.svn + 1 < arg && s.sec.fuseAt + fuseTime op arg s.sec.svn ≤ s.pwr.ticks then
      let s := s.onSec fun f => { f.blow op arg 1 with fuseAt := s.pwr.ticks }
      s.setFld F.SEC_FUSE_STATE.STEPS_LEFT (arg - s.sec.svn)
    else s

/-- A reset during programming stops it after the physical fuse in progress: its logical bit counts as blown (R358, R359). -/
def State.fuseStopped (s : State) : State :=
  match s.sec.fuse with
  | none => s
  | some (op, arg) =>
    let s := s.onSec fun f => { f.blow op arg 1 with fuse := none }
    s.setReg R.SEC_FUSE_STATE 0 (wordPut 0 F.SEC_FUSE_STATE.INTERRUPTED.hi F.SEC_FUSE_STATE.INTERRUPTED.lo 1)

/-- SEC_STATUS with the fuses' fields (Table 15-8); the debug lock of a shipped part reads 1. -/
def State.secStatus (s : State) : Word64 :=
  let w := s.reg R.SEC_STATUS
  let put (w : Word64) (f : Fld) (v : Nat) : Word64 := wordPut w f.hi f.lo v
  put (put (put (put (put w F.SEC_STATUS.DEBUG_LOCKED 1) F.SEC_STATUS.FUSE_BUSY (b2n s.sec.fuse.isSome))
    F.SEC_STATUS.PROGRAMMED programmedMask) F.SEC_STATUS.REVOKED s.sec.revoked) F.SEC_STATUS.SVN_FUSED s.sec.svn

/-! ### DOE -/

/-- A data object: the two header dwords of the PCIe specification and a payload of whole dwords. -/
def doeObject (vendor type : Nat) (payload : List Byte) : List Byte :=
  leBytes 2 vendor ++ [BitVec.ofNat 8 type, 0] ++ leBytes 4 (2 + (payload.length + 3) / 4) ++ payload

/-- An instance's Error status (R330): it takes no request until an Abort clears it (PRESUMED, log entry 34). -/
def State.doeFault (s : State) (inst : Nat) : State := s.onSec fun f => { f with doeError := setInsert inst f.doeError }
def State.doeFaulty (s : State) (inst : Nat) : Bool := s.sec.doeError.contains inst

/-- DOE Busy of an instance (R330): instance 1 while a response is being signed. -/
def State.doeBusy (s : State) (inst : Nat) : Bool := inst == 1 && s.sec.signing.isSome

/-- A request that an instance takes: one at a time, of up to 16 KiB; sent to a busy instance, or longer, it sets Error (R330, PRESUMED,
log entry 34). -/
def State.doeTake (s : State) (inst bytes : Nat) (act : State → State) : State :=
  if s.doeFaulty inst then s
  else if s.doeBusy inst || 16384 < bytes then s.doeFault inst
  else act s

/-- DOE is served once the upstream link serves configuration requests: from WAIT_IMAGE, and in STOPPED (R345). -/
def State.doeServed (s : State) : Bool := !s.dark && 2 ≤ s.phase && s.fld F.HIF_LINK.WIDTH != 0

/-- DOE_DISCOVERY (R330): the protocol at an index and the next index, in the layout of the PCIe specification (PRESUMED, log entry
34). -/
def execDoeDiscovery (inst : BitVec 1) (index : Byte) (s : State) : Host.Outcome State Fault Refusal :=
  done (
    if !s.doeServed then s
    else s.doeTake inst.toNat 12 fun s =>
      let entry (v t next : Nat) : List Byte := leBytes 2 v ++ [BitVec.ofNat 8 t, BitVec.ofNat 8 next]
      let p := if index.toNat = 0 then entry 0x0001 0 1
        else if index.toNat = 1 then (if inst = 0 then entry 0x1E98 2 0 else entry Config.vendorId.toNat 1 0)
        else entry 0xFFFF 0 0
      s.emit (.doe inst.toNat (doeObject 0x0001 0 p)))

/-- The CDAT's entries (R330): one DSMAS and four DSLBIS, laid out as the CDAT specification does (PRESUMED, log entry 34). -/
def cdatDsmas : List Byte := [0, 0] ++ leBytes 2 24 ++ [1, 0, 0, 0] ++ leBytes 8 0 ++ leBytes 8 0x18000000000
def cdatDslbis (type unit value : Nat) : List Byte :=
  [1, 0] ++ leBytes 2 24 ++ [1, 0, BitVec.ofNat 8 type, 0] ++ leBytes 8 unit ++ leBytes 2 value ++ List.replicate 6 0
def cdatEntries : List (List Byte) :=
  [cdatDsmas, cdatDslbis 1 1000 300, cdatDslbis 2 1000 300, cdatDslbis 4 1000 64, cdatDslbis 5 1000 64]
def cdatHeader : List Byte :=
  let body := cdatEntries.flatten
  let raw (sum : Byte) : List Byte := leBytes 4 (16 + body.length) ++ [1, sum] ++ List.replicate 10 0
  let total := ((raw 0 ++ body).map (·.toNat)).sum
  raw (BitVec.ofNat 8 (256 - total % 256))

/-- CDAT_TABLE_ACCESS (R330): the entry of a handle, the header being entry 0; Error for no such handle. -/
def execCdatTableAccess (handle : Half) (s : State) : Host.Outcome State Fault Refusal :=
  done (
    if !s.doeServed then s
    else s.doeTake 0 12 fun s =>
      let all := cdatHeader :: cdatEntries
      match all[handle.toNat]? with
      | none => s.doeFault 0
      | some e =>
        let next := if handle.toNat + 1 < all.length then handle.toNat + 1 else 0xFFFF
        s.emit (.doe 0 (doeObject 0x1E98 2 ([0, 0] ++ leBytes 2 next ++ e))))

/-- DOE_ABORT (R330): the request in progress is dropped, Error is cleared. -/
def execDoeAbort (inst : BitVec 1) (s : State) : Host.Outcome State Fault Refusal :=
  done (s.onSec fun f => { f with
    signing := if inst = 1 then none else f.signing, doeError := f.doeError.filter (· != inst.toNat) })

/-! ### Attestation -/

/-- An attestation response leaves instance 1. -/
def State.attest (s : State) (payload : List Byte) : State :=
  s.emit (.doe 1 (doeObject Config.vendorId.toNat 1 payload))

/-- The first 8 bytes of a response (Table 15-6). -/
def attHead (req : List Byte) (st : Half) : List Byte := [1] ++ slice req 1 1 ++ leBytes 2 st.toNat ++ slice req 4 4

/-- R366: VERSION, length and reserved bytes of a request of one OP. -/
def attOk (op : Nat) (p : List Byte) : Bool :=
  fieldAt p 0 1 == 1 && fieldAt p 1 1 == op && zeroAt p 2 2
    && (match op with
      | 1 => p.length == 8
      | 2 => p.length == 80 && zeroAt p 74 6
      | _ => p.length == 80 && zeroAt p 9 7)

/-- One request of a row's OP: one at a time, and a request of another known OP is another row's (PRESUMED, log entry 34). -/
def State.onAttest (s : State) (op : Nat) (p : List Byte) (act : State → State) : State :=
  let got := fieldAt p 1 1
  if !s.doeServed || (got != op && 1 ≤ got && got ≤ 3) then s
  else s.doeTake 1 (8 + p.length) fun s => if attOk op p then act s else s.attest (attHead p ST.RANGE)

/-- The certificate that is served: only while CERT is 1 (R363, R366). -/
def State.served (s : State) : List Byte :=
  if s.fld F.SEC_STATUS.CERT = 1 then s.cfg.cert.getD [] else []

/-- GET_CERT (R366). -/
def execGetCert (payload : List Byte) (s : State) : Host.Outcome State Fault Refusal :=
  done (s.onAttest 1 payload fun s =>
    s.attest (attHead payload ST.OK ++ leBytes 4 s.served.length ++ List.replicate 4 0 ++ s.served))

/-- Bytes 0 to 159 + 72N of a quote's payload (Table 15-7). -/
def State.quoteBody (s : State) (req : List Byte) : List Byte :=
  let mask := fieldAt req 72 2
  let status := s.secStatus
  let slot := if s.flag F.SEC_STATUS.RUN_VALID then s.fld F.SEC_STATUS.RUN_SLOT else 0xFF
  attHead req ST.OK ++ leBytes 8 s.now ++ leBytes 2 s.self ++ leBytes 2 mask
    ++ [BitVec.ofNat 8 s.sec.svn, BitVec.ofNat 8 slot, BitVec.ofNat 8 s.sec.revoked, BitVec.ofNat 8 (wordGet status 63 62)]
    ++ leBytes 8 (s.reg R.HIF_BOOT_STATUS).toNat ++ slice req 8 64
    ++ (if s.served.isEmpty then List.replicate 64 0 else sha3 s.served)
    ++ ((List.range 16).filter (bitOf mask)).flatMap fun i => (s.mr i).value ++ leBytes 8 (s.mr i).count

/-- QUOTE (R365, R366): the snapshot is taken and signing starts. -/
def execQuote (payload : List Byte) (s : State) : Host.Outcome State Fault Refusal :=
  done (s.onAttest 2 payload fun s =>
    if fieldAt payload 72 2 = 0 then s.attest (attHead payload ST.RANGE)
    else s.onSec fun f => { f with signing := some (s.quoteBody payload) })

/-- 32 bytes of randomness for one signature. -/
def State.random (s : State) : List Byte × State :=
  (List.range 4).foldl (fun (r : List Byte × State) _ =>
    let (w, s) := r.2.free
    (r.1 ++ leBytes 8 w.toNat, s)) ([], s)

/-- QUOTE_SIGNED (R366): the response with its signature under the context "EOLATTEST1", or with ST_ABORTED and zeros. -/
def execQuoteSigned (ok : Bool) (s : State) : Host.Outcome State Fault Refusal :=
  done (
    match s.sec.signing with
    | none => s
    | some p =>
      let s := s.onSec fun f => { f with signing := none }
      if ok then
        let (rnd, s) := s.random
        let context : List Byte := [0x45, 0x4F, 0x4C, 0x41, 0x54, 0x54, 0x45, 0x53, 0x54, 0x31]
        s.attest (p ++ slice (Config.mlDsaSign idSeed ([0, 10] ++ context ++ p) rnd) 0 4627 ++ [0])
      else s.attest (splice p 2 (leBytes 2 ST.ABORTED.toNat) ++ List.replicate 4628 0))

/-- EXTEND (R367). -/
def execExtend (payload : List Byte) (s : State) : Host.Outcome State Fault Refusal :=
  done (s.onAttest 3 payload fun s =>
    let i := fieldAt payload 8 1
    if 12 ≤ i && i ≤ 15 then
      let s := s.extendMr i (slice payload 16 64)
      s.attest (attHead payload ST.OK ++ leBytes 8 (s.mr i).count)
    else s.attest (attHead payload ST.RANGE))

end Sys2Proof.Machine
end

