-- ==== Sys2Proof/Machine/Reset.lean ====
section
/-! DEFINITION. Reset domains (R313 to R319, Table 13-7), and the errors that fence stacks and the package (R300), POISON
received (R305, R239). -/

namespace Sys2Proof.Machine

/-! ### Scopes -/

/-- A thread state lies in a domain's scope (Table 13-6). -/
def inScope (d t k : Nat) : Bool :=
  match d with
  | 0 => k == t
  | 1 => !isPx k && coreOf k == t
  | 2 => !isPx k && clusterOfHart k == t
  | 3 => !isPx k
  | _ => true

/-- A unit lies in a domain's scope. -/
def unitInScope (d t : Nat) : UnitEvent → Bool
  | .engine e _ _ => (d == 1 && e / 4 == t) || (d == 2 && e / 32 == t) || 3 ≤ d
  | .lane _ u _ _ | .heat u | .relay u => (d == 2 && u == t) || 3 ≤ d
  | .puu _ _ _ | .puuEnd _ _ _ | .dig _ | .transfer _ => 3 ≤ d
  | .mgmt => 4 ≤ d
  | .hostRead _ _ => false

/-- Whether a held access belongs to an agent that the domain resets; with a package reset every post and launch record on
its way goes too. -/
def HeldOp.ofScope (d t : Nat) : HeldOp → Bool
  | .core h | .self h _ _ _ _ | .selfHand h _ _ _ | .getData h _ _ _ => inScope d t (hartKey h)
  | .unit u => unitInScope d t u
  | .post _ _ _ | .launch _ _ _ => 4 ≤ d
  | _ => false

/-- TARGET as Table 13-19 allows it. -/
def resetTargetOk (d t : Nat) : Bool :=
  match d with
  | 0 => t < 2 ^ 15
  | 1 => t < 256
  | 2 => t < 32
  | 3 | 4 | 5 => t == 0
  | _ => false

/-! ### Clearing (Table 13-7) -/

/-- The contexts of a scope are EMPTY, and what they and their units had waiting is gone. Operation numbers go on (R207). -/
def State.clearHarts (s : State) (d t : Nat) : State :=
  let ks := (s.harts.map (·.1)).filter (inScope d t)
  let s := ks.foldl (fun (s : State) k => (s.abortCtx k).setCtx k { Ctx.empty with nextOp := (s.ctx k).nextOp }) s
  { s with
    heldWrites := s.heldWrites.filter fun h => !h.op.ofScope d t,
    changes := s.changes.map fun c => match c.told with
      | .self h _ => if inScope d t (hartKey h) then { c with told := .nobody } else c
      | _ => c }

/-- Engines whose number passes a test hold nothing; their fences are lifted. -/
def State.clearEngines (s : State) (p : Nat → Bool) : State :=
  { s with engines := s.engines.filter fun e => !p e.1 }

/-- Core reset. -/
def State.clearCore (s : State) (g : Nat) : State :=
  ((s.clearEngines fun e => e / 4 == g).clearHarts 1 g).zeroMem (lsramBase g) 0x100000

/-- Transfers of the cluster-side units that pass a test are gone without their completion words. -/
def State.clearXfers (s : State) (p : Nat → Bool) : State :=
  let ids := (s.xfers.filter fun e => p e.2.unit).map (·.1)
  let s := ids.foldl State.removeXfer s
  { s with tiles := s.tiles.filter fun t => !p t.unit, fencedCols := s.fencedCols.filter fun u => !p u }

/-- Regions from one number on are LOCAL again. -/
def State.localRegions (s : State) (first n : Nat) : State :=
  { s with regions := mapErase first n s.regions }.dropChanges fun r => first ≤ r && r < first + n

/-- Cluster reset. -/
def State.clearCluster (s : State) (c : Nat) : State :=
  let s := { s.clearEngines (fun e => e / 32 == c) with dsus := s.dsus.filter fun e => e.1 != c }
  let s := (s.clearHarts 2 c).clearXfers fun u => u == c
  let s := (s.zeroMem (lsramBase (8 * c)) 0x800000).zeroMem (csramBase c) 0x2000000
  s.localRegions (regionOf (csramBase c)) 16

/-- An update unit keeps its journal and a pending commit (R156, R312). -/
def Puu.cleared (u : Puu) : Puu := { Puu.empty with journal := u.journal, commit := u.commit }

/-- Compute reset: both AX dies and the units at the stacks. -/
def State.clearCompute (s : State) : State :=
  let s := { s.clearEngines (fun _ => true) with
    dsus := [], digs := [],
    puus := s.puus.foldl (fun (m : List (Nat × Puu)) (e : Nat × Puu) => mapSet puuDefault e.1 (Puu.cleared e.2) m) [] }
  let s := ((s.clearHarts 3 0).clearXfers fun _ => true).splReset
  let s := (s.zeroMem (lsramBase 0) 0x10000000).zeroMem (csramBase 0) 0x40000000
  let s := (s.localRegions 0 stackGranules).localRegions (regionOf (csramBase 0)) 512
  { s with fencedStacks := [], blocks := [] }

/-- A register word after a package reset: fields not marked kept are at their reset values (R315). A routing entry of either
layout is kept (R232), the pins' levels are live, and a tier unit's window goes through the reset (R175, R178). -/
def keptWord (key : Nat) (w : Word64) : Word64 :=
  let off := key % 0x4000000
  if off = R.LNK_ROUTE_ENTRY || off = R.MGT_PINS || off = R.TIER_INFO then w
  else match regDesc off with
    | none => w
    | some d => d.fields.foldl (fun (a : Word64) f => if f.kept then wordPut a f.hi f.lo (wordGet w f.hi f.lo) else a) d.reset

/-- Register words after a package reset. -/
def keptWords (m : List (Nat × Word64)) : List (Nat × Word64) :=
  m.foldl (fun (r : List (Nat × Word64)) (e : Nat × Word64) => mapSet regReset e.1 (keptWord e.1 e.2) r) []

/-- What of the power state a package reset keeps: the always-on domain's. -/
def Pwr.kept (p : Pwr) : Pwr :=
  { Pwr.empty with
    ticks := p.ticks, lowSince := p.lowSince, highSince := p.highSince, goodSince := p.goodSince, policy := p.policy,
    stopping := p.stopping, off := p.off, needGood := p.needGood, alive := p.alive }

/-- What of the host interface a package reset keeps: the upstream link's state and configuration space (Table 13-7). A root
port whose link is up keeps its reset released (R407). -/
def State.hostKept (s : State) : HostIf :=
  { HostIf.empty with
    hdm := s.host.hdm, hdmError := s.host.hdmError, memActive := s.host.memActive, hostBias := s.host.hostBias,
    cold := s.host.cold, devCtl2 := s.host.devCtl2, cxl := s.host.cxl,
    ft0 := s.host.ft0 && s.flag F.TIER_INFO.PRESENT 8, ft1 := s.host.ft1 && s.flag F.TIER_INFO.PRESENT 9 }

/-- Package reset: everything but FX. -/
def State.clearPackage (s : State) : State :=
  let stopped := s.phase == 6
  let s := s.clearCompute.clearHarts 4 0
  let s := s.unloadImage.dropChanges fun _ => true
  let s := { s with
    regs := (keptWords s.regs), staged := keptWords s.staged, zeroing := [],
    puus := s.puus.foldl (fun (m : List (Nat × Puu)) (e : Nat × Puu) => mapSet puuDefault e.1 { e.2 with commit := none } m) [],
    cores := s.cores.map fun (e : Nat × CoreRec) => (e.1, { e.2 with instret := 0 }),
    regions := [], clearing := none, bootMem := [], digBytes := 0, fencedSplit := false,
    pendingLaunch := none, running := none, unloadDue := false, mrs := [], pwr := s.pwr.kept, mgt := Mgt.empty,
    host := s.hostKept, sec := { s.sec with signing := none, doeError := [] } }.setFld F.ERR_STATUS.PACKAGE_FENCED 0
  -- a package stopped for want of reserves stays stopped (R23, R345)
  let s := if stopped then (s.setFld F.HIF_BOOT_STATUS.PHASE 6).setFld F.HIF_BOOT_STATUS.STATUS ST.RESERVE_EXHAUSTED.toNat else s
  s.fuseStopped

/-- Sampled straps as MGT_PINS shows them (R399). -/
def State.setStraps (s : State) (pos : BitVec 2) (testen disagree : Bool) : State :=
  ((s.setFld F.MGT_PINS.POS pos.toNat).setFld F.MGT_PINS.TESTEN (b2n testen)).setFld F.MGT_PINS.STRAP_DISAGREE (b2n disagree)

/-- What the position strap sets at a cold reset: TIM_CFG (R266), LNK_ID.POSITION and the node table; the group table is that of node 0, which
LNK_ID names then (R211, R232). -/
def State.takeStraps (s : State) : State :=
  let p := s.fld F.MGT_PINS.POS
  let cfg : Word64 := if p = 0 then 0xA0 else BitVec.ofNat 64 (12 - 4 * p)
  let s := (s.setReg R.TIM_CFG 0 cfg).setFld F.LNK_ID.POSITION p
  let s := { s with sync := { Sync.empty with cfg := cfg } }.wireNode
  (List.range 16).foldl (fun s m => s.setReg R.LNK_ROUTE_ENTRY (256 + m) (groupWord 0 m)) s

/-- Registers that stay while the always-on domain has power: the pins, their counters and the power fault (R371). -/
def State.alwaysOn (s : State) : List (Nat × Word64) :=
  let keep (r : Nat) (m : List (Nat × Word64)) : List (Nat × Word64) := mapSet regReset r (s.reg r) m
  let faults : Word64 := wordPut 0 F.PWR_STATS.FAULTS.hi F.PWR_STATS.FAULTS.lo (s.fld F.PWR_STATS.FAULTS)
  keep R.MGT_PINS (keep R.MGT_PIN_STATS (keep R.PWR_FAULT (mapSet regReset R.PWR_STATS faults [])))

/-- Cold reset: everything but the always-on domain, the fuses and what lies outside the package. -/
def State.coldState (s : State) : State :=
  ({ State.reset with
    pending := s.pending, fresh := s.fresh, outbox := s.outbox, hostMem := s.hostMem, regs := s.alwaysOn,
    pwr := { s.pwr.kept with policy := 0 }, i3c := s.i3c, sec := { s.sec with signing := none, doeError := [] },
    resetting := some (5, 0) } : State).takeStraps.fuseStopped

/-- What a domain clears. -/
def State.clearDomain (s : State) (d t : Nat) : State :=
  match d with
  | 0 => s
  | 1 => s.clearCore t
  | 2 => s.clearCluster t
  | 3 => s.clearCompute
  | 4 => s.clearPackage
  | _ => s.coldState

/-! ### Requests and ends -/

/-- R317: the error a reset raises before it clears anything: for a context abort the context's own, for the others one of
class JOB when they end a context of a running launch, naming the lowest. -/
def State.resetError (s : State) (d t : Nat) : State :=
  let live := s.busyHarts.filter fun k => inScope d t k && (s.ctx k).st != .aborted
  match live with
  | [] => s
  | k :: _ =>
    let i : ErrInfo := { cause := .resetReq, cls := if d = 0 then 1 else 2, hart := some k, status := ST.ABORTED }
    if d = 0 || s.launchOn then s.raise i else s

/-- A reset starts and absorbs a smaller one (R319). -/
def State.startReset (s : State) (d t : Nat) : State :=
  let s := (s.resetError d t).clearDomain d t
  if d = 5 then s
  else ({ s with resetting := some (d, t) } : State).setReg R.ERR_RESET_STATE 0 (BitVec.ofNat 64 (d * 2 ^ 60 + t * 2 ^ 45))

/-- A core context or an application core. -/
def fromHart : Source → Bool
  | .hart _ => true
  | _ => false

/-- ERR_RESET written (R319). -/
def State.errReset (s : State) (src : Source) (value : Word64) : State :=
  let d := wordGet value 18 16
  let t := wordGet value 14 0
  if s.dark then s
  else if !resetTargetOk d t then s.refuse src 0 R.ERR_RESET value
  else if (3 ≤ d && fromHart src) || (s.resetting.any fun r => d ≤ r.1) then s.refuse src 6 R.ERR_RESET value
  else s.startReset d t

/-- Accesses that waited for their memory go on in order of arrival (R166, R169, R316); a post is written again. -/
def State.releaseReset (s : State) (post : State → Nat → Source → Word64 → State) : State :=
  let mine := s.heldWrites.filter fun h => h.granule == resetHold
  let s := { s with heldWrites := s.heldWrites.filter fun h => h.granule != resetHold }
  (mine.foldl (fun (s : State) h => match h.op with
    | .post off src v => post s off src v
    | op => s.release1 op) s).splNext

/-- A domain ends (R318): an aborted context is EMPTY, what waited goes on, a poisoned job's image unloads (R306). -/
def State.resetEnds (s : State) (post : State → Nat → Source → Word64 → State) : State :=
  match s.resetting with
  | none => s
  | some (d, t) =>
    let s := { s with resetting := none }
    let s := if d = 0 && !isPx t && (s.ctx t).st = .aborted then s.onCtx t Ctx.left else s
    (s.releaseReset post).unloadIfDue

/-- A package reset ends: boot enters WAIT_IMAGE (R347), or stays stopped (R345). -/
def State.packageEnds (s : State) : State :=
  match s.resetting with
  | some (4, _) =>
    let s := s.resetEnds fun s _ _ _ => s
    if s.phase = 6 then s else s.setPhase 2
  | _ => s

/-- R408, R402, R371: whether the conditions of tick 0 hold. -/
def State.coldReady (s : State) : Bool :=
  s.flag F.MGT_PINS.PWR_GOOD && s.flag F.MGT_PINS.COLD_RST_N && s.flag F.MGT_PINS.REF_OK && s.pwr.alive && !s.pwr.needGood
    && s.pwr.stopping.isNone
    && (s.pwr.goodSince.any fun t => t + 10000000 ≤ s.pwr.ticks)

/-- Tick 0 of Table 14-9: the counter reads 0, the straps are read and boot starts in CONFIG. -/
def State.coldEnds (s : State) : State :=
  if s.resetting.any (fun r => r.1 == 5) && s.coldReady then
    let s := s.takeStraps
    { s with now := 0, resetting := none, pwr := { s.pwr with off := false }, i3c := { s.i3c with straps := true } }
  else s

/-! ### Errors that fence -/

/-- D2D_PATH_FAIL (R300, Table 13-2). -/
def execD2dPathFail (s : State) : Host.Outcome State Fault Refusal :=
  done (if s.dark then s else s.raise (ErrInfo.of .d2dFail))

/-- MEM_CONTROLLER_FAIL (R300): the stack and its update and digest units are fenced, their running commands end with
ST_ABORTED. -/
def execMemControllerFail (stack : BitVec 4) (s : State) : Host.Outcome State Fault Refusal :=
  done (
    let k := stack.toNat
    if s.dark then s
    else
      let s := s.puuAborts k
      let s := match (s.dig k).queue with
        | c :: _ => s.digEnd k c ST.ABORTED
        | [] => s
      let s := { s with fencedStacks := setInsert k s.fencedStacks }
      s.raise { ErrInfo.of .memCtrlFail with core := 16 * k, status := ST.ABORTED })

/-- POISON (R305, R239): counted by origin, acted on once, forwarded once. -/
def execPoison (port : BitVec 5) (pkt : Packet) (s : State) : Host.Outcome State Fault Refusal :=
  done (s.onPacket PT.POISON port.toNat pkt fun s =>
    match s.activeEntry pkt.tag.toNat with
    | none => s
    | some e =>
      let out : Packet := { pkt with src := BitVec.ofNat 16 s.self, hops := 0 }
      let origin := fieldAt pkt.data 0 2
      if !s.flag F.LNK_TAG_ENTRY.LOCAL e then s.floodPoison e out (some port.toNat)
      else
        let s := if origin = s.self || s.origins.contains origin then s
          else ({ s with origins := setInsert origin s.origins } : State).count F.ERR_STATS.POISON_RECV
        if s.poisonMet || origin = s.self then s
        else
          let s := s.record { ErrInfo.of .poisonIn with ep := some origin } true
          let s := s.notePoison false (fieldAt pkt.data 2 1) origin (fieldAt pkt.data 8 8)
          (s.floodPoison e out (some port.toNat)).poisonAct)

end Sys2Proof.Machine
end

