-- ==== Sys2Proof/Machine/Mgmt.lean ====
section
/-! DEFINITION. The management processor (R382 to R385), the mailbox RESET (R334), input samples (R368 to R370), and the I3C
target's own commands (R386). -/

namespace Sys2Proof.Machine

/-! ### Views -/

/-- The mean of some numbers; the spec does not round it, so the last unit of an uneven mean is a free value. -/
def State.meanFree (s : State) (xs : List Nat) : Nat × State :=
  if xs.isEmpty then (0, s)
  else if xs.sum % xs.length = 0 then (xs.sum / xs.length, s)
  else
    let (w, s) := s.free
    (xs.sum / xs.length + wordGet w 0 0, s)

/-- LNK_LEVEL_UTIL (Table 09-24). -/
def State.levelUtil (s : State) : Word64 × State :=
  let up (lo n : Nat) : List Nat := ((List.range n).map (lo + ·)).filter s.isUp |>.map fun p => s.fld F.LNK_PORT_STATE.UTIL_TX p
  let (a, s') := s.meanFree (up 0 12)
  let (b, s') := s'.meanFree (up 12 15)
  let (c, s') := s'.meanFree (up 27 5)
  (wordPut (wordPut (wordPut (s.reg R.LNK_LEVEL_UTIL) 63 56 a) 55 48 b) 47 40 c, s')

/-- TEL_EFFECTIVE (R383): the period, doubled while BUSY. -/
def State.telPeriod (s : State) : Nat :=
  let p := s.fld F.MGT_TEL_CFG.PERIOD
  if s.flag F.MGT_UTIL.BUSY then Nat.min (2 ^ 40 - 1) (2 * p) else p

/-- MGT_UTIL as it reads (Table 16-20). -/
def State.mgtUtil (s : State) : Word64 :=
  wordPut (s.reg R.MGT_UTIL) F.MGT_UTIL.TEL_EFFECTIVE.hi F.MGT_UTIL.TEL_EFFECTIVE.lo s.telPeriod

/-- PWR_PAIR_STATE of a pair as it reads (Table 16-12). -/
def State.pairWord (s : State) (k : Nat) : Word64 :=
  wordPut (s.reg R.PWR_PAIR_STATE k) F.PWR_PAIR_STATE.FREQ_MHZ.hi F.PWR_PAIR_STATE.FREQ_MHZ.lo (s.pairFreq k)

/-! ### The management processor -/

/-- MGT_UTIL_WINDOW (R383). -/
def execMgtUtilWindow (percent : BitVec 7) (s : State) : Host.Outcome State Fault Refusal :=
  done (
    let u := Nat.min 100 percent.toNat
    if s.dark then s
    else
      let s := s.setFld F.MGT_UTIL.UTIL u
      if 80 < u then (s.setFld F.MGT_UTIL.BUSY 1).count F.MGT_UTIL.BUSY_WINDOWS
      else if u ≤ 60 then s.setFld F.MGT_UTIL.BUSY 0
      else s)

/-- The 256 bytes of snapshot n (Table 16-7). -/
def State.telRecord (s : State) (n : Nat) : List Byte × State :=
  let word (w : Word64) : List Byte := leBytes 8 w.toNat
  let stack (k : Nat) : List Byte :=
    leBytes 2 (s.fld F.MEM_STATE.TEMP k) ++ leBytes 1 (s.fld F.MEM_STATE.UTIL k) ++ leBytes 1 (s.fld F.MEM_STATE.THERM k)
  let (lvl, s') := s.levelUtil
  (leBytes 8 n ++ leBytes 8 s.now ++ word (s.reg R.PWR_INPUT) ++ word s.mgtUtil ++ (pairs.flatMap fun k => word (s.pairWord k))
    ++ ((List.range 16).flatMap stack) ++ word lvl ++ List.replicate 24 0, s')

/-- The snapshot taken last is written, bytes 0 to 63 last, once the processor has no duty before it (R384, Table 16-6). -/
def State.telFlush (s : State) : State :=
  match s.mgt.telDue with
  | none => s
  | some (a, r) =>
    if !s.mgmtFree || s.host.run.isSome then s
    else
      let s := { s with mgt := { s.mgt with telDue := none } }
      if s.extentIn (fun _ => true) a 256 then (s.put (a + 64) (r.drop 64)).put a (r.take 64) else s

/-- TELEMETRY_SNAPSHOT (R384): taken every TEL_EFFECTIVE ticks in hardware; one not yet written is dropped. -/
def execTelemetrySnapshot (s : State) : Host.Outcome State Fault Refusal :=
  done (
    if s.dark || !s.flag F.MGT_TEL_CFG.ENABLE || s.pwr.ticks < s.mgt.telAt + s.telPeriod then s
    else
      let n := s.mgt.telN
      let (r, s) := s.telRecord n
      let a := offOf ((s.reg R.MGT_TEL_BASE).toNat + 256 * (n % Nat.max 1 (s.fld F.MGT_TEL_CFG.ENTRIES)))
      ({ s with mgt := { s.mgt with telN := (n + 1) % 2 ^ 64, telAt := s.pwr.ticks, telDue := some (a, r) } } : State).telFlush)

/-- R384: a ring of some bytes lies in one stack, in the populated near tier or in the host window. -/
def State.telPlace (s : State) (a n : Nat) : Bool :=
  match place a, place (a + (n - 1)) with
  | .stack j _, .stack k _ => j == k
  | .near _ _, _ => s.extentIn (fun k => k == .near) a n
  | .hwin _, _ => s.extentIn (fun k => k == .hwin) a n
  | _, _ => false

/-- R384: a commit of the telemetry ring. -/
def State.telCommit (s : State) : State :=
  let b := s.stgOld R.MGT_TEL_BASE
  let n := wordGet (s.stgOld R.MGT_TEL_CFG) F.MGT_TEL_CFG.ENTRIES.hi F.MGT_TEL_CFG.ENTRIES.lo
  if b.toNat % 256 = 0 && s.isSelf b.toNat && s.telPlace (offOf b.toNat) (256 * n) then
    ((((s.hold R.MGT_TEL_BASE 0).hold R.MGT_TEL_CFG 0).setReg R.MGT_TEL_BASE 0 b).setFld F.MGT_TEL_CFG.ENTRIES n).setFld F.MGT_TEL_COMMIT.REFUSED 0
  else (s.setFld F.MGT_TEL_COMMIT.REFUSED 1).commitRefused

/-- MGT_WDOG.KICK written (R385). -/
def State.kicked (s : State) : State := { s with mgt := { s.mgt with kickAt := s.pwr.ticks } }

/-- The running LOAD, UNLOAD or RESET is answered with ST_ABORTED; LOADED reads 0 once a copy had begun (R385). -/
def State.runAborted (s : State) : State :=
  match s.host.run with
  | none => s
  | some r =>
    let s := s.onHost fun h => { h with replies := h.replies.filter fun x => !x.own }
    let s := if r.copied then s.unloadImage else s
    s.addReply (replyTo r.line ST.ABORTED true)

/-- WATCHDOG_EXPIRY (R385): PERIOD has passed without a kick; the record, the count, the domain restarts. -/
def execWatchdogExpiry (s : State) : Host.Outcome State Fault Refusal :=
  done (
    if !s.mgmtRuns || s.pwr.ticks < s.mgt.kickAt + s.fld F.MGT_WDOG.PERIOD then s
    else
      let s := s.raise (ErrInfo.of .mgtHang)
      let s := (s.count F.MGT_HANG.HANGS).setFld F.MGT_HANG.LAST_TICK (s.now % 2 ^ 48)
      ({ s.ibi 4 with mgt := { s.mgt with hung := true } } : State).runAborted)

/-- MGT_RESTART_DONE (R385): it runs again; records overwritten in the log meanwhile are counted in DROPS. -/
def execMgtRestartDone (s : State) : Host.Outcome State Fault Refusal :=
  done (
    if !s.mgt.hung then s
    else
      let next := s.fld F.ERR_LOG_HEAD.NEXT
      let lost (e : Nat × List Word64) : Bool := 64 < (next + 2 ^ 32 - e.1) % 2 ^ 32
      let n := (s.forward.filter lost).length
      let s := { s with forward := s.forward.filter fun e => !lost e, mgt := { s.mgt with hung := false, kickAt := s.pwr.ticks } }
      foldRange n (fun (s : State) _ => s.dropEvent) s)

/-- MBOX_RESET (R334): ARG0 goes to ERR_RESET with source host. A reset that takes PX leaves nobody to reply. -/
def execMboxReset (s : State) : Host.Outcome State Fault Refusal :=
  done (
    match s.running? 5 with
    | none => s
    | some l =>
      if !s.mgmtFree then s
      else
        let seq := s.fld F.ERR_LAST_REFUSED.SEQ
        let s := s.errReset .host (lineArg l)
        if s.resetting.any fun r => 4 ≤ r.1 then s
        else s.ends l { status := if s.fld F.ERR_LAST_REFUSED.SEQ = seq then ST.OK else ST.RANGE })

/-! ### Input power -/

/-- INPUT_SAMPLE (R368 to R370). -/
def execInputSample (vinMv iin iin200 : Half) (s : State) : Host.Outcome State Fault Refusal :=
  done (if s.pwr.alive then s.inputSample vinMv.toNat iin.toNat iin200.toNat else s)

/-- POWER_OFF_COMPLETE (R370, R405): 20,000 ticks after the shutdown began every rail but the always-on domain's is off. -/
def execPowerOffComplete (s : State) : Host.Outcome State Fault Refusal :=
  done (
    if s.pwr.stopping.all fun t => s.pwr.ticks < t + 20000 then s
    else
      let s := s.coldState
      ({ s with pwr := { s.pwr with stopping := none, off := true } } : State).emit .powerOff)

/-! ### I3C -/

def State.onI3c (s : State) (f : I3c → I3c) : State := { s with i3c := f s.i3c }

/-- The answer of an addressed target, or a NACK. -/
def State.i3cAnswer (s : State) (bytes : List Byte) : State :=
  if !s.pwr.alive then s
  else if s.i3c.dyn.isSome then s.emit (.i3c bytes) else s.emit .i3cNack

/-- PID as six bytes. -/
def i3cPid : List Byte := slice Config.i3cPid 0 6

/-- ENTDAA (R386): a target without a dynamic address sends its PID, BCR and DCR and takes the address. -/
def execEntdaa (addr : BitVec 7) (s : State) : Host.Outcome State Fault Refusal :=
  done (
    if !s.pwr.alive || s.i3c.dyn.isSome then s
    else (s.onI3c fun i => { i with dyn := some addr.toNat }).emit (.i3c (i3cPid ++ [Config.i3cBcr, Config.i3cDcr])))

/-- SETDASA (R386, Table 16-8): answered once the straps give the static address 0x30 + POSITION. -/
def execSetdasa (static addr : BitVec 7) (s : State) : Host.Outcome State Fault Refusal :=
  done (
    if !s.pwr.alive then s
    else if s.i3c.straps && s.i3c.dyn.isNone && static.toNat == 0x30 + s.fld F.MGT_PINS.POS then
      s.onI3c fun i => { i with dyn := some addr.toNat }
    else s.emit .i3cNack)

/-- SETNEWDA (R386). -/
def execSetnewda (addr : BitVec 7) (s : State) : Host.Outcome State Fault Refusal :=
  done (
    if !s.pwr.alive then s
    else if s.i3c.dyn.isSome then s.onI3c fun i => { i with dyn := some addr.toNat }
    else s.emit .i3cNack)

/-- RSTDAA (R386). -/
def execRstdaa (s : State) : Host.Outcome State Fault Refusal :=
  done (if s.pwr.alive then s.onI3c fun i => { i with dyn := none } else s)

/-- Bit 0 of the events byte of ENEC and DISEC: in-band interrupts (PRESUMED, log entry 26). -/
def eventsIbi (events : Byte) : Bool := bitOf events.toNat 0

/-- ENEC (R386). -/
def execEnec (events : Byte) (s : State) : Host.Outcome State Fault Refusal :=
  done (if s.pwr.alive && eventsIbi events then s.onI3c fun i => { i with ibiOn := true } else s)

/-- DISEC (R386). -/
def execDisec (events : Byte) (s : State) : Host.Outcome State Fault Refusal :=
  done (if s.pwr.alive && eventsIbi events then s.onI3c fun i => { i with ibiOn := false } else s)

/-- GETPID (R386). -/
def execGetpid (s : State) : Host.Outcome State Fault Refusal := done (s.i3cAnswer i3cPid)
/-- GETBCR (R386). -/
def execGetbcr (s : State) : Host.Outcome State Fault Refusal := done (s.i3cAnswer [Config.i3cBcr])
/-- GETDCR (R386). -/
def execGetdcr (s : State) : Host.Outcome State Fault Refusal := done (s.i3cAnswer [Config.i3cDcr])

/-- GETSTATUS (R386): the spec does not give the two bytes. -/
def execGetstatus (s : State) : Host.Outcome State Fault Refusal :=
  done (let (w, s) := s.free; s.i3cAnswer (leBytes 2 w.toNat))

/-- GETMWL (R386, Table 16-8): 16 bytes, the high byte first as the standard sends it. -/
def execGetmwl (s : State) : Host.Outcome State Fault Refusal := done (s.i3cAnswer [0, 16])
/-- GETMRL (R386, Table 16-8): 16 bytes, then the one data byte of an in-band interrupt. -/
def execGetmrl (s : State) : Host.Outcome State Fault Refusal := done (s.i3cAnswer [0, 16, 1])

end Sys2Proof.Machine
end

