-- ==== Sys2Proof/Machine/Pins.lean ====
section
/-! DEFINITION. Pins and the always-on domain (R371, R375, R396 to R409). -/

namespace Sys2Proof.Machine

/-- A filtered level as MGT_PINS shows it. -/
def State.setPin (s : State) (f : Fld) (high : Bool) : State := s.setFld f (b2n high)

/-- A level taken on a pin: nothing while the always-on domain is off, or when the pin has that level already. -/
def State.onPin (s : State) (f : Fld) (high : Bool) (act : State → State) : State :=
  if !s.pwr.alive || s.flag f == high then s else act (s.setPin f high)

/-- A request for a cold reset, as from the board controller (R404). -/
def State.requestCold (s : State) : State := s.errReset .bmc 0x50000

/-- A condition of tick 0 has come: the straps of the read that follows are kept, and boot starts when all hold (R408). -/
def State.coldCondition (s : State) (pos : BitVec 2) (testen disagree : Bool) : State :=
  if s.resetting.any fun d => d.1 == 5 then (s.setStraps pos testen disagree).coldEnds else s

/-- PWR_GOOD_RISE (R408). -/
def execPwrGoodRise (pos : BitVec 2) (testen disagree : Bool) (s : State) : Host.Outcome State Fault Refusal :=
  done (s.onPin F.MGT_PINS.PWR_GOOD true fun s => s.coldCondition pos testen disagree)

/-- PWR_GOOD_FALL (R405): a cold reset, then the rails go off along Table 16-2; the next rise counts as a new one (R371). -/
def execPwrGoodFall (s : State) : Host.Outcome State Fault Refusal :=
  done (s.onPin F.MGT_PINS.PWR_GOOD false fun s =>
    let s := s.requestCold
    { s with pwr := { s.pwr with
      needGood := false, stopping := if s.pwr.off then none else some (s.pwr.stopping.getD s.pwr.ticks) } })

/-- COLD_RST_N_ASSERT (R404). -/
def execColdRstNAssert (s : State) : Host.Outcome State Fault Refusal :=
  done (s.onPin F.MGT_PINS.COLD_RST_N false State.requestCold)

/-- COLD_RST_N_DEASSERT (R404). -/
def execColdRstNDeassert (pos : BitVec 2) (testen disagree : Bool) (s : State) : Host.Outcome State Fault Refusal :=
  done (s.onPin F.MGT_PINS.COLD_RST_N true fun s => s.coldCondition pos testen disagree)

/-- PKG_RST_N_ASSERT (R404): ignored during a cold reset. -/
def execPkgRstNAssert (s : State) : Host.Outcome State Fault Refusal :=
  done (s.onPin F.MGT_PINS.PKG_RST_N false fun s => s.errReset .bmc 0x40000)

/-- PKG_RST_N_DEASSERT (R404): a package reset held by the pin ends. -/
def execPkgRstNDeassert (s : State) : Host.Outcome State Fault Refusal :=
  done (s.onPin F.MGT_PINS.PKG_RST_N true State.packageEnds)

/-- The MSI-X table and pending bits as a fundamental reset leaves them (R325, R406). -/
def State.msixReset (s : State) : State :=
  (List.range 4).foldl (fun (s : State) v =>
    (s.setReg (R.MSIX_ADDR + 16 * v) 0 0).setReg (R.MSIX_DATA + 16 * v) 0 0x100000000) (s.setReg R.MSIX_PBA 0 0)

/-- PERST_N_ASSERT (R406): the upstream port alone loses its PCIe and CXL state. -/
def execPerstNAssert (s : State) : Host.Outcome State Fault Refusal :=
  done (s.onPin F.MGT_PINS.PERST_N false fun s =>
    if s.dark || s.fld F.HIF_LINK.WIDTH = 0 then s
    else
      let s := (s.setReg R.HIF_LINK 0 0).msixReset
      let s := s.onHost fun h => { h with
        hdm := none, hdmError := false, devCtl2 := 0, cxl := { CxlRegs.empty with memInfo := h.cxl.memInfo }, mboxHeld := none }
      { s.onSec fun f => { f with signing := none } with msixOn := false })

/-- PERST_N_DEASSERT (R406): the upstream link may train. -/
def execPerstNDeassert (s : State) : Host.Outcome State Fault Refusal := done (s.onPin F.MGT_PINS.PERST_N true id)

/-- REFCLK_LOSS (R402). -/
def execRefclkLoss (s : State) : Host.Outcome State Fault Refusal :=
  done (s.onPin F.MGT_PINS.REF_OK false fun s => (s.count F.MGT_PIN_STATS.REF_LOSSES).requestCold)

/-- REFCLK_RESTORED (R402): the reference has been present for 10,000,000 ticks. -/
def execRefclkRestored (pos : BitVec 2) (testen disagree : Bool) (s : State) : Host.Outcome State Fault Refusal :=
  done (s.onPin F.MGT_PINS.REF_OK true fun s => s.coldCondition pos testen disagree)

/-- The counter of a filtered input (Table 17-12). -/
def pinCounter : FilteredPin → Fld
  | .pwrGood => F.MGT_PIN_STATS.PWR_GOOD_GLITCHES
  | .coldRst => F.MGT_PIN_STATS.COLD_RST_GLITCHES
  | .pkgRst => F.MGT_PIN_STATS.PKG_RST_GLITCHES
  | .perst => F.MGT_PIN_STATS.PERST_GLITCHES
  | .syncIn => F.MGT_PIN_STATS.SYNC_SHORT

/-- PIN_PULSE_REJECTED (R396, R397). -/
def execPinPulseRejected (pin : FilteredPin) (s : State) : Host.Outcome State Fault Refusal :=
  done (if s.pwr.alive then s.count (pinCounter pin) else s)

/-- ALWAYS_ON_POWER_UP (R375, R386): the always-on domain and the I3C target run; the pins stand as their pulls leave them and
the reference is taken as present (DESIGN CHOICE, log entry 6). -/
def execAlwaysOnPowerUp (s : State) : Host.Outcome State Fault Refusal :=
  done (
    if s.pwr.alive then s
    else
      let s := { s with pwr := { s.pwr with alive := true }, i3c := { I3c.empty with straps := false } }
      ((s.setPin F.MGT_PINS.COLD_RST_N true).setPin F.MGT_PINS.PKG_RST_N true).setPin F.MGT_PINS.REF_OK true)

/-- ALWAYS_ON_POWER_LOSS (R371, R409): everything stops; the fuses and the commands that wait stay. -/
def execAlwaysOnPowerLoss (s : State) : Host.Outcome State Fault Refusal :=
  done (
    if !s.pwr.alive then s
    else
      let t := s.pwr.ticks
      let s := { s with regs := [] }.coldState
      { s with
        pwr := { Pwr.empty with ticks := t, goodSince := none, off := true, alive := false },
        i3c := { I3c.empty with straps := false } })

end Sys2Proof.Machine
end

