-- ==== Sys2Proof/Machine/RegAccess.lean ====
section
/-! DEFINITION. Register reads and writes as the space of Table 14-3 takes them (R9 to R12, R308 to R311, R316, R325, R348,
R411): selected units, read views, ranges, and what each written register does. -/

namespace Sys2Proof.Machine

/-! ### Descriptions and selected units -/

/-- LNK_ROUTE_ENTRY of the global table (Table 09-19). -/
def globalEntryDesc : RegDesc :=
  ⟨R.LNK_ROUTE_ENTRY, 0, [⟨63, 63, .rw, true⟩, ⟨57, 53, .rw, true⟩, ⟨47, 32, .rw, true⟩, ⟨31, 16, .rw, true⟩]⟩

/-- The register at an offset as it now stands there. -/
def State.descAt (s : State) (off : Nat) : Option RegDesc :=
  if off = R.LNK_ROUTE_ENTRY && s.selv F.LNK_ROUTE_SEL.TABLE = 2 then some globalEntryDesc else regDesc off

/-- The bits of a register whose fields have an access type. -/
def RegDesc.mask (d : RegDesc) (a : Acc) : Word64 :=
  d.fields.foldl (fun (m : Word64) f => if f.acc = a then m ||| wordMask f.hi f.lo else m) 0

/-- The bits of a register that hold a field. -/
def RegDesc.defined (d : RegDesc) : Word64 := d.fields.foldl (fun (m : Word64) f => m ||| wordMask f.hi f.lo) 0

/-- A WO field that an access covers only in part (R10). -/
def RegDesc.partWo (d : RegDesc) (mask : Word64) : Bool :=
  d.fields.any fun f => f.acc == .wo && (wordMask f.hi f.lo &&& mask) != 0 && (wordMask f.hi f.lo &&& mask) != wordMask f.hi f.lo

/-- The unit that a selecting view names, 0 for a register without one (R411). -/
def State.unitFor (s : State) (off : Nat) : Nat :=
  if off = R.CMP_CORE_STATS then s.selv F.CMP_CTX_SEL.CORE
  else if off = R.CMP_ENG_STATE || off = R.CMP_ENG_STATS || off = R.CMP_ENG_REC0 || off = R.CMP_ENG_REC1 then s.selv F.CMP_ENG_SEL.ENGINE
  else if off = R.DSU_STATE || off = R.DSU_STATS then s.selv F.DSU_SEL.UNIT
  else if R.PUU_PARK_BASE ≤ off && off ≤ R.PUU_STATS then s.selv F.PUU_SEL.UNIT
  else if R.MEM_STATE ≤ off && off ≤ R.MEM_ROW_LOG then s.selv F.MEM_SEL.STACK
  else if R.TIER_INFO ≤ off && off ≤ R.TIER_INIT then s.selv F.TIER_SEL.UNIT
  else if off = R.PX_CORE_STATE || off = R.PX_CORE_STATS then s.selv F.PX_CORE_SEL.CORE
  else if off = R.LNK_TAG_ENTRY || off = R.LNK_TAG_PORTS || off = R.LNK_TAG_TIME then s.selv F.LNK_TAG_SEL.ENTRY
  else if off = R.LNK_ROUTE_ENTRY then 256 * s.selv F.LNK_ROUTE_SEL.TABLE + s.selv F.LNK_ROUTE_SEL.INDEX
  else if off = R.LNK_PORT_CFG || off = R.LNK_PORT_STATE || off = R.LNK_PORT_STATS then s.selv F.LNK_PORT_SEL.PORT
  else if off = R.COL_UNIT_STATE || off = R.COL_UNIT_STATS then s.selv F.COL_SEL.UNIT
  else if R.COL_COMM_INFO ≤ off && off ≤ R.COL_LAGGARD then s.selv F.COL_SEL.COMM
  else if off = R.PWR_PAIR_STATE then s.selv F.PWR_PAIR_SEL.PAIR
  else 0

/-- Post registers (R308). -/
def isPost (off : Nat) : Bool :=
  (R.COL_POST ≤ off && off < R.COL_POST + 256) || (R.DIG_POST ≤ off && off < R.DIG_POST + 128)
    || off == R.SPL_POST || off == R.TIM_LAUNCH_POST

/-! ### Blocks in reset -/

/-- The block of a register (Table 14-3). -/
def regBlock (off : Nat) : Nat := off / 0x100000

/-- Selectors of the blocks that domains 1 to 3 hold (R316). -/
def isSelector (off : Nat) : Bool :=
  off == R.CMP_CTX_SEL || off == R.CMP_ENG_SEL || off == R.DSU_SEL || off == R.PUU_SEL || off == R.MEM_SEL || off == R.COL_SEL

/-- Views of one core's contexts and of one engine (Table 13-22). -/
def isCtxView (off : Nat) : Bool := off == R.CMP_CTX_INFO || off == R.CMP_CTX_THREAD || off == R.CMP_CORE_STATS
def isEngView (off : Nat) : Bool :=
  off == R.CMP_ENG_STATE || off == R.CMP_ENG_STATS || off == R.CMP_ENG_REC0 || off == R.CMP_ENG_REC1

/-- Whether a register lies inside the domain that runs (Table 13-22). -/
def State.regInReset (s : State) (off : Nat) : Bool :=
  match s.resetting with
  | none => false
  | some (1, g) => (isCtxView off && s.selv F.CMP_CTX_SEL.CORE == g) || (isEngView off && s.selv F.CMP_ENG_SEL.ENGINE / 4 == g)
  | some (2, c) =>
    (isCtxView off && s.selv F.CMP_CTX_SEL.CORE / 8 == c) || (isEngView off && s.selv F.CMP_ENG_SEL.ENGINE / 32 == c)
      || ((off == R.DSU_STATE || off == R.DSU_STATS) && s.selv F.DSU_SEL.UNIT == c)
      || ((off == R.COL_UNIT_STATE || off == R.COL_UNIT_STATS) && s.selv F.COL_SEL.UNIT == c)
      || off == R.COL_POST + 8 * c
  | some (3, _) => [5, 6, 7, 8, 14, 15].contains (regBlock off) && !isSelector off
  | some (4, _) => !(List.contains [4, 11, 12, 13] (regBlock off))
  | some (5, _) => true
  | some _ => false

/-- R316, R348: a register that reads zero and refuses writes. A launch record posted before READY goes to check 2 of Table
11-4 instead. -/
def State.regClosed (s : State) (off : Nat) : Bool :=
  s.regInReset off
    || (!s.bootReady && !(s.resetting.any fun r => r.1 == 4) && !(List.contains [0, 1, 2, 3, 4] (regBlock off)) && off != R.TIM_LAUNCH_POST)

/-! ### Read views -/

/-- A field of a word set. -/
def putF (w : Word64) (f : Fld) (v : Nat) : Word64 := wordPut w f.hi f.lo v

/-- CMP_CTX_INFO (Table 03-13). -/
def ctxInfo (c : Ctx) : Word64 :=
  putF (putF (putF (putF 0 F.CMP_CTX_INFO.STATE c.st.code) F.CMP_CTX_INFO.WAIT_KIND (Wait.kind c.wait))
    F.CMP_CTX_INFO.OUTSTANDING c.outstanding) F.CMP_CTX_INFO.PC (c.pc.toNat % 2 ^ 48)

/-- CMP_CTX_THREAD (Table 03-14). -/
def ctxThread (c : Ctx) : Word64 :=
  match c.thread with
  | some t => putF (putF 0 F.CMP_CTX_THREAD.VALID 1) F.CMP_CTX_THREAD.THREAD t
  | none => 0

/-- PX_CORE_STATE (Table 03-19). -/
def pxInfo (c : Ctx) : Word64 :=
  let st := match c.st with
    | .empty => 0 | .ready | .running => 2 | .parked => 3 | .waiting => 4 | .aborted => 5
  putF (putF (putF 0 F.PX_CORE_STATE.STATE st) F.PX_CORE_STATE.OUTSTANDING c.outstanding) F.PX_CORE_STATE.PC (c.pc.toNat % 2 ^ 48)

/-- CMP_ENG_STATE (Table 04-16). -/
def engState (e : Engine) : Word64 :=
  let w := putF (putF (putF 0 F.CMP_ENG_STATE.ARRAY_BUSY (b2n e.array.isSome)) F.CMP_ENG_STATE.XFER_BUSY (b2n e.xfer.isSome))
    F.CMP_ENG_STATE.QUEUED e.queue.length
  let w := putF (putF (putF w F.CMP_ENG_STATE.SLOT1_INIT (b2n e.slot1.init)) F.CMP_ENG_STATE.SLOT1_KIND (b2n e.slot1.kind64))
    F.CMP_ENG_STATE.SLOT1_ACCM (b2n e.slot1.running)
  putF (putF (putF w F.CMP_ENG_STATE.SLOT0_INIT (b2n e.slot0.init)) F.CMP_ENG_STATE.SLOT0_KIND (b2n e.slot0.kind64))
    F.CMP_ENG_STATE.SLOT0_ACCM (b2n e.slot0.running)

/-- DSU_STATE (Table 05-17). -/
def State.dsuState (s : State) (u : Nat) : Word64 :=
  let d := s.dsu u
  let w := putF (putF 0 F.DSU_STATE.LANES_BUSY d.busyLanes.length) F.DSU_STATE.HEATS_QUEUED d.queue.length
  let w := match d.queue with
    | h :: _ => putF (putF w F.DSU_STATE.HEAD_COUNT h.count) F.DSU_STATE.HEAD_OP h.op
    | [] => w
  putF w F.DSU_STATE.LANE_LIMIT s.laneLimit

/-- PUU_STATE (Table 06-13). -/
def State.puuState (s : State) (u : Nat) : Word64 :=
  let p := s.puu u
  let w := putF (putF (s.reg R.PUU_STATE u) F.PUU_STATE.BUSY (b2n p.run.isSome)) F.PUU_STATE.QUEUED p.queue.length
  let w := match p.run with
    | some r => putF w F.PUU_STATE.RUN_OP r.cmd.op
    | none => w
  putF (putF w F.PUU_STATE.JOURNAL_VALID (b2n p.journal.isSome)) F.PUU_STATE.RING_USED p.ring.length

/-- FAB_REGION_STATE (Table 08-11). -/
def State.regionWord (s : State) (r : Nat) : Word64 :=
  if !s.regionGoverned r then 0
  else
    let e := s.region r
    let w := putF (putF 0 F.FAB_REGION_STATE.GOVERNED 1) F.FAB_REGION_STATE.CHANGING (b2n (s.changing r))
    putF (putF w F.FAB_REGION_STATE.STATE e.state) F.FAB_REGION_STATE.OWNER (if e.state = 2 then e.owner.toNat else 0)

/-- COL_COMM_INFO, COL_COMM_RING and COL_COMM_STATE of a loaded communicator (Tables 10-16 to 10-18). -/
def State.commInfo (s : State) (c : Comm) : Word64 :=
  let w := putF (putF (putF 0 F.COL_COMM_INFO.VALID 1) F.COL_COMM_INFO.MODE c.mode) F.COL_COMM_INFO.CLASS c.cls
  let w := putF (putF w F.COL_COMM_INFO.SLOTS c.slots) F.COL_COMM_INFO.NMEMB_M1 (c.members.length - 1)
  putF (putF w F.COL_COMM_INFO.COMM c.comm) F.COL_COMM_INFO.RANK ((s.rankIn c).getD 0)
def commRing (c : Comm) : Word64 := BitVec.ofNat 64 (localAddr c.ring)
def State.commState (s : State) (c : Comm) : Word64 :=
  let used := (s.entriesUsed.filter fun e => c.base ≤ e && e < c.base + c.reserve).length
  putF (putF (putF 0 F.COL_COMM_STATE.MATCH_USED used) F.COL_COMM_STATE.ARRIVED c.arrived) F.COL_COMM_STATE.LAP_DONE
    (c.lapDone.getD 0)

/-- COL_UNIT_STATE (Table 10-14). -/
def State.unitWord (s : State) (u : Nat) : Word64 :=
  putF (putF 0 F.COL_UNIT_STATE.QUEUED (s.unitQueued u)) F.COL_UNIT_STATE.RELAY_USED (s.tiles.filter fun t => t.unit == u).length

/-- TIM_LAUNCH_STATE and TIM_LAUNCH_START (Tables 11-15, 11-16). -/
def State.shownLaunch (s : State) : Option (Nat × Launch) :=
  match s.pendingLaunch with
  | some l => some (1, l)
  | none => if s.launchOn then s.running.map fun l => (2, l) else none
def State.launchWord (s : State) : Word64 :=
  match s.shownLaunch with
  | some (p, l) => putF (putF (s.reg R.TIM_LAUNCH_STATE) F.TIM_LAUNCH_STATE.PHASE p) F.TIM_LAUNCH_STATE.TAG (recTag l.bytes)
  | none => s.reg R.TIM_LAUNCH_STATE
def State.launchStart (s : State) : Word64 := (s.shownLaunch.map fun l => BitVec.ofNat 64 (recStart l.2.bytes)).getD 0

/-- SPL_STATE (Table 12-8). -/
def State.splWord (s : State) : Word64 :=
  let w := putF (s.reg R.SPL_STATE) F.SPL_STATE.BUSY (b2n s.splRun.isSome)
  let w := match s.splRun with
    | some r => putF w F.SPL_STATE.RUN_OP r.cmd.op
    | none => w
  putF (putF (putF w F.SPL_STATE.QUEUED s.splQueue.length) F.SPL_STATE.PRIO_QUEUED s.splPrio.length) F.SPL_STATE.GRANULES_LEFT
    s.protectedGranules.length

/-- ERR_REC0 to ERR_REC3 of the selected slot (Table 13-14). -/
def State.recWord (s : State) (i : Nat) : Word64 :=
  (((s.slot (s.selv F.ERR_REC_SEL.SLOT)).map fun ws => ws.getD i 0)).getD 0

/-- MGT_RESERVE_INFO (R24): zero until the maps have been applied. -/
def State.reserveInfo (s : State) : Word64 :=
  if !s.flag F.MGT_RESERVE_STATUS.MAP_VALID then 0
  else
    let kind := s.selv F.MGT_RESERVE_SEL.KIND
    let i := s.selv F.MGT_RESERVE_SEL.INDEX
    let e := assocGet (assignKey kind i) s.cfg.assign
    putF (putF (putF 0 F.MGT_RESERVE_INFO.SPARED (b2n (onReserve s.cfg.assign kind i))) F.MGT_RESERVE_INFO.FROM_FIELD (b2n (e.any (·.2))))
      F.MGT_RESERVE_INFO.PHYS (physOf s.cfg.assign kind i)

/-- A word of the communicator that COL_SEL.COMM selects, zero without one. -/
def State.ofComm (s : State) (i : Nat) (f : Comm → Word64) : Word64 := ((assocGet i s.comms).map f).getD 0

/-- The counters of a word whose values the spec gives no measure for are free values (DESIGN CHOICE, log entry 19). -/
def State.freeFields (s : State) (w : Word64) (fs : List Fld) : Word64 × State :=
  fs.foldl (fun (r : Word64 × State) f =>
    let (v, s) := r.2.free
    (putF r.1 f (wordGet v (f.hi - f.lo) 0), s)) (w, s)

/-- The word a read returns, before reserved and WO bits are cleared. -/
def State.viewWord (s : State) (off unit : Nat) : Word64 × State :=
  let w := s.reg off unit
  if off = R.CMP_CTX_INFO then (ctxInfo (s.ctx (s.selv F.CMP_CTX_SEL.CORE * 128 + s.selv F.CMP_CTX_SEL.CTX)), s)
  else if off = R.CMP_CTX_THREAD then (ctxThread (s.ctx (s.selv F.CMP_CTX_SEL.CORE * 128 + s.selv F.CMP_CTX_SEL.CTX)), s)
  else if off = R.CMP_CORE_STATS then s.freeFields w [F.CMP_CORE_STATS.BANK_CONFLICTS, F.CMP_CORE_STATS.IDLE_CYCLES]
  else if off = R.CMP_ENG_STATE then (engState (s.engine unit), s)
  else if off = R.PX_CORE_STATE then (pxInfo (s.ctx (32768 + unit)), s)
  else if off = R.PX_CORE_STATS then s.freeFields w [F.PX_CORE_STATS.STALL_CYCLES]
  else if off = R.DSU_STATE then (s.dsuState unit, s)
  else if off = R.PUU_STATE then (s.puuState unit, s)
  else if off = R.FAB_REGION_STATE then (s.regionWord (s.selv F.FAB_REGION_SEL.REGION), s)
  else if off = R.LNK_LEVEL_UTIL then s.levelUtil
  else if off = R.COL_UNIT_STATE then (s.unitWord unit, s)
  else if off = R.COL_COMM_INFO then (s.ofComm unit s.commInfo, s)
  else if off = R.COL_COMM_RING then (s.ofComm unit commRing, s)
  else if off = R.COL_COMM_STATE then (s.ofComm unit s.commState, s)
  else if off = R.TIM_COUNT then (BitVec.ofNat 64 s.now, s)
  else if off = R.TIM_STATE then (putF w F.TIM_STATE.HOLD s.holdTime, s)
  else if off = R.TIM_LAUNCH_STATE then (s.launchWord, s)
  else if off = R.TIM_LAUNCH_START then (s.launchStart, s)
  else if off = R.SPL_STATE then (s.splWord, s)
  else if off = R.ERR_REC0 then (s.recWord 0, s)
  else if off = R.ERR_REC1 then (s.recWord 1, s)
  else if off = R.ERR_REC2 then (s.recWord 2, s)
  else if off = R.ERR_REC3 then (s.recWord 3, s)
  else if off = R.ERR_RESET_STATE then (putF w F.ERR_RESET_STATE.BUSY (b2n s.resetting.isSome), s)
  else if off = R.HIF_MBOX_STATE then (putF w F.HIF_MBOX_STATE.MODE s.mboxMode, s)
  else if off = R.HIF_BIAS_STATE then (putF w F.HIF_BIAS_STATE.DEVICE_GRANULES s.deviceGranules, s)
  else if off = R.MEM_STATE then (putF w F.MEM_STATE.RETRAINING (b2n (s.blocks.any fun b => b.retraining && stackOf b.addr == unit)), s)
  else if off = R.TIER_INIT then (putF w F.TIER_INIT.ZEROED_MIB (s.zeroedMib unit), s)
  else if off = R.MGT_UTIL then (s.mgtUtil, s)
  else if off = R.MGT_RESERVE_INFO then (s.reserveInfo, s)
  else if off = R.MGT_PINS then (putF w F.MGT_PINS.FAULT_DRIVEN (b2n (s.flag F.PWR_FAULT.VALID)), s)
  else if off = R.PWR_PAIR_STATE then (s.pairWord unit, s)
  else if off = R.PWR_RAIL then 
    s.freeFields (putF w F.PWR_RAIL.MV (s.railMv (s.selv F.PWR_RAIL_SEL.RAIL))) [F.PWR_RAIL.CURRENT, F.PWR_RAIL.REG_TEMP]
  else if off = R.SEC_STATUS then (s.secStatus, s)
  else if off = R.SEC_MR_COUNT then (BitVec.ofNat 64 ((s.mr (s.selv F.SEC_MR_SEL.INDEX)).count % 2 ^ 32), s)
  else if R.SEC_MR_VAL ≤ off && off < R.SEC_MR_VAL + 64 then
    (BitVec.ofNat 64 (fieldAt (s.mr (s.selv F.SEC_MR_SEL.INDEX)).value (off - R.SEC_MR_VAL) 8), s)
  else (w, s)

/-! ### Reads -/

/-- The bits of the word that an access of some bytes covers. -/
def accessMask (off size : Nat) : Word64 :=
  if size = 8 then BitVec.ofNat 64 (2 ^ 64 - 1) else BitVec.ofNat 64 ((2 ^ 32 - 1) * 2 ^ (8 * (off % 8)))

/-- RC bits that a read returned are cleared; what hardware added in this tick stays (R9, R12). -/
def State.clearRc (s : State) (off unit : Nat) (bits : Word64) : State :=
  if bits = 0 then s else s.setReg off unit ((s.reg off unit &&& ~~~bits) ||| (s.hwWord off unit &&& bits))

/-- An access of a size or alignment that R10 does not accept. -/
def badAccess (off size : Nat) : Bool := (size != 4 && size != 8) || off % size != 0

/-- The staged view (R309) and the end of the register space. -/
abbrev stagedView : Nat := 0x2000000
abbrev regSpace : Nat := 0x4000000

/-- A register read: the value, at bit 0 of the result. What hardware has added to a counter in the tick so far is in the value
read and stays in the counter (R12, which does not say what the read returns: DESIGN CHOICE, log entry 53). RWS fields that a
commit of this tick has changed still read as before it (R310). -/
def State.regRead (s : State) (src : Source) (off size : Nat) : Word64 × State :=
  if s.dark then (0, s)
  else if badAccess off size then (0, s.refuse src 1 off 0)
  else if regSpace ≤ off then (0, s)
  else
    let at_ := off % stagedView / 8 * 8
    match s.descAt at_ with
    | none => (if compAt ≤ at_ && at_ < 2 * compAt then s.compRead (off % stagedView - compAt) size else 0, s)
    | some d =>
      if s.regClosed at_ then (0, s)
      else
        let u := s.unitFor at_
        let m := accessMask off size
        let (w, s) := s.viewWord at_ u
        let stagedRead := decide (stagedView ≤ off)
        let active := (assocGet (keyOf at_ u) s.held).getD w
        let rws := if stagedRead then s.stg at_ u else active
        let w := (w &&& ~~~d.mask .rws) ||| (rws &&& d.mask .rws)
        let s := if stagedRead then s else s.clearRc at_ u (d.mask .rc &&& m)
        ((w &&& d.defined &&& ~~~d.mask .wo &&& m) >>> (8 * (off % 8)), s)

/-! ### Ranges -/

/-- The ranges of LNK_ROUTE_ENTRY (Tables 09-18, 09-19), whatever VALID says (R11). -/
def State.routeBad (s : State) (m : Word64) : Bool :=
  let table := s.selv F.LNK_ROUTE_SEL.TABLE
  let own (e : Nat) : Bool := decide (e < 0x4000) && e / 64 == s.fld F.LNK_ID.GROUP
  if table = 0 then wordGet m 31 12 != 0
  else if table = 1 then wordGet m 11 0 != 0 || wordGet m 31 27 != 0
  else !(own (wordGet m 47 32) && own (wordGet m 31 16))

/-- A value between two bounds. -/
def between (lo hi v : Nat) : Bool := decide (lo ≤ v ∧ v ≤ hi)

/-- R11: whether the value m of a register has a field out of range; src is the writer. -/
def State.outOfRange (s : State) (src : Source) (off : Nat) (m : Word64) : Bool :=
  let f (x : Fld) : Nat := wordGet m x.hi x.lo
  let g (hi lo : Nat) : Nat := wordGet m hi lo
  if off = R.HIF_BOOT_CTL then g 63 63 == 1 && !(between 1 (2 ^ 28) (f F.HIF_BOOT_CTL.LENGTH) && s.phase == 2)
  else if off = R.HIF_MBOX_POLL || off = R.HIF_CACHE_TIMEOUT then g 39 0 < 1000
  else if off = R.HIF_BIAS_CMD then
    stackGranules ≤ f F.HIF_BIAS_CMD.FIRST
      || (g 63 63 == 1 && (f F.HIF_BIAS_CMD.COUNT == 0 || stackGranules < f F.HIF_BIAS_CMD.FIRST + f F.HIF_BIAS_CMD.COUNT
        || s.flag F.HIF_BIAS_STATE.BUSY))
  else if off = R.MGT_RESERVE_SEL then
    5 < f F.MGT_RESERVE_SEL.KIND || reserveCount (f F.MGT_RESERVE_SEL.KIND) ≤ f F.MGT_RESERVE_SEL.INDEX
  else if off = R.MGT_TEL_CFG then f F.MGT_TEL_CFG.ENTRIES < 16 || f F.MGT_TEL_CFG.PERIOD < 100000
  else if off = R.MGT_WDOG then src != .mgmt || f F.MGT_WDOG.PERIOD < 1000000
  else if off = R.PWR_LIMIT then !between 1000 3600 (f F.PWR_LIMIT.WATTS)
  else if off = R.PWR_REST then f F.PWR_REST.DELAY < 1000
  else if off = R.PWR_RAIL_SEL then 41 < f F.PWR_RAIL_SEL.RAIL
  else if off = R.SEC_FUSE_CMD then s.fuseRefused src (g 63 63 == 1) (g 9 8) (g 6 0)
  else if off = R.DSU_PIVOT_TAU then !(between 20 60 (f F.DSU_PIVOT_TAU.TAU64) && between 10 30 (f F.DSU_PIVOT_TAU.TAU32))
  else if off = R.PUU_NORM_LIMIT then !between 1 0x7FF0000000000000 m.toNat
  else if off = R.MEM_THERM then !(between 50 100 (f F.MEM_THERM.HOT) && between 60 105 (f F.MEM_THERM.CRIT))
  else if off = R.PWR_TJ then !(between 80 110 (f F.PWR_TJ.PACE) && between 90 120 (f F.PWR_TJ.STOP))
  else if off = R.PUU_PARK_SLOTS then f F.PUU_PARK_SLOTS.SLOTS != 0 && !between 4 4096 (f F.PUU_PARK_SLOTS.SLOTS)
  else if off = R.MEM_ROW_CE_LIMIT then f F.MEM_ROW_CE_LIMIT.LIMIT == 0
  else if off = R.TIER_SEL then 9 < f F.TIER_SEL.UNIT
  else if off = R.PX_CORE_SEL then 47 < f F.PX_CORE_SEL.CORE
  else if off = R.LNK_TAG_ENTRY then f F.LNK_TAG_ENTRY.OP == 3
  else if off = R.LNK_ROUTE_SEL then
    match f F.LNK_ROUTE_SEL.TABLE with
    | 0 => 3 < f F.LNK_ROUTE_SEL.INDEX
    | 1 => 15 < f F.LNK_ROUTE_SEL.INDEX
    | 2 => false
    | _ => true
  else if off = R.LNK_ROUTE_ENTRY then s.routeBad m
  else if off = R.LNK_PORT_CFG then f F.LNK_PORT_CFG.GEN == 3
  else if off = R.LNK_ARB then (List.range 8).any fun c => g (32 + 4 * c + 3) (32 + 4 * c) == 0
  else if off = R.COL_CFG then f F.COL_CFG.RETRY < 100 || f F.COL_CFG.XLIM < 1000
  else if off = R.TIM_ASYM then !(decide (-4096 ≤ toSigned 16 (f F.TIM_ASYM.ASYM)) && decide (toSigned 16 (f F.TIM_ASYM.ASYM) ≤ 4095))
  else if off = R.TIM_LEAD then !between 50000 100000000 (f F.TIM_LEAD.LEAD)
  else false

/-! ### Writes of 1 to clear -/

/-- The earliest record of this tick (R304, R12). -/
def State.firstOfTick (s : State) : Option (List Word64) :=
  (List.range 64).findSome? fun i => (s.slot (s.fld F.ERR_LOG_HEAD.NEXT + i)).filter fun ws => (ws.getD 3 0).toNat == s.now

/-- A capture that a cleared VALID re-arms takes what hardware offered in the same tick (R12). -/
def State.rearm (s : State) (off unit : Nat) : State :=
  if off = R.ERR_STATUS && !s.flag F.ERR_STATUS.FIRST_VALID then
    match s.firstOfTick with
    | some ws => (s.setFirst ws).hwSet F.ERR_STATUS.FIRST_VALID 1
    | none => s
  else if off = R.ERR_POISON && !s.flag F.ERR_POISON.VALID then
    match s.aside off unit with
    | some w =>
      let s := (s.setReg off 0 w).hwSet F.ERR_POISON.VALID 1
      ((s.setFld F.ERR_POISON_TICK.TICK ((s.aside R.ERR_POISON_TICK 0).getD 0).toNat).ibi 3).msix s.msixOn 3
    | none => s
  else if (off = R.FAB_REFUSED_LOG && !s.flag F.FAB_REFUSED_LOG.VALID) || (off = R.CMP_NUM_FIRST && !s.flag F.CMP_NUM_FIRST.VALID) then
    match s.aside off unit with
    | some w =>
      let s := s.setReg off unit w
      if off = R.FAB_REFUSED_LOG then s.hwSet F.FAB_REFUSED_LOG.VALID 1 else s.hwSet F.CMP_NUM_FIRST.VALID 1
    | none => s
  else s

/-- W1C bits written with 1 are cleared but for those that hardware set in this tick (R9, R12). -/
def State.clearW1c (s : State) (off unit : Nat) (bits : Word64) : State :=
  if bits = 0 then s else (s.setReg off unit (s.reg off unit &&& ~~~(bits &&& ~~~s.hwWord off unit))).rearm off unit

/-! ### Posts -/

/-- A post's register takes descriptors from this place. -/
def State.postPlace (s : State) (off a : Nat) : Bool :=
  match regBlock off, place a with
  | 14, .csram c _ => off == R.COL_POST + 8 * c
  | 15, .stack k _ => off == R.DIG_POST + 8 * k
  | 15, .csram c _ => off == R.DIG_POST + 8 * (c / 2)
  | 16, _ => isStackCsram (s.kindAt a)
  | _, _ => false

/-- A write of a post register (R244, R271, R282, R289). The read of a descriptor in memory in reset waits (R316). -/
def State.posted (s : State) (src : Source) (off : Nat) (v : Word64) : State :=
  let a := offOf v.toNat
  if off = R.TIM_LAUNCH_POST then s.launchPosted src v
  else if s.isSelf v.toNat && a % 64 == 0 && s.postPlace off a && s.memWaits a 64 then s.holdOp resetHold (.post off src v)
  else if off = R.SPL_POST then s.splPost src v
  else if regBlock off = 15 then s.digPost src ((off - R.DIG_POST) / 8) v
  else s.colPost src ((off - R.COL_POST) / 8) v

/-! ### Writes -/

/-- An unmasked vector that waits is sent (R338). -/
def State.unmask (s : State) (v : Nat) : State :=
  if s.msixOn && wordGet (s.reg (R.MSIX_DATA + 16 * v)) 32 32 == 0 && bitOf (s.reg R.MSIX_PBA).toNat v then
    (s.setReg R.MSIX_PBA 0 (s.reg R.MSIX_PBA &&& ~~~BitVec.ofNat 64 (2 ^ v))).emit (.msix v)
  else s

/-- What a register's write does beyond its fields: m is the merged value, old the word before, raw the written value. -/
def State.regAct (s : State) (src : Source) (off unit : Nat) (mask m old raw : Word64) : State :=
  let bit (i : Nat) : Bool := wordGet m i i == 1
  if off = R.HIF_BOOT_CTL then (if bit 63 then s.bootGo else s)
  else if off = R.HIF_COMMIT then (if bit 0 then s.hifCommit else s)
  else if off = R.HIF_MBOX_ADDR then s.mboxReleased
  else if off = R.HIF_BIAS_CMD then (if bit 63 then s.biasGo (bit 62) (wordGet m 51 32) (wordGet m 19 0) else s)
  else if off = R.MSIX_DATA then s.unmask 0
  else if off = R.MSIX_DATA + 16 then s.unmask 1
  else if off = R.MSIX_DATA + 32 then s.unmask 2
  else if off = R.MSIX_DATA + 48 then s.unmask 3
  else if off = R.MGT_TEL_COMMIT then (if bit 0 then s.telCommit else s)
  else if off = R.MGT_WDOG then (if bit 63 then s.kicked else s)
  else if off = R.PWR_COMMIT then (if bit 0 then s.pwrCommit else s)
  else if off = R.PWR_REST then s.forceAwakeWritten
  else if off = R.SEC_FUSE_CMD then (if bit 63 then s.fuseGo (wordGet m 9 8) (wordGet m 6 0) else s)
  else if off = R.ERR_RESET then (if mask &&& wordMask 18 0 = 0 then s else s.errReset src raw)
  else if off = R.PUU_COMMIT then
    (if !bit 0 then s else if (s.puu unit).commit.isSome then s.refuse src 7 off raw else s.puuCommitGo unit)
  else if off = R.MEM_COMMIT then (if bit 0 then s.memCommit else s)
  else if off = R.FAB_REGION_CLEAR then (if bit 0 then s.startClear else s)
  else if off = R.LNK_COMMIT then (if bit 0 then s.lnkCommit else s)
  else if off = R.LNK_ROUTE_ENTRY then s.routeWritten (unit / 256) old (s.reg off unit)
  else if off = R.LNK_PORT_CFG then s.portCfgWritten unit (bit 3)
  else if off = R.TIM_CFG then s.timCfgWritten
  else if off = R.TIM_LAUNCH_CTL then (if bit 0 then s.launchCancelled else s)
  else if isPost off then s.posted src off m
  else s

/-- The fields of a write that passed: RW at once, RWS staged, W1C cleared (R9, R310). -/
def State.storeFields (s : State) (d : RegDesc) (off unit : Nat) (mask m : Word64) : State :=
  let rw := d.mask .rw &&& mask
  let rws := d.mask .rws &&& mask
  let s := if rw = 0 then s
    else (s.hold off unit).setReg off unit ((s.reg off unit &&& ~~~rw) ||| (m &&& rw))
  let s := if rws = 0 then s
    else (s.holdStg off unit).setStg off unit ((s.stg off unit &&& ~~~rws) ||| (m &&& rws))
  s.clearW1c off unit (d.mask .w1c &&& mask &&& m)

/-- The value that R11 checks: the new bits, and the other half as it stands or is staged. -/
def State.merged (s : State) (d : RegDesc) (off unit : Nat) (mask new : Word64) : Word64 :=
  let cur := (s.reg off unit &&& d.mask .rw) ||| (s.stg off unit &&& d.mask .rws)
  ((cur &&& ~~~mask) ||| (new &&& mask)) &&& d.defined

/-- A write of the covered bits of an open register. -/
def State.writeWord (s : State) (src : Source) (d : RegDesc) (off reg : Nat) (mask new raw : Word64) : State :=
  let u := s.unitFor reg
  let m := s.merged d reg u mask new
  if s.outOfRange src reg m then s.refuse src 0 off raw
  else (s.storeFields d reg u mask m).regAct src reg u mask m (s.reg reg u) raw

/-- A register write of some bytes at a register-space offset. A refused one latches the offset of the access and the value as
written, at bit 0, also for a 32-bit write of a register's upper half (R11, R308, DESIGN CHOICE, log entry 53). -/
def State.regWrite (s : State) (src : Source) (off size : Nat) (v : Word64) : State :=
  let raw : Word64 := if size = 4 then BitVec.ofNat 64 (v.toNat % 2 ^ 32) else v
  if s.dark then s
  else if badAccess off size then s.refuse src 1 off raw
  else if regSpace ≤ off then s
  else if stagedView ≤ off then s.refuse src 4 off raw
  else
    let at_ := off / 8 * 8
    match s.descAt at_ with
    | none => if compAt ≤ at_ && at_ < 2 * compAt then s.compWrite (off - compAt) size v else s
    | some d =>
      let m := accessMask off size
      if s.regClosed at_ then s.refuse src (if isPost at_ then 3 else 5) off raw
      else if d.partWo m then s.refuse src 1 off raw
      else s.writeWord src d off at_ m (raw <<< (8 * (off % 8))) raw

/-- The register space as instructions reach it. -/
def regPort : RegPort := ⟨State.regRead, State.regWrite⟩

/-- A post whose descriptor waited for a reset goes on. -/
def rePost (s : State) (off : Nat) (src : Source) (v : Word64) : State := s.regWrite src off 8 v

end Sys2Proof.Machine
end

