-- ==== Sys2Proof/Machine/Posts.lean ====
section
/-! DEFINITION. The rows of the table that are register accesses: plain reads and writes, commits and GO bits, posts,
ERR_RESET, and the board controller's accesses over I3C (R387). -/

namespace Sys2Proof.Machine

/-- A 64-bit write of a register. -/
def State.write64 (s : State) (src : Source) (off : Nat) (v : Word64) : State := s.regWrite src off 8 v

/-- REGISTER_WRITE (R9 to R11, R308); the host's also of BAR2 and BAR4 (R324). -/
def execRegisterWrite (src : Source) (off : Word32) (size : Nat) (value : Word64) (s : State) :
    Host.Outcome State Fault Refusal :=
  done (if src = .host && bar2At ≤ off.toNat then s.barWrite off.toNat size value else s.regWrite src off.toNat size value)

/-- REGISTER_READ (R9, R10, R309): the value leaves the block; the host's also of BAR2 and BAR4 (R324). -/
def execRegisterRead (src : Source) (off : Word32) (size : Nat) (s : State) : Host.Outcome State Fault Refusal :=
  done (
    let (v, s) := if src = .host && bar2At ≤ off.toNat then (s.barRead off.toNat size, s) else s.regRead src off.toNat size
    s.emit (.readData src v))

/-! ### Commits and GO bits -/

/-- REGION_CLEAR (R204). -/
def execRegionClear (src : Source) (value : Word64) (s : State) := done (s.write64 src R.FAB_REGION_CLEAR value)
/-- LNK_COMMIT (R236). -/
def execLnkCommit (src : Source) (value : Word64) (s : State) := done (s.write64 src R.LNK_COMMIT value)
/-- ROUTE_ENTRY_WRITE (R232). -/
def execRouteEntryWrite (src : Source) (value : Word64) (s : State) := done (s.write64 src R.LNK_ROUTE_ENTRY value)
/-- RETRAIN (R216). -/
def execRetrain (src : Source) (value : Word64) (s : State) := done (s.write64 src R.LNK_PORT_CFG value)
/-- TIM_CFG_WRITE (R266). -/
def execTimCfgWrite (src : Source) (value : Word64) (s : State) := done (s.write64 src R.TIM_CFG value)
/-- LAUNCH_CANCEL (R276). -/
def execLaunchCancel (src : Source) (value : Word64) (s : State) := done (s.write64 src R.TIM_LAUNCH_CTL value)
/-- PUU_COMMIT (R161). -/
def execPuuCommit (src : Source) (value : Word64) (s : State) := done (s.write64 src R.PUU_COMMIT value)
/-- MEM_COMMIT (R184). -/
def execMemCommit (src : Source) (value : Word64) (s : State) := done (s.write64 src R.MEM_COMMIT value)
/-- HIF_COMMIT (R355). -/
def execHifCommit (src : Source) (value : Word64) (s : State) := done (s.write64 src R.HIF_COMMIT value)
/-- PWR_COMMIT (R380). -/
def execPwrCommit (src : Source) (value : Word64) (s : State) := done (s.write64 src R.PWR_COMMIT value)
/-- FORCE_AWAKE (R376). -/
def execForceAwake (src : Source) (value : Word64) (s : State) := done (s.write64 src R.PWR_REST value)
/-- MGT_TEL_COMMIT (R384). -/
def execMgtTelCommit (src : Source) (value : Word64) (s : State) := done (s.write64 src R.MGT_TEL_COMMIT value)
/-- BIAS_FLIP (R328, R356). -/
def execBiasFlip (src : Source) (value : Word64) (s : State) := done (s.write64 src R.HIF_BIAS_CMD value)
/-- MBOX_ADDR_WRITE (R332). -/
def execMboxAddrWrite (src : Source) (value : Word64) (s : State) := done (s.write64 src R.HIF_MBOX_ADDR value)
/-- BOOT_GO (R346). -/
def execBootGo (src : Source) (value : Word64) (s : State) := done (s.write64 src R.HIF_BOOT_CTL value)

/-- SEC_FUSE_CMD with GO, an OP and an ARG. -/
def fuseWord (op arg : Nat) : Word64 := BitVec.ofNat 64 (2 ^ 63 + op * 2 ^ 8 + arg)

/-- FUSE_REVOKE (R359). -/
def execFuseRevoke (src : Source) (slot : BitVec 7) (s : State) := done (s.write64 src R.SEC_FUSE_CMD (fuseWord 1 slot.toNat))
/-- FUSE_ADVANCE (R359). -/
def execFuseAdvance (src : Source) (svn : BitVec 7) (s : State) := done (s.write64 src R.SEC_FUSE_CMD (fuseWord 2 svn.toNat))

/-- WATCHDOG_KICK (R385). -/
def execWatchdogKick (src : Source) (value : Word64) (s : State) := done (s.write64 src R.MGT_WDOG value)

/-! ### Posts -/

/-- A post whose descriptor's byte i passes a test; a descriptor of another row's kind makes this another command (DESIGN CHOICE, log entry
2). An address that the register refuses has no descriptor to look at. -/
def State.postOf (s : State) (src : Source) (off i : Nat) (ok : Nat → Bool) (addr : Word64) : State :=
  let there := s.isSelf addr.toNat && addr.toNat % 64 == 0
  if there && !ok (s.byteAt (offOf addr.toNat + i)).toNat then s else s.write64 src off addr

/-- SEND (R244, R246). -/
def execSend (src : Source) (unit : BitVec 5) (addr : Word64) (s : State) :=
  done (s.postOf src (R.COL_POST + 8 * unit.toNat) 0 (· == 0) addr)
/-- RECV (R244, R245). -/
def execRecv (src : Source) (unit : BitVec 5) (addr : Word64) (s : State) :=
  done (s.postOf src (R.COL_POST + 8 * unit.toNat) 0 (· == 1) addr)
/-- ROUND (R244, R248). -/
def execRound (src : Source) (unit : BitVec 5) (addr : Word64) (s : State) :=
  done (s.postOf src (R.COL_POST + 8 * unit.toNat) 0 (· == 2) addr)
/-- LAUNCH_POST (R271). -/
def execLaunchPost (src : Source) (addr : Word64) (s : State) := done (s.write64 src R.TIM_LAUNCH_POST addr)

/-- LEAVES (R282). -/
def execLeaves (src : Source) (unit : BitVec 4) (addr : Word64) (s : State) :=
  done (s.postOf src (R.DIG_POST + 8 * unit.toNat) 0 (· == 0) addr)
/-- ROOT (R282). -/
def execRoot (src : Source) (unit : BitVec 4) (addr : Word64) (s : State) :=
  done (s.postOf src (R.DIG_POST + 8 * unit.toNat) 0 (· == 1) addr)
/-- FULL (R282). -/
def execFull (src : Source) (unit : BitVec 4) (addr : Word64) (s : State) :=
  done (s.postOf src (R.DIG_POST + 8 * unit.toNat) 0 (· == 2) addr)
/-- BIND (R282). -/
def execBind (src : Source) (unit : BitVec 4) (addr : Word64) (s : State) :=
  done (s.postOf src (R.DIG_POST + 8 * unit.toNat) 0 (· == 3) addr)

/-- START (R289, R290). -/
def execStart (src : Source) (addr : Word64) (s : State) := done (s.postOf src R.SPL_POST 0 (· == 0) addr)
/-- SEAL (R289). -/
def execSeal (src : Source) (addr : Word64) (s : State) := done (s.postOf src R.SPL_POST 0 (· == 1) addr)
/-- CHECK (R289). -/
def execCheck (src : Source) (addr : Word64) (s : State) := done (s.postOf src R.SPL_POST 0 (· == 2) addr)
/-- RESTORE (R289). -/
def execRestore (src : Source) (addr : Word64) (s : State) := done (s.postOf src R.SPL_POST 0 (· == 3) addr)
/-- ABANDON (R289, R299). -/
def execAbandon (src : Source) (addr : Word64) (s : State) := done (s.postOf src R.SPL_POST 0 (· == 4) addr)

/-! ### Resets (R319) -/

/-- ERR_RESET written with a domain and a target. -/
def State.askReset (s : State) (src : Source) (d t : Nat) : State := s.write64 src R.ERR_RESET (BitVec.ofNat 64 (d * 2 ^ 16 + t))

/-- CONTEXT_ABORT. -/
def execContextAbort (src : Source) (target : BitVec 15) (s : State) := done (s.askReset src 0 target.toNat)
/-- CORE_RESET. -/
def execCoreReset (src : Source) (core : BitVec 8) (s : State) := done (s.askReset src 1 core.toNat)
/-- CLUSTER_RESET. -/
def execClusterReset (src : Source) (cluster : BitVec 5) (s : State) := done (s.askReset src 2 cluster.toNat)
/-- COMPUTE_RESET. -/
def execComputeReset (src : Source) (s : State) := done (s.askReset src 3 0)
/-- PACKAGE_RESET. -/
def execPackageReset (src : Source) (s : State) := done (s.askReset src 4 0)
/-- COLD_RESET. -/
def execColdReset (src : Source) (s : State) := done (s.askReset src 5 0)

/-- RESET_COMPLETE (R318): a package reset lasts while PKG_RST_N is low, a cold reset until tick 0 (R404, R408). -/
def execResetComplete (s : State) : Host.Outcome State Fault Refusal :=
  done (
    match s.resetting with
    | some (4, _) => if s.flag F.MGT_PINS.PKG_RST_N then s.packageEnds else s
    | some (5, _) => s.coldEnds
    | _ => s.resetEnds rePost)

/-! ### Accesses that waited for a channel or a bank -/

/-- STACK_CHANNEL_RETRAIN (R166): the retrain ends, and the channel's accesses go on. -/
def execStackChannelRetrain (stack : BitVec 4) (ok : Bool) (addr : BitVec 48) (reader : Reader) (s : State) :
    Host.Outcome State Fault Refusal :=
  done ((s.channelRetrained stack.toNat ok addr.toNat reader).releaseReset rePost)

/-- ROW_SPARE_COMPLETE (R169): the bank's accesses go on against the spare. -/
def execRowSpareComplete (row : RowAddr) (s : State) : Host.Outcome State Fault Refusal :=
  done ((s.rowSpared row).releaseReset rePost)

/-! ### The board controller over I3C (R387) -/

/-- The status of an access: refused, unavailable before READY, or performed. -/
def State.i3cStatus (s t : State) (off : Nat) : Half :=
  if s.dark || (s.regClosed (off / 8 * 8) && !s.regInReset (off / 8 * 8)) then ST.NOT_READY
  else if t.fld F.ERR_LAST_REFUSED.SEQ = s.fld F.ERR_LAST_REFUSED.SEQ then ST.OK else ST.RANGE

/-- An access served by the hardware within 2,000 ticks (DESIGN CHOICE, log entry 19). -/
def State.i3cServed (s : State) (st : Half) (data : Option Word64) : State :=
  s.onI3c fun i => { i with status := st, data := data.getD i.data, at_ := s.pwr.ticks + 2000 }

/-- I3C_READ_REQUEST: five bytes. -/
def execI3cReadRequest (bytes : List Byte) (s : State) : Host.Outcome State Fault Refusal :=
  done (
    if !s.pwr.alive then s
    else if s.i3c.dyn.isNone || bytes.length != 5 || fieldAt bytes 0 1 != 1 then s.emit .i3cNack
    else
      let off := fieldAt bytes 1 4
      let (v, t) := s.regRead .bmc off 8
      t.i3cServed (s.i3cStatus t off) (some v))

/-- I3C_REGISTER_WRITE: thirteen bytes. -/
def execI3cRegisterWrite (bytes : List Byte) (s : State) : Host.Outcome State Fault Refusal :=
  done (
    if !s.pwr.alive then s
    else if s.i3c.dyn.isNone || bytes.length != 13 || fieldAt bytes 0 1 != 2 then s.emit .i3cNack
    else
      let off := fieldAt bytes 1 4
      let t := s.regWrite .bmc off 8 (BitVec.ofNat 64 (fieldAt bytes 5 8))
      t.i3cServed (s.i3cStatus t off) none)

/-- I3C_PRIVATE_READ: ten bytes once the access has been served. -/
def execI3cPrivateRead (s : State) : Host.Outcome State Fault Refusal :=
  done (
    if !s.pwr.alive then s
    else if s.i3c.dyn.isNone || s.pwr.ticks < s.i3c.at_ then s.emit .i3cNack
    else s.emit (.i3c (leBytes 2 s.i3c.status.toNat ++ leBytes 8 s.i3c.data.toNat)))

end Sys2Proof.Machine
end

