-- ==== Sys2Proof/Machine/CoresTop.lean ====
section
/-! DEFINITION. Standard instructions with the register space behind them (R59, R67, R195). -/

namespace Sys2Proof.Machine

/-- An issued instruction word: Xeol under custom-0 to custom-3, standard elsewhere. -/
def State.wordInsn (s : State) (k : Nat) (raw : Word32) : State :=
  if isCustom raw then
    match decodeXeol raw with
    | some x => s.xop k x (s.now + (s.ctx k).xwlim)
    | none => s.trap k .illegalInsn
  else s.standard regPort k raw

/-- STANDARD_INSTRUCTION (R59): the word is the one the fetch returned. -/
def execStandardInstruction (h : Hart) (word : Word32) (s : State) : Host.Outcome State Fault Refusal :=
  let aborted := if isCustom word then ((decodeXeol word).map fun x => x.tell ST.ABORTED).getD id else id
  done (s.issue (hartKey h) (insnLen word) aborted fun s => s.wordInsn (hartKey h) word)

/-- A standard scalar load or store whose address names another endpoint. -/
def State.namesRemote (s : State) (k : Nat) (raw : Word32) : Bool :=
  match (insnOf raw).bind fun (w, _) => lsOf (s.ctx k) w with
  | some l => !s.isSelf l.addr
  | none => false

/-- STANDARD_REMOTE_ACCESS (R67, R195). -/
def execStandardRemoteAccess (h : Hart) (word : Word32) (s : State) : Host.Outcome State Fault Refusal :=
  done (
    let k := hartKey h
    if isCustom word || !s.namesRemote k word then s
    else s.issue k (insnLen word) id fun s => s.standard RegPort.closed k word)

/-- FENCE_I (R70): the pipeline refetches, which this model does at every instruction. -/
def execFenceI (h : Hart) (s : State) : Host.Outcome State Fault Refusal :=
  done (s.issue (hartKey h) 4 id fun s => s.finish (hartKey h) 4 id)

end Sys2Proof.Machine
end

