-- ==== Sys2Proof/Machine/Dispatch.lean ====
section
/-! DEFINITION. The one dispatch from a command to its meaning: one arm for each constructor of Instr. -/

namespace Sys2Proof.Machine

/-- The command's effect on everything but the queue. -/
def exec (i : Instr) (s : State) : Host.Outcome State Fault Refusal :=
  match i with
  | .registerWrite src off size value => Sys2Proof.Machine.execRegisterWrite src off size value s
  | .standardInstruction h word => Sys2Proof.Machine.execStandardInstruction h word s
  | .standardRemoteAccess h word => Sys2Proof.Machine.execStandardRemoteAccess h word s
  | .fenceI h => Sys2Proof.Machine.execFenceI h s
  | .xld h size rd rs1 => Sys2Proof.Machine.execXld h size rd rs1 s
  | .xldu h size rd rs1 => Sys2Proof.Machine.execXldu h size rd rs1 s
  | .xldv h size vd rs1 => Sys2Proof.Machine.execXldv h size vd rs1 s
  | .xst h size rs1 rs2 => Sys2Proof.Machine.execXst h size rs1 rs2 s
  | .xstv h size rs1 vs => Sys2Proof.Machine.execXstv h size rs1 vs s
  | .xput h rd rs1 => Sys2Proof.Machine.execXput h rd rs1 s
  | .xget h rd rs1 => Sys2Proof.Machine.execXget h rd rs1 s
  | .xamoAdd h rd rs1 rs2 => Sys2Proof.Machine.execXamoAdd h rd rs1 rs2 s
  | .xamoMin h rd rs1 rs2 => Sys2Proof.Machine.execXamoMin h rd rs1 rs2 s
  | .xamoMax h rd rs1 rs2 => Sys2Proof.Machine.execXamoMax h rd rs1 rs2 s
  | .xamoAnd h rd rs1 rs2 => Sys2Proof.Machine.execXamoAnd h rd rs1 rs2 s
  | .xamoOr h rd rs1 rs2 => Sys2Proof.Machine.execXamoOr h rd rs1 rs2 s
  | .xamoSwap h rd rs1 rs2 => Sys2Proof.Machine.execXamoSwap h rd rs1 rs2 s
  | .xcasD h rd rs1 rs2 => Sys2Proof.Machine.execXcasD h rd rs1 rs2 s
  | .xcasQ h rd rs1 rs2 => Sys2Proof.Machine.execXcasQ h rd rs1 rs2 s
  | .xfadd h rd rs1 fs2 => Sys2Proof.Machine.execXfadd h rd rs1 fs2 s
  | .xfence h rd => Sys2Proof.Machine.execXfence h rd s
  | .xhand h rd rs1 rs2 => Sys2Proof.Machine.execXhand h rd rs1 rs2 s
  | .xyield h => Sys2Proof.Machine.execXyield h s
  | .xbwait h rd rs1 rs2 => Sys2Proof.Machine.execXbwait h rd rs1 rs2 s
  | .xbwaitSatisfied h => Sys2Proof.Machine.execXbwaitSatisfied h s
  | .xsleep h rd rs1 => Sys2Proof.Machine.execXsleep h rd rs1 s
  | .xsleepTickReached h => Sys2Proof.Machine.execXsleepTickReached h s
  | .xfinish h rd rs1 rs2 => Sys2Proof.Machine.execXfinish h rd rs1 rs2 s
  | .xdsu h w rd rs1 => Sys2Proof.Machine.execXdsu h w rd rs1 s
  | .xpuu h w rd rs1 rs2 => Sys2Proof.Machine.execXpuu h w rd rs1 rs2 s
  | .xexit h => Sys2Proof.Machine.execXexit h s
  | .remoteReply h op => Sys2Proof.Machine.execRemoteReply h op s
  | .remoteStopwatchExpiry h op => Sys2Proof.Machine.execRemoteStopwatchExpiry h op s
  | .waitStopwatchExpiry h => Sys2Proof.Machine.execWaitStopwatchExpiry h s
  | .quotaEntryFreed h => Sys2Proof.Machine.execQuotaEntryFreed h s
  | .unitQueueEntryFreed h => Sys2Proof.Machine.execUnitQueueEntryFreed h s
  | .contextAbortComplete h => Sys2Proof.Machine.execContextAbortComplete h s
  | .xtmma h passes rd rs1 rs2 => Sys2Proof.Machine.execXtmma h passes rd rs1 rs2 s
  | .xtcvt h scale ovf rd rs1 rs2 => Sys2Proof.Machine.execXtcvt h scale ovf rd rs1 rs2 s
  | .xtrd h scale ovf rd rs1 rs2 => Sys2Proof.Machine.execXtrd h scale ovf rd rs1 rs2 s
  | .xtzero h rd rs2 => Sys2Proof.Machine.execXtzero h rd rs2 s
  | .xtfill h rd rs1 rs2 => Sys2Proof.Machine.execXtfill h rd rs1 rs2 s
  | .xtspill h rd rs1 rs2 => Sys2Proof.Machine.execXtspill h rd rs1 rs2 s
  | .xtwait h rd rs2 => Sys2Proof.Machine.execXtwait h rd rs2 s
  | .xtstat h rd rs1 rs2 => Sys2Proof.Machine.execXtstat h rd rs1 rs2 s
  | .engineInstructionStart eng xfer => Sys2Proof.Machine.execEngineInstructionStart eng xfer s
  | .engineInstructionComplete eng xfer stall => Sys2Proof.Machine.execEngineInstructionComplete eng xfer stall s
  | .relayHandover eng => Sys2Proof.Machine.execRelayHandover eng s
  | .engineColumnFault eng => Sys2Proof.Machine.execEngineColumnFault eng s
  | .heatStart unit => Sys2Proof.Machine.execHeatStart unit s
  | .fk unit lane stall => Sys2Proof.Machine.execFk unit lane stall s
  | .id unit lane stall => Sys2Proof.Machine.execId unit lane stall s
  | .fd unit lane stall => Sys2Proof.Machine.execFd unit lane stall s
  | .mass unit lane stall => Sys2Proof.Machine.execMass unit lane stall s
  | .step unit lane stall => Sys2Proof.Machine.execStep unit lane stall s
  | .heatComplete unit => Sys2Proof.Machine.execHeatComplete unit s
  | .dsuLaneFault unit => Sys2Proof.Machine.execDsuLaneFault unit s
  | .norm unit => Sys2Proof.Machine.execNorm unit s
  | .begin unit => Sys2Proof.Machine.execBegin unit s
  | .apply unit groups => Sys2Proof.Machine.execApply unit groups s
  | .repair unit groups => Sys2Proof.Machine.execRepair unit groups s
  | .puuCommandComplete unit stall parkWait => Sys2Proof.Machine.execPuuCommandComplete unit stall parkWait s
  | .puuCommit src value => Sys2Proof.Machine.execPuuCommit src value s
  | .puuPendingCommitTaken unit => Sys2Proof.Machine.execPuuPendingCommitTaken unit s
  | .puuUnitFault unit => Sys2Proof.Machine.execPuuUnitFault unit s
  | .stackCrcResend block => Sys2Proof.Machine.execStackCrcResend block s
  | .stackChannelRetrain stack ok addr reader => Sys2Proof.Machine.execStackChannelRetrain stack ok addr reader s
  | .memUe addr reader => Sys2Proof.Machine.execMemUe addr reader s
  | .rowSpareComplete row => Sys2Proof.Machine.execRowSpareComplete row s
  | .patrolScrub what => Sys2Proof.Machine.execPatrolScrub what s
  | .stackThermalSample stack readings => Sys2Proof.Machine.execStackThermalSample stack readings s
  | .memCommit src value => Sys2Proof.Machine.execMemCommit src value s
  | .farTierLinkDown port inFlight => Sys2Proof.Machine.execFarTierLinkDown port inFlight s
  | .tierZeroingDone unit => Sys2Proof.Machine.execTierZeroingDone unit s
  | .utilUpdate group => Sys2Proof.Machine.execUtilUpdate group s
  | .loadReq port pkt => Sys2Proof.Machine.execLoadReq port pkt s
  | .storeReq port pkt => Sys2Proof.Machine.execStoreReq port pkt s
  | .putReq port pkt => Sys2Proof.Machine.execPutReq port pkt s
  | .getReq port pkt => Sys2Proof.Machine.execGetReq port pkt s
  | .amoReq port pkt => Sys2Proof.Machine.execAmoReq port pkt s
  | .casReq port pkt => Sys2Proof.Machine.execCasReq port pkt s
  | .faddReq port pkt => Sys2Proof.Machine.execFaddReq port pkt s
  | .handReq port pkt => Sys2Proof.Machine.execHandReq port pkt s
  | .dataRsp port pkt => Sys2Proof.Machine.execDataRsp port pkt s
  | .ackRsp port pkt => Sys2Proof.Machine.execAckRsp port pkt s
  | .packetTransit port pkt => Sys2Proof.Machine.execPacketTransit port pkt s
  | .regionClear src value => Sys2Proof.Machine.execRegionClear src value s
  | .regionClearDone => Sys2Proof.Machine.execRegionClearDone s
  | .portTrainingDone port gen1 => Sys2Proof.Machine.execPortTrainingDone port gen1 s
  | .portTrainingRetry port => Sys2Proof.Machine.execPortTrainingRetry port s
  | .retrain src value => Sys2Proof.Machine.execRetrain src value s
  | .dataFlit port flit marked => Sys2Proof.Machine.execDataFlit port flit marked s
  | .nak port flit marked => Sys2Proof.Machine.execNak port flit marked s
  | .idleFlit port flit marked => Sys2Proof.Machine.execIdleFlit port flit marked s
  | .param port flit marked => Sys2Proof.Machine.execParam port flit marked s
  | .paramPeriodicSend port => Sys2Proof.Machine.execParamPeriodicSend port s
  | .replayTimeout port => Sys2Proof.Machine.execReplayTimeout port s
  | .fastRetrainDone port ok => Sys2Proof.Machine.execFastRetrainDone port ok s
  | .lnkCommit src value => Sys2Proof.Machine.execLnkCommit src value s
  | .tagDrainEnd entry => Sys2Proof.Machine.execTagDrainEnd entry s
  | .routeEntryWrite src value => Sys2Proof.Machine.execRouteEntryWrite src value s
  | .send src unit addr => Sys2Proof.Machine.execSend src unit addr s
  | .recv src unit addr => Sys2Proof.Machine.execRecv src unit addr s
  | .round src unit addr => Sys2Proof.Machine.execRound src unit addr s
  | .rts port pkt => Sys2Proof.Machine.execRts port pkt s
  | .cts port pkt => Sys2Proof.Machine.execCts port pkt s
  | .busy port pkt => Sys2Proof.Machine.execBusy port pkt s
  | .mismatch port pkt => Sys2Proof.Machine.execMismatch port pkt s
  | .cancel port pkt => Sys2Proof.Machine.execCancel port pkt s
  | .colData port pkt => Sys2Proof.Machine.execColData port pkt s
  | .rtsRetry transfer => Sys2Proof.Machine.execRtsRetry transfer s
  | .transferTimeout transfer => Sys2Proof.Machine.execTransferTimeout transfer s
  | .relayOrphanTimeout unit => Sys2Proof.Machine.execRelayOrphanTimeout unit s
  | .arrive port pkt => Sys2Proof.Machine.execArrive port pkt s
  | .release port pkt => Sys2Proof.Machine.execRelease port pkt s
  | .syncExchange frac => Sys2Proof.Machine.execSyncExchange frac s
  | .syncReq port pkt frac turnaround => Sys2Proof.Machine.execSyncReq port pkt frac turnaround s
  | .syncRsp port pkt frac => Sys2Proof.Machine.execSyncRsp port pkt frac s
  | .holdoverLimit => Sys2Proof.Machine.execHoldoverLimit s
  | .timCfgWrite src value => Sys2Proof.Machine.execTimCfgWrite src value s
  | .syncInEdge frac => Sys2Proof.Machine.execSyncInEdge frac s
  | .syncOutPulse => Sys2Proof.Machine.execSyncOutPulse s
  | .launchPost src addr => Sys2Proof.Machine.execLaunchPost src addr s
  | .launchCancel src value => Sys2Proof.Machine.execLaunchCancel src value s
  | .refuse port pkt => Sys2Proof.Machine.execRefuse port pkt s
  | .refuseKeyRetentionEnd tag start => Sys2Proof.Machine.execRefuseKeyRetentionEnd tag start s
  | .startCount => Sys2Proof.Machine.execStartCount s
  | .leaves src unit addr => Sys2Proof.Machine.execLeaves src unit addr s
  | .root src unit addr => Sys2Proof.Machine.execRoot src unit addr s
  | .full src unit addr => Sys2Proof.Machine.execFull src unit addr s
  | .bind src unit addr => Sys2Proof.Machine.execBind src unit addr s
  | .digestCommandComplete unit => Sys2Proof.Machine.execDigestCommandComplete unit s
  | .digEngineFault unit => Sys2Proof.Machine.execDigEngineFault unit s
  | .start src addr => Sys2Proof.Machine.execStart src addr s
  | .seal src addr => Sys2Proof.Machine.execSeal src addr s
  | .check src addr => Sys2Proof.Machine.execCheck src addr s
  | .restore src addr => Sys2Proof.Machine.execRestore src addr s
  | .abandon src addr => Sys2Proof.Machine.execAbandon src addr s
  | .granuleCopyDone ok => Sys2Proof.Machine.execGranuleCopyDone ok s
  | .priorityCopyDone ok => Sys2Proof.Machine.execPriorityCopyDone ok s
  | .priorityRequestRetry granule => Sys2Proof.Machine.execPriorityRequestRetry granule s
  | .splitStartComplete => Sys2Proof.Machine.execSplitStartComplete s
  | .splEngineFault => Sys2Proof.Machine.execSplEngineFault s
  | .poison port pkt => Sys2Proof.Machine.execPoison port pkt s
  | .contextAbort src target => Sys2Proof.Machine.execContextAbort src target s
  | .coreReset src core => Sys2Proof.Machine.execCoreReset src core s
  | .clusterReset src cluster => Sys2Proof.Machine.execClusterReset src cluster s
  | .computeReset src => Sys2Proof.Machine.execComputeReset src s
  | .packageReset src => Sys2Proof.Machine.execPackageReset src s
  | .coldReset src => Sys2Proof.Machine.execColdReset src s
  | .resetComplete => Sys2Proof.Machine.execResetComplete s
  | .d2dPathFail => Sys2Proof.Machine.execD2dPathFail s
  | .memControllerFail stack => Sys2Proof.Machine.execMemControllerFail stack s
  | .colUnitFault unit => Sys2Proof.Machine.execColUnitFault unit s
  | .bar2Write off data => Sys2Proof.Machine.execBar2Write off data s
  | .eventRingConsWrite value => Sys2Proof.Machine.execEventRingConsWrite value s
  | .eventRecordForward => Sys2Proof.Machine.execEventRecordForward s
  | .hostCxlMemAccess addr len data => Sys2Proof.Machine.execHostCxlMemAccess addr len data s
  | .hdmDecoderCommit ways base size => Sys2Proof.Machine.execHdmDecoderCommit ways base size s
  | .biasFlip src value => Sys2Proof.Machine.execBiasFlip src value s
  | .biasFlipDone => Sys2Proof.Machine.execBiasFlipDone s
  | .hifCommit src value => Sys2Proof.Machine.execHifCommit src value s
  | .hostWindowTimeout addr expired reader => Sys2Proof.Machine.execHostWindowTimeout addr expired reader s
  | .mboxAddrWrite src value => Sys2Proof.Machine.execMboxAddrWrite src value s
  | .mailboxSnoop line => Sys2Proof.Machine.execMailboxSnoop line s
  | .mailboxPoll line => Sys2Proof.Machine.execMailboxPoll line s
  | .mboxNop => Sys2Proof.Machine.execMboxNop s
  | .mboxLaunch => Sys2Proof.Machine.execMboxLaunch s
  | .mboxCancel => Sys2Proof.Machine.execMboxCancel s
  | .load => Sys2Proof.Machine.execLoad s
  | .unload => Sys2Proof.Machine.execUnload s
  | .mboxReset => Sys2Proof.Machine.execMboxReset s
  | .mailboxReply => Sys2Proof.Machine.execMailboxReply s
  | .configReadDone bytes => Sys2Proof.Machine.execConfigReadDone bytes s
  | .upstreamLinkTrained cxl width rate => Sys2Proof.Machine.execUpstreamLinkTrained cxl width rate s
  | .bootGo src value => Sys2Proof.Machine.execBootGo src value s
  | .firmwareVerifyDone => Sys2Proof.Machine.execFirmwareVerifyDone s
  | .bootReady tiers => Sys2Proof.Machine.execBootReady tiers s
  | .doeDiscovery inst index => Sys2Proof.Machine.execDoeDiscovery inst index s
  | .cdatTableAccess handle => Sys2Proof.Machine.execCdatTableAccess handle s
  | .doeAbort inst => Sys2Proof.Machine.execDoeAbort inst s
  | .getCert payload => Sys2Proof.Machine.execGetCert payload s
  | .quote payload => Sys2Proof.Machine.execQuote payload s
  | .quoteSigned ok => Sys2Proof.Machine.execQuoteSigned ok s
  | .extend payload => Sys2Proof.Machine.execExtend payload s
  | .fuseRevoke src slot => Sys2Proof.Machine.execFuseRevoke src slot s
  | .fuseAdvance src svn => Sys2Proof.Machine.execFuseAdvance src svn s
  | .fuseProgramDone => Sys2Proof.Machine.execFuseProgramDone s
  | .inputSample vinMv iin iin200 => Sys2Proof.Machine.execInputSample vinMv iin iin200 s
  | .powerOffComplete => Sys2Proof.Machine.execPowerOffComplete s
  | .railFault rail overheat => Sys2Proof.Machine.execRailFault rail overheat s
  | .powerEvaluation watts pairWatts => Sys2Proof.Machine.execPowerEvaluation watts pairWatts s
  | .thermalPacingSample junctions => Sys2Proof.Machine.execThermalPacingSample junctions s
  | .pwrCommit src value => Sys2Proof.Machine.execPwrCommit src value s
  | .restEntry cluster => Sys2Proof.Machine.execRestEntry cluster s
  | .forceAwake src value => Sys2Proof.Machine.execForceAwake src value s
  | .pllLocked cluster => Sys2Proof.Machine.execPllLocked cluster s
  | .mgtUtilWindow percent => Sys2Proof.Machine.execMgtUtilWindow percent s
  | .telemetrySnapshot => Sys2Proof.Machine.execTelemetrySnapshot s
  | .mgtTelCommit src value => Sys2Proof.Machine.execMgtTelCommit src value s
  | .watchdogKick src value => Sys2Proof.Machine.execWatchdogKick src value s
  | .watchdogExpiry => Sys2Proof.Machine.execWatchdogExpiry s
  | .mgtRestartDone => Sys2Proof.Machine.execMgtRestartDone s
  | .i3cReadRequest bytes => Sys2Proof.Machine.execI3cReadRequest bytes s
  | .i3cRegisterWrite bytes => Sys2Proof.Machine.execI3cRegisterWrite bytes s
  | .i3cPrivateRead => Sys2Proof.Machine.execI3cPrivateRead s
  | .entdaa addr => Sys2Proof.Machine.execEntdaa addr s
  | .setdasa static addr => Sys2Proof.Machine.execSetdasa static addr s
  | .setnewda addr => Sys2Proof.Machine.execSetnewda addr s
  | .rstdaa => Sys2Proof.Machine.execRstdaa s
  | .enec events => Sys2Proof.Machine.execEnec events s
  | .disec events => Sys2Proof.Machine.execDisec events s
  | .getpid => Sys2Proof.Machine.execGetpid s
  | .getbcr => Sys2Proof.Machine.execGetbcr s
  | .getdcr => Sys2Proof.Machine.execGetdcr s
  | .getstatus => Sys2Proof.Machine.execGetstatus s
  | .getmwl => Sys2Proof.Machine.execGetmwl s
  | .getmrl => Sys2Proof.Machine.execGetmrl s
  | .pwrGoodRise pos testen disagree => Sys2Proof.Machine.execPwrGoodRise pos testen disagree s
  | .pwrGoodFall => Sys2Proof.Machine.execPwrGoodFall s
  | .coldRstNAssert => Sys2Proof.Machine.execColdRstNAssert s
  | .coldRstNDeassert pos testen disagree => Sys2Proof.Machine.execColdRstNDeassert pos testen disagree s
  | .pkgRstNAssert => Sys2Proof.Machine.execPkgRstNAssert s
  | .pkgRstNDeassert => Sys2Proof.Machine.execPkgRstNDeassert s
  | .perstNAssert => Sys2Proof.Machine.execPerstNAssert s
  | .perstNDeassert => Sys2Proof.Machine.execPerstNDeassert s
  | .refclkLoss => Sys2Proof.Machine.execRefclkLoss s
  | .refclkRestored pos testen disagree => Sys2Proof.Machine.execRefclkRestored pos testen disagree s
  | .pinPulseRejected pin => Sys2Proof.Machine.execPinPulseRejected pin s
  | .registerRead src off size => Sys2Proof.Machine.execRegisterRead src off size s
  | .configWrite w => Sys2Proof.Machine.execConfigWrite w s
  | .alwaysOnPowerUp => Sys2Proof.Machine.execAlwaysOnPowerUp s
  | .alwaysOnPowerLoss => Sys2Proof.Machine.execAlwaysOnPowerLoss s
  | .transferComplete transfer => Sys2Proof.Machine.execTransferComplete transfer s
  | .splitCommandComplete => Sys2Proof.Machine.execSplitCommandComplete s

end Sys2Proof.Machine
end

