-- ==== Sys2Proof/Machine/Tick.lean ====
section
/-! DEFINITION. What happens at a tick whatever is commanded (DESIGN CHOICE, log entry 1): the counter and its correction (R264, R267),
hand-offs that take effect (R202), requests that go on behind them, the clusters seen busy (R376), fuse bits
blown one after another (R359), a snapshot that waits for the management processor (R384). -/

namespace Sys2Proof.Machine

/-! ### Hand-offs (R202) -/

/-- A hand-off takes effect: the region's state and owner are set, it is counted, and who asked hears of it. -/
def State.takeEffect (s : State) (c : Change) : State :=
  let s := ({ s with changes := s.changes.erase c } : State).setRegion c.region c.state c.owner
  let s := s.count F.FAB_STATS.HANDOFFS
  match c.told with
  | .packet pk => s.reply pk ST.OK []
  | .self h n => s.answer (hartKey h) n ST.OK []
  | .nobody => s

/-- One change looked at: while requests accepted before it wait, it waits; then 20 ticks pass. -/
def State.changeStep (s : State) (c : Change) : State :=
  match c.due with
  | some t => if t ≤ s.now then s.takeEffect c else s
  | none =>
    if s.regionBusy c.region then s
    else { s with changes := s.changes.map fun d => if d == c then { c with due := some (s.now + 20) } else d }

/-- Requests that waited for a region's change are judged now, in order of arrival (R202, R204). -/
def State.releaseChanged (s : State) : State :=
  let ready (h : Held) : Bool := 0x20000000000 ≤ h.granule && !s.changing (h.granule - 0x20000000000)
  let mine := s.heldWrites.filter ready
  mine.foldl (fun s h => s.release1 h.op) { s with heldWrites := s.heldWrites.filter fun h => !ready h }

/-- The changes and what waited for them. -/
def State.changesStep (s : State) : State := (s.changes.foldl State.changeStep s).releaseChanged

/-! ### The tick -/

/-- The counter's tick (R264, R267): a root slews only after SYNC_IN (R270). -/
def State.countTick (s : State) : State :=
  let (n, y) := s.sync.step s.now
  { s.tick n with sync := y }

/-- The always-on domain's count, and the clusters seen busy (R376). -/
def State.busyTick (s : State) : State :=
  let t := s.pwr.ticks + 1
  let busy := s.touchedClusters.filter s.clusterBusy
  { s with pwr := { s.pwr with ticks := t, busyAt := busy.foldl (fun l c => mapSet (fun _ => 0) c t l) s.pwr.busyAt } }

/-- One tick of the block. -/
def State.oneTick (s : State) : State := s.countTick.busyTick.fuseStep.telFlush.changesStep.settle

end Sys2Proof.Machine
end

