-- ==== Sys2Proof/Laws/Data.lean ====
section
/-! SUPPORT. Laws of the plain data: sparse maps, association lists, little-endian bytes, fields of a word. -/

namespace Sys2Proof.Machine

/-- A key below every key of the map holds its default. -/
theorem mapGet_of_above {α : Type} {d : Nat → α} {k lo : Nat} {m : List (Nat × α)} (h : keysAbove lo m = true)
    (hk : k ≤ lo) : mapGet d k m = d k := by
  cases m with
  | nil => rfl
  | cons e m =>
    simp only [keysAbove, List.all_cons, Bool.and_eq_true, decide_eq_true_eq] at h
    have h1 : k ≠ e.1 := by omega
    have h2 : k < e.1 := by omega
    simp [mapGet, h1, h2]

section Maps
variable {α : Type} [DecidableEq α] {d : Nat → α}

/-- A set key above the bound stays above it. -/
theorem keysAbove_mapSet {k lo : Nat} {v : α} {m : List (Nat × α)} (h : keysAbove lo m = true) (hk : lo < k) :
    keysAbove lo (mapSet d k v m) = true := by
  induction m with
  | nil => by_cases hv : v = d k <;> simp [mapSet, hv, keysAbove, hk]
  | cons e m ih =>
    simp only [keysAbove, List.all_cons, Bool.and_eq_true, decide_eq_true_eq] at h
    have ih' := ih (by simpa [keysAbove] using h.2)
    simp only [mapSet]
    split
    · split
      · simpa [keysAbove] using h.2
      · simpa [keysAbove, hk] using h.2
    · split
      · split
        · simpa [keysAbove] using h
        · simpa [keysAbove, hk] using h
      · simp only [keysAbove, List.all_cons, Bool.and_eq_true, decide_eq_true_eq]
        exact ⟨h.1, by simpa [keysAbove] using ih'⟩

/-- Setting a key keeps the canonical form. -/
theorem mapWf_mapSet {k : Nat} {v : α} {m : List (Nat × α)} (h : mapWf d m = true) : mapWf d (mapSet d k v m) = true := by
  induction m with
  | nil => by_cases hv : v = d k <;> simp [mapSet, hv, mapWf, keysAbove]
  | cons e m ih =>
    obtain ⟨k', v'⟩ := e
    simp only [mapWf, Bool.and_eq_true, decide_eq_true_eq] at h
    obtain ⟨⟨hne, hab⟩, hm⟩ := h
    simp only [mapSet]
    split
    · rename_i heq
      subst heq
      split
      · exact hm
      · rename_i hv
        simp [mapWf, hv, hab, hm]
    · split
      · rename_i hlt
        have hup : keysAbove k m = true := by
          simp only [keysAbove, List.all_eq_true, decide_eq_true_eq] at hab ⊢
          intro x hx
          have := hab x hx
          omega
        split
        · simp [mapWf, hne, hab, hm]
        · rename_i hv
          simp only [mapWf, keysAbove, List.all_cons, Bool.and_eq_true, decide_eq_true_eq]
          exact ⟨⟨hv, hlt, by simpa [keysAbove] using hup⟩, ⟨hne, by simpa [keysAbove] using hab⟩, hm⟩
      · rename_i hne' hnlt
        simp only [mapWf, Bool.and_eq_true, decide_eq_true_eq]
        exact ⟨⟨hne, keysAbove_mapSet hab (by omega)⟩, ih hm⟩

/-- A map whose matching entries are dropped stays canonical. -/
theorem mapWf_filter {p : Nat × α → Bool} {m : List (Nat × α)} (h : mapWf d m = true) : mapWf d (m.filter p) = true := by
  induction m with
  | nil => rfl
  | cons e m ih =>
    obtain ⟨k, v⟩ := e
    simp only [mapWf, Bool.and_eq_true, decide_eq_true_eq] at h
    obtain ⟨⟨hne, hab⟩, hm⟩ := h
    simp only [List.filter_cons]
    split
    · simp only [mapWf, Bool.and_eq_true, decide_eq_true_eq]
      refine ⟨⟨hne, ?_⟩, ih hm⟩
      simp only [keysAbove, List.all_eq_true, decide_eq_true_eq] at hab ⊢
      intro x hx
      exact hab x (List.mem_filter.mp hx).1
    · exact ih hm

/-- Erasing keeps the canonical form. -/
theorem mapWf_mapErase {lo n : Nat} {m : List (Nat × α)} (h : mapWf d m = true) : mapWf d (mapErase lo n m) = true :=
  mapWf_filter h

/-- A set key reads back. -/
theorem mapGet_mapSet_same {k : Nat} {v : α} {m : List (Nat × α)} (h : mapWf d m = true) :
    mapGet d k (mapSet d k v m) = v := by
  induction m with
  | nil => by_cases hv : v = d k <;> simp [mapSet, hv, mapGet]
  | cons e m ih =>
    obtain ⟨k', v'⟩ := e
    simp only [mapWf, Bool.and_eq_true, decide_eq_true_eq] at h
    obtain ⟨⟨_, hab⟩, hm⟩ := h
    simp only [mapSet]
    split
    · rename_i heq
      subst heq
      split
      · rename_i hv
        rw [mapGet_of_above hab (Nat.le_refl _), hv]
      · simp [mapGet]
    · split
      · rename_i hne hlt
        split
        · rename_i hv
          simp [mapGet, hne, hlt, hv]
        · simp [mapGet]
      · rename_i hne hnlt
        simp [mapGet, hne, hnlt, ih hm]

/-- Other keys keep what they held. -/
theorem mapGet_mapSet_other {k j : Nat} {v : α} {m : List (Nat × α)} (h : mapWf d m = true) (hj : j ≠ k) :
    mapGet d j (mapSet d k v m) = mapGet d j m := by
  induction m with
  | nil =>
    by_cases hv : v = d k
    · simp [mapSet, hv]
    · simp [mapSet, hv, mapGet, hj]
  | cons e m ih =>
    obtain ⟨k', v'⟩ := e
    simp only [mapWf, Bool.and_eq_true, decide_eq_true_eq] at h
    obtain ⟨⟨_, hab⟩, hm⟩ := h
    simp only [mapSet]
    split
    · rename_i heq
      subst heq
      split
      · simp only [mapGet, hj, if_false]
        split
        · rename_i hlt
          rw [mapGet_of_above hab (Nat.le_of_lt hlt)]
        · rfl
      · simp [mapGet, hj]
    · split
      · rename_i hne hlt
        split
        · rfl
        · simp only [mapGet, hj, if_false]
          split
          · rename_i hjk
            have h1 : j ≠ k' := by omega
            have h2 : j < k' := by omega
            simp [h1, h2]
          · rfl
      · rename_i hne hnlt
        simp only [mapGet, ih hm]

end Maps

/-- An association list reads back what was set. -/
@[simp] theorem assocGet_assocSet_same {α : Type} (k : Nat) (v : α) (m : List (Nat × α)) :
    assocGet k (assocSet k v m) = some v := by
  induction m with
  | nil => simp [assocSet, assocGet]
  | cons e m ih =>
    obtain ⟨k', v'⟩ := e
    simp only [assocSet]
    split
    · simp [assocGet]
    · split
      · simp [assocGet]
      · rename_i h _
        simp [assocGet, h, ih]

/-- Other keys of an association list keep what they held. -/
theorem assocGet_assocSet_other {α : Type} {k j : Nat} (v : α) (m : List (Nat × α)) (h : j ≠ k) :
    assocGet j (assocSet k v m) = assocGet j m := by
  induction m with
  | nil => simp [assocSet, assocGet, h]
  | cons e m ih =>
    obtain ⟨k', v'⟩ := e
    simp only [assocSet]
    split
    · rename_i he
      subst he
      simp [assocGet, h]
    · split
      · simp [assocGet, h]
      · simp only [assocGet, ih]

/-- The little-endian string has the length asked for. -/
@[simp] theorem leBytes_length (n v : Nat) : (leBytes n v).length = n := by
  induction n generalizing v with
  | zero => rfl
  | succ n ih => simp [leBytes, ih]

/-- A number read back from its little-endian bytes (R7). -/
theorem ofLe_leBytes (n v : Nat) : ofLe (leBytes n v) = v % 2 ^ (8 * n) := by
  induction n generalizing v with
  | zero => simp [leBytes, ofLe, Nat.mod_one]
  | succ n ih =>
    simp only [leBytes, ofLe, ih, BitVec.toNat_ofNat]
    have : 2 ^ (8 * (n + 1)) = 2 ^ 8 * 2 ^ (8 * n) := by rw [← Nat.pow_add]; congr 1; omega
    have e : v % 2 ^ (8 * (n + 1)) = v % 2 ^ 8 + 2 ^ 8 * (v / 2 ^ 8 % 2 ^ (8 * n)) := by rw [this, Nat.mod_mul]
    exact e.symm

/-- The ones of a field's mask. -/
theorem wordMask_getElem (hi lo i : Nat) (h : i < 64) : (wordMask hi lo)[i] = decide (lo ≤ i ∧ i ≤ hi) := by
  rw [← BitVec.getLsbD_eq_getElem h, wordMask, BitVec.getLsbD_ofNat, Nat.testBit_mul_two_pow,
    Nat.testBit_two_pow_sub_one]
  by_cases h1 : lo ≤ i <;> by_cases h2 : i ≤ hi <;> simp [h1, h2, h] <;> omega

/-- Bit i of a field. -/
theorem wordGet_testBit (w : Word64) (hi lo i : Nat) :
    (wordGet w hi lo).testBit i = (decide (i < hi + 1 - lo) && w.getLsbD (i + lo)) := by
  simp only [wordGet, bitsOf, Nat.testBit_mod_two_pow, Nat.testBit_div_two_pow, BitVec.getLsbD]

/-- A field reads back what was put into it. -/
theorem wordGet_wordPut_same (w : Word64) (hi lo v : Nat) (hhi : hi < 64) :
    wordGet (wordPut w hi lo v) hi lo = v % 2 ^ (hi + 1 - lo) := by
  apply Nat.eq_of_testBit_eq
  intro i
  rw [wordGet_testBit _ _ _ _, Nat.testBit_mod_two_pow]
  by_cases hi' : i < hi + 1 - lo
  · have h4 : i + lo < 64 := by omega
    have h5 : lo ≤ i + lo ∧ i + lo ≤ hi := by omega
    have h6 : (BitVec.ofNat 64 (v * 2 ^ lo))[i + lo] = v.testBit i := by
      rw [← BitVec.getLsbD_eq_getElem h4, BitVec.getLsbD_ofNat, Nat.testBit_mul_two_pow]
      simp [h4]
    simp [wordPut, BitVec.getLsbD_eq_getElem h4, wordMask_getElem _ _ _ h4, h5.2, hi', h6]
  · simp [hi']

/-- A field keeps its value when a field apart from it is put. -/
theorem wordGet_wordPut_other (w : Word64) (hi lo v h l : Nat) (hh : h < 64) (apart : h < lo ∨ hi < l) :
    wordGet (wordPut w hi lo v) h l = wordGet w h l := by
  apply Nat.eq_of_testBit_eq
  intro i
  rw [wordGet_testBit _ _ _ _, wordGet_testBit _ _ _ _]
  by_cases hi' : i < h + 1 - l
  · have h4 : i + l < 64 := by omega
    have h5 : ¬(lo ≤ i + l ∧ i + l ≤ hi) := by omega
    simp only [hi', decide_true, Bool.true_and, BitVec.getLsbD_eq_getElem h4, wordPut, BitVec.getElem_or,
      BitVec.getElem_and, BitVec.getElem_not, wordMask_getElem _ _ _ h4, h5, decide_false, Bool.not_false, Bool.and_true,
      Bool.and_false, Bool.or_false]
  · simp [hi']

end Sys2Proof.Machine
end

