-- ==== Sys2Proof/Laws/State.lean ====
section
/-! SUPPORT. One lemma per field per update of State, each true by rfl, so that no proof unfolds a record update. -/

namespace Sys2Proof.Machine

variable (s : State)

/-! ### setReg -/

@[simp] theorem State.setReg_now (off u : Nat) (w : Word64) : (s.setReg off u w).now = s.now := rfl
@[simp] theorem State.setReg_pending (off u : Nat) (w : Word64) : (s.setReg off u w).pending = s.pending := rfl
@[simp] theorem State.setReg_fresh (off u : Nat) (w : Word64) : (s.setReg off u w).fresh = s.fresh := rfl
@[simp] theorem State.setReg_outbox (off u : Nat) (w : Word64) : (s.setReg off u w).outbox = s.outbox := rfl
@[simp] theorem State.setReg_staged (off u : Nat) (w : Word64) : (s.setReg off u w).staged = s.staged := rfl
@[simp] theorem State.setReg_held (off u : Nat) (w : Word64) : (s.setReg off u w).held = s.held := rfl
@[simp] theorem State.setReg_heldStage (off u : Nat) (w : Word64) : (s.setReg off u w).heldStage = s.heldStage := rfl
@[simp] theorem State.setReg_hw (off u : Nat) (w : Word64) : (s.setReg off u w).hw = s.hw := rfl
@[simp] theorem State.setReg_mem (off u : Nat) (w : Word64) : (s.setReg off u w).mem = s.mem := rfl
@[simp] theorem State.setReg_hostMem (off u : Nat) (w : Word64) : (s.setReg off u w).hostMem = s.hostMem := rfl
@[simp] theorem State.setReg_bootMem (off u : Nat) (w : Word64) : (s.setReg off u w).bootMem = s.bootMem := rfl
@[simp] theorem State.setReg_poisoned (off u : Nat) (w : Word64) : (s.setReg off u w).poisoned = s.poisoned := rfl
@[simp] theorem State.setReg_rowErrors (off u : Nat) (w : Word64) : (s.setReg off u w).rowErrors = s.rowErrors := rfl
@[simp] theorem State.setReg_sparing (off u : Nat) (w : Word64) : (s.setReg off u w).sparing = s.sparing := rfl
@[simp] theorem State.setReg_spared (off u : Nat) (w : Word64) : (s.setReg off u w).spared = s.spared := rfl
@[simp] theorem State.setReg_blocks (off u : Nat) (w : Word64) : (s.setReg off u w).blocks = s.blocks := rfl
@[simp] theorem State.setReg_ueDue (off u : Nat) (w : Word64) : (s.setReg off u w).ueDue = s.ueDue := rfl
@[simp] theorem State.setReg_harts (off u : Nat) (w : Word64) : (s.setReg off u w).harts = s.harts := rfl
@[simp] theorem State.setReg_cores (off u : Nat) (w : Word64) : (s.setReg off u w).cores = s.cores := rfl
@[simp] theorem State.setReg_regions (off u : Nat) (w : Word64) : (s.setReg off u w).regions = s.regions := rfl
@[simp] theorem State.setReg_changes (off u : Nat) (w : Word64) : (s.setReg off u w).changes = s.changes := rfl
@[simp] theorem State.setReg_clearing (off u : Nat) (w : Word64) : (s.setReg off u w).clearing = s.clearing := rfl
@[simp] theorem State.setReg_protectedGranules (off u : Nat) (w : Word64) : (s.setReg off u w).protectedGranules = s.protectedGranules := rfl
@[simp] theorem State.setReg_heldWrites (off u : Nat) (w : Word64) : (s.setReg off u w).heldWrites = s.heldWrites := rfl
@[simp] theorem State.setReg_resetting (off u : Nat) (w : Word64) : (s.setReg off u w).resetting = s.resetting := rfl
@[simp] theorem State.setReg_engines (off u : Nat) (w : Word64) : (s.setReg off u w).engines = s.engines := rfl
@[simp] theorem State.setReg_dsus (off u : Nat) (w : Word64) : (s.setReg off u w).dsus = s.dsus := rfl
@[simp] theorem State.setReg_puus (off u : Nat) (w : Word64) : (s.setReg off u w).puus = s.puus := rfl
@[simp] theorem State.setReg_digs (off u : Nat) (w : Word64) : (s.setReg off u w).digs = s.digs := rfl
@[simp] theorem State.setReg_digBytes (off u : Nat) (w : Word64) : (s.setReg off u w).digBytes = s.digBytes := rfl
@[simp] theorem State.setReg_ports (off u : Nat) (w : Word64) : (s.setReg off u w).ports = s.ports := rfl
@[simp] theorem State.setReg_traffic (off u : Nat) (w : Word64) : (s.setReg off u w).traffic = s.traffic := rfl
@[simp] theorem State.setReg_zeroing (off u : Nat) (w : Word64) : (s.setReg off u w).zeroing = s.zeroing := rfl
@[simp] theorem State.setReg_fencedStacks (off u : Nat) (w : Word64) : (s.setReg off u w).fencedStacks = s.fencedStacks := rfl
@[simp] theorem State.setReg_fencedCols (off u : Nat) (w : Word64) : (s.setReg off u w).fencedCols = s.fencedCols := rfl
@[simp] theorem State.setReg_fencedSplit (off u : Nat) (w : Word64) : (s.setReg off u w).fencedSplit = s.fencedSplit := rfl
@[simp] theorem State.setReg_log (off u : Nat) (w : Word64) : (s.setReg off u w).log = s.log := rfl
@[simp] theorem State.setReg_forward (off u : Nat) (w : Word64) : (s.setReg off u w).forward = s.forward := rfl
@[simp] theorem State.setReg_poisonMet (off u : Nat) (w : Word64) : (s.setReg off u w).poisonMet = s.poisonMet := rfl
@[simp] theorem State.setReg_origins (off u : Nat) (w : Word64) : (s.setReg off u w).origins = s.origins := rfl
@[simp] theorem State.setReg_forwarded (off u : Nat) (w : Word64) : (s.setReg off u w).forwarded = s.forwarded := rfl
@[simp] theorem State.setReg_comms (off u : Nat) (w : Word64) : (s.setReg off u w).comms = s.comms := rfl
@[simp] theorem State.setReg_xfers (off u : Nat) (w : Word64) : (s.setReg off u w).xfers = s.xfers := rfl
@[simp] theorem State.setReg_nextXfer (off u : Nat) (w : Word64) : (s.setReg off u w).nextXfer = s.nextXfer := rfl
@[simp] theorem State.setReg_matchGens (off u : Nat) (w : Word64) : (s.setReg off u w).matchGens = s.matchGens := rfl
@[simp] theorem State.setReg_tiles (off u : Nat) (w : Word64) : (s.setReg off u w).tiles = s.tiles := rfl
@[simp] theorem State.setReg_pendingLaunch (off u : Nat) (w : Word64) : (s.setReg off u w).pendingLaunch = s.pendingLaunch := rfl
@[simp] theorem State.setReg_running (off u : Nat) (w : Word64) : (s.setReg off u w).running = s.running := rfl
@[simp] theorem State.setReg_keys (off u : Nat) (w : Word64) : (s.setReg off u w).keys = s.keys := rfl
@[simp] theorem State.setReg_image (off u : Nat) (w : Word64) : (s.setReg off u w).image = s.image := rfl
@[simp] theorem State.setReg_unloadDue (off u : Nat) (w : Word64) : (s.setReg off u w).unloadDue = s.unloadDue := rfl
@[simp] theorem State.setReg_splQueue (off u : Nat) (w : Word64) : (s.setReg off u w).splQueue = s.splQueue := rfl
@[simp] theorem State.setReg_splRun (off u : Nat) (w : Word64) : (s.setReg off u w).splRun = s.splRun := rfl
@[simp] theorem State.setReg_splPrio (off u : Nat) (w : Word64) : (s.setReg off u w).splPrio = s.splPrio := rfl
@[simp] theorem State.setReg_msixOn (off u : Nat) (w : Word64) : (s.setReg off u w).msixOn = s.msixOn := rfl
@[simp] theorem State.setReg_rotNode (off u : Nat) (w : Word64) : (s.setReg off u w).rotNode = s.rotNode := rfl
@[simp] theorem State.setReg_rotGroup (off u : Nat) (w : Word64) : (s.setReg off u w).rotGroup = s.rotGroup := rfl
@[simp] theorem State.setReg_sync (off u : Nat) (w : Word64) : (s.setReg off u w).sync = s.sync := rfl
@[simp] theorem State.setReg_mrs (off u : Nat) (w : Word64) : (s.setReg off u w).mrs = s.mrs := rfl
@[simp] theorem State.setReg_pwr (off u : Nat) (w : Word64) : (s.setReg off u w).pwr = s.pwr := rfl
@[simp] theorem State.setReg_i3c (off u : Nat) (w : Word64) : (s.setReg off u w).i3c = s.i3c := rfl
@[simp] theorem State.setReg_mgt (off u : Nat) (w : Word64) : (s.setReg off u w).mgt = s.mgt := rfl
@[simp] theorem State.setReg_host (off u : Nat) (w : Word64) : (s.setReg off u w).host = s.host := rfl
@[simp] theorem State.setReg_sec (off u : Nat) (w : Word64) : (s.setReg off u w).sec = s.sec := rfl
@[simp] theorem State.setReg_cfg (off u : Nat) (w : Word64) : (s.setReg off u w).cfg = s.cfg := rfl

/-! ### setStg -/

@[simp] theorem State.setStg_now (off u : Nat) (w : Word64) : (s.setStg off u w).now = s.now := rfl
@[simp] theorem State.setStg_pending (off u : Nat) (w : Word64) : (s.setStg off u w).pending = s.pending := rfl
@[simp] theorem State.setStg_fresh (off u : Nat) (w : Word64) : (s.setStg off u w).fresh = s.fresh := rfl
@[simp] theorem State.setStg_outbox (off u : Nat) (w : Word64) : (s.setStg off u w).outbox = s.outbox := rfl
@[simp] theorem State.setStg_regs (off u : Nat) (w : Word64) : (s.setStg off u w).regs = s.regs := rfl
@[simp] theorem State.setStg_held (off u : Nat) (w : Word64) : (s.setStg off u w).held = s.held := rfl
@[simp] theorem State.setStg_heldStage (off u : Nat) (w : Word64) : (s.setStg off u w).heldStage = s.heldStage := rfl
@[simp] theorem State.setStg_hw (off u : Nat) (w : Word64) : (s.setStg off u w).hw = s.hw := rfl
@[simp] theorem State.setStg_mem (off u : Nat) (w : Word64) : (s.setStg off u w).mem = s.mem := rfl
@[simp] theorem State.setStg_hostMem (off u : Nat) (w : Word64) : (s.setStg off u w).hostMem = s.hostMem := rfl
@[simp] theorem State.setStg_bootMem (off u : Nat) (w : Word64) : (s.setStg off u w).bootMem = s.bootMem := rfl
@[simp] theorem State.setStg_poisoned (off u : Nat) (w : Word64) : (s.setStg off u w).poisoned = s.poisoned := rfl
@[simp] theorem State.setStg_rowErrors (off u : Nat) (w : Word64) : (s.setStg off u w).rowErrors = s.rowErrors := rfl
@[simp] theorem State.setStg_sparing (off u : Nat) (w : Word64) : (s.setStg off u w).sparing = s.sparing := rfl
@[simp] theorem State.setStg_spared (off u : Nat) (w : Word64) : (s.setStg off u w).spared = s.spared := rfl
@[simp] theorem State.setStg_blocks (off u : Nat) (w : Word64) : (s.setStg off u w).blocks = s.blocks := rfl
@[simp] theorem State.setStg_ueDue (off u : Nat) (w : Word64) : (s.setStg off u w).ueDue = s.ueDue := rfl
@[simp] theorem State.setStg_harts (off u : Nat) (w : Word64) : (s.setStg off u w).harts = s.harts := rfl
@[simp] theorem State.setStg_cores (off u : Nat) (w : Word64) : (s.setStg off u w).cores = s.cores := rfl
@[simp] theorem State.setStg_regions (off u : Nat) (w : Word64) : (s.setStg off u w).regions = s.regions := rfl
@[simp] theorem State.setStg_changes (off u : Nat) (w : Word64) : (s.setStg off u w).changes = s.changes := rfl
@[simp] theorem State.setStg_clearing (off u : Nat) (w : Word64) : (s.setStg off u w).clearing = s.clearing := rfl
@[simp] theorem State.setStg_protectedGranules (off u : Nat) (w : Word64) : (s.setStg off u w).protectedGranules = s.protectedGranules := rfl
@[simp] theorem State.setStg_heldWrites (off u : Nat) (w : Word64) : (s.setStg off u w).heldWrites = s.heldWrites := rfl
@[simp] theorem State.setStg_resetting (off u : Nat) (w : Word64) : (s.setStg off u w).resetting = s.resetting := rfl
@[simp] theorem State.setStg_engines (off u : Nat) (w : Word64) : (s.setStg off u w).engines = s.engines := rfl
@[simp] theorem State.setStg_dsus (off u : Nat) (w : Word64) : (s.setStg off u w).dsus = s.dsus := rfl
@[simp] theorem State.setStg_puus (off u : Nat) (w : Word64) : (s.setStg off u w).puus = s.puus := rfl
@[simp] theorem State.setStg_digs (off u : Nat) (w : Word64) : (s.setStg off u w).digs = s.digs := rfl
@[simp] theorem State.setStg_digBytes (off u : Nat) (w : Word64) : (s.setStg off u w).digBytes = s.digBytes := rfl
@[simp] theorem State.setStg_ports (off u : Nat) (w : Word64) : (s.setStg off u w).ports = s.ports := rfl
@[simp] theorem State.setStg_traffic (off u : Nat) (w : Word64) : (s.setStg off u w).traffic = s.traffic := rfl
@[simp] theorem State.setStg_zeroing (off u : Nat) (w : Word64) : (s.setStg off u w).zeroing = s.zeroing := rfl
@[simp] theorem State.setStg_fencedStacks (off u : Nat) (w : Word64) : (s.setStg off u w).fencedStacks = s.fencedStacks := rfl
@[simp] theorem State.setStg_fencedCols (off u : Nat) (w : Word64) : (s.setStg off u w).fencedCols = s.fencedCols := rfl
@[simp] theorem State.setStg_fencedSplit (off u : Nat) (w : Word64) : (s.setStg off u w).fencedSplit = s.fencedSplit := rfl
@[simp] theorem State.setStg_log (off u : Nat) (w : Word64) : (s.setStg off u w).log = s.log := rfl
@[simp] theorem State.setStg_forward (off u : Nat) (w : Word64) : (s.setStg off u w).forward = s.forward := rfl
@[simp] theorem State.setStg_poisonMet (off u : Nat) (w : Word64) : (s.setStg off u w).poisonMet = s.poisonMet := rfl
@[simp] theorem State.setStg_origins (off u : Nat) (w : Word64) : (s.setStg off u w).origins = s.origins := rfl
@[simp] theorem State.setStg_forwarded (off u : Nat) (w : Word64) : (s.setStg off u w).forwarded = s.forwarded := rfl
@[simp] theorem State.setStg_comms (off u : Nat) (w : Word64) : (s.setStg off u w).comms = s.comms := rfl
@[simp] theorem State.setStg_xfers (off u : Nat) (w : Word64) : (s.setStg off u w).xfers = s.xfers := rfl
@[simp] theorem State.setStg_nextXfer (off u : Nat) (w : Word64) : (s.setStg off u w).nextXfer = s.nextXfer := rfl
@[simp] theorem State.setStg_matchGens (off u : Nat) (w : Word64) : (s.setStg off u w).matchGens = s.matchGens := rfl
@[simp] theorem State.setStg_tiles (off u : Nat) (w : Word64) : (s.setStg off u w).tiles = s.tiles := rfl
@[simp] theorem State.setStg_pendingLaunch (off u : Nat) (w : Word64) : (s.setStg off u w).pendingLaunch = s.pendingLaunch := rfl
@[simp] theorem State.setStg_running (off u : Nat) (w : Word64) : (s.setStg off u w).running = s.running := rfl
@[simp] theorem State.setStg_keys (off u : Nat) (w : Word64) : (s.setStg off u w).keys = s.keys := rfl
@[simp] theorem State.setStg_image (off u : Nat) (w : Word64) : (s.setStg off u w).image = s.image := rfl
@[simp] theorem State.setStg_unloadDue (off u : Nat) (w : Word64) : (s.setStg off u w).unloadDue = s.unloadDue := rfl
@[simp] theorem State.setStg_splQueue (off u : Nat) (w : Word64) : (s.setStg off u w).splQueue = s.splQueue := rfl
@[simp] theorem State.setStg_splRun (off u : Nat) (w : Word64) : (s.setStg off u w).splRun = s.splRun := rfl
@[simp] theorem State.setStg_splPrio (off u : Nat) (w : Word64) : (s.setStg off u w).splPrio = s.splPrio := rfl
@[simp] theorem State.setStg_msixOn (off u : Nat) (w : Word64) : (s.setStg off u w).msixOn = s.msixOn := rfl
@[simp] theorem State.setStg_rotNode (off u : Nat) (w : Word64) : (s.setStg off u w).rotNode = s.rotNode := rfl
@[simp] theorem State.setStg_rotGroup (off u : Nat) (w : Word64) : (s.setStg off u w).rotGroup = s.rotGroup := rfl
@[simp] theorem State.setStg_sync (off u : Nat) (w : Word64) : (s.setStg off u w).sync = s.sync := rfl
@[simp] theorem State.setStg_mrs (off u : Nat) (w : Word64) : (s.setStg off u w).mrs = s.mrs := rfl
@[simp] theorem State.setStg_pwr (off u : Nat) (w : Word64) : (s.setStg off u w).pwr = s.pwr := rfl
@[simp] theorem State.setStg_i3c (off u : Nat) (w : Word64) : (s.setStg off u w).i3c = s.i3c := rfl
@[simp] theorem State.setStg_mgt (off u : Nat) (w : Word64) : (s.setStg off u w).mgt = s.mgt := rfl
@[simp] theorem State.setStg_host (off u : Nat) (w : Word64) : (s.setStg off u w).host = s.host := rfl
@[simp] theorem State.setStg_sec (off u : Nat) (w : Word64) : (s.setStg off u w).sec = s.sec := rfl
@[simp] theorem State.setStg_cfg (off u : Nat) (w : Word64) : (s.setStg off u w).cfg = s.cfg := rfl

/-! ### setFld -/

@[simp] theorem State.setFld_now (f : Fld) (v u : Nat) : (s.setFld f v u).now = s.now := rfl
@[simp] theorem State.setFld_pending (f : Fld) (v u : Nat) : (s.setFld f v u).pending = s.pending := rfl
@[simp] theorem State.setFld_fresh (f : Fld) (v u : Nat) : (s.setFld f v u).fresh = s.fresh := rfl
@[simp] theorem State.setFld_outbox (f : Fld) (v u : Nat) : (s.setFld f v u).outbox = s.outbox := rfl
@[simp] theorem State.setFld_staged (f : Fld) (v u : Nat) : (s.setFld f v u).staged = s.staged := rfl
@[simp] theorem State.setFld_held (f : Fld) (v u : Nat) : (s.setFld f v u).held = s.held := rfl
@[simp] theorem State.setFld_heldStage (f : Fld) (v u : Nat) : (s.setFld f v u).heldStage = s.heldStage := rfl
@[simp] theorem State.setFld_hw (f : Fld) (v u : Nat) : (s.setFld f v u).hw = s.hw := rfl
@[simp] theorem State.setFld_mem (f : Fld) (v u : Nat) : (s.setFld f v u).mem = s.mem := rfl
@[simp] theorem State.setFld_hostMem (f : Fld) (v u : Nat) : (s.setFld f v u).hostMem = s.hostMem := rfl
@[simp] theorem State.setFld_bootMem (f : Fld) (v u : Nat) : (s.setFld f v u).bootMem = s.bootMem := rfl
@[simp] theorem State.setFld_poisoned (f : Fld) (v u : Nat) : (s.setFld f v u).poisoned = s.poisoned := rfl
@[simp] theorem State.setFld_rowErrors (f : Fld) (v u : Nat) : (s.setFld f v u).rowErrors = s.rowErrors := rfl
@[simp] theorem State.setFld_sparing (f : Fld) (v u : Nat) : (s.setFld f v u).sparing = s.sparing := rfl
@[simp] theorem State.setFld_spared (f : Fld) (v u : Nat) : (s.setFld f v u).spared = s.spared := rfl
@[simp] theorem State.setFld_blocks (f : Fld) (v u : Nat) : (s.setFld f v u).blocks = s.blocks := rfl
@[simp] theorem State.setFld_ueDue (f : Fld) (v u : Nat) : (s.setFld f v u).ueDue = s.ueDue := rfl
@[simp] theorem State.setFld_harts (f : Fld) (v u : Nat) : (s.setFld f v u).harts = s.harts := rfl
@[simp] theorem State.setFld_cores (f : Fld) (v u : Nat) : (s.setFld f v u).cores = s.cores := rfl
@[simp] theorem State.setFld_regions (f : Fld) (v u : Nat) : (s.setFld f v u).regions = s.regions := rfl
@[simp] theorem State.setFld_changes (f : Fld) (v u : Nat) : (s.setFld f v u).changes = s.changes := rfl
@[simp] theorem State.setFld_clearing (f : Fld) (v u : Nat) : (s.setFld f v u).clearing = s.clearing := rfl
@[simp] theorem State.setFld_protectedGranules (f : Fld) (v u : Nat) : (s.setFld f v u).protectedGranules = s.protectedGranules := rfl
@[simp] theorem State.setFld_heldWrites (f : Fld) (v u : Nat) : (s.setFld f v u).heldWrites = s.heldWrites := rfl
@[simp] theorem State.setFld_resetting (f : Fld) (v u : Nat) : (s.setFld f v u).resetting = s.resetting := rfl
@[simp] theorem State.setFld_engines (f : Fld) (v u : Nat) : (s.setFld f v u).engines = s.engines := rfl
@[simp] theorem State.setFld_dsus (f : Fld) (v u : Nat) : (s.setFld f v u).dsus = s.dsus := rfl
@[simp] theorem State.setFld_puus (f : Fld) (v u : Nat) : (s.setFld f v u).puus = s.puus := rfl
@[simp] theorem State.setFld_digs (f : Fld) (v u : Nat) : (s.setFld f v u).digs = s.digs := rfl
@[simp] theorem State.setFld_digBytes (f : Fld) (v u : Nat) : (s.setFld f v u).digBytes = s.digBytes := rfl
@[simp] theorem State.setFld_ports (f : Fld) (v u : Nat) : (s.setFld f v u).ports = s.ports := rfl
@[simp] theorem State.setFld_traffic (f : Fld) (v u : Nat) : (s.setFld f v u).traffic = s.traffic := rfl
@[simp] theorem State.setFld_zeroing (f : Fld) (v u : Nat) : (s.setFld f v u).zeroing = s.zeroing := rfl
@[simp] theorem State.setFld_fencedStacks (f : Fld) (v u : Nat) : (s.setFld f v u).fencedStacks = s.fencedStacks := rfl
@[simp] theorem State.setFld_fencedCols (f : Fld) (v u : Nat) : (s.setFld f v u).fencedCols = s.fencedCols := rfl
@[simp] theorem State.setFld_fencedSplit (f : Fld) (v u : Nat) : (s.setFld f v u).fencedSplit = s.fencedSplit := rfl
@[simp] theorem State.setFld_log (f : Fld) (v u : Nat) : (s.setFld f v u).log = s.log := rfl
@[simp] theorem State.setFld_forward (f : Fld) (v u : Nat) : (s.setFld f v u).forward = s.forward := rfl
@[simp] theorem State.setFld_poisonMet (f : Fld) (v u : Nat) : (s.setFld f v u).poisonMet = s.poisonMet := rfl
@[simp] theorem State.setFld_origins (f : Fld) (v u : Nat) : (s.setFld f v u).origins = s.origins := rfl
@[simp] theorem State.setFld_forwarded (f : Fld) (v u : Nat) : (s.setFld f v u).forwarded = s.forwarded := rfl
@[simp] theorem State.setFld_comms (f : Fld) (v u : Nat) : (s.setFld f v u).comms = s.comms := rfl
@[simp] theorem State.setFld_xfers (f : Fld) (v u : Nat) : (s.setFld f v u).xfers = s.xfers := rfl
@[simp] theorem State.setFld_nextXfer (f : Fld) (v u : Nat) : (s.setFld f v u).nextXfer = s.nextXfer := rfl
@[simp] theorem State.setFld_matchGens (f : Fld) (v u : Nat) : (s.setFld f v u).matchGens = s.matchGens := rfl
@[simp] theorem State.setFld_tiles (f : Fld) (v u : Nat) : (s.setFld f v u).tiles = s.tiles := rfl
@[simp] theorem State.setFld_pendingLaunch (f : Fld) (v u : Nat) : (s.setFld f v u).pendingLaunch = s.pendingLaunch := rfl
@[simp] theorem State.setFld_running (f : Fld) (v u : Nat) : (s.setFld f v u).running = s.running := rfl
@[simp] theorem State.setFld_keys (f : Fld) (v u : Nat) : (s.setFld f v u).keys = s.keys := rfl
@[simp] theorem State.setFld_image (f : Fld) (v u : Nat) : (s.setFld f v u).image = s.image := rfl
@[simp] theorem State.setFld_unloadDue (f : Fld) (v u : Nat) : (s.setFld f v u).unloadDue = s.unloadDue := rfl
@[simp] theorem State.setFld_splQueue (f : Fld) (v u : Nat) : (s.setFld f v u).splQueue = s.splQueue := rfl
@[simp] theorem State.setFld_splRun (f : Fld) (v u : Nat) : (s.setFld f v u).splRun = s.splRun := rfl
@[simp] theorem State.setFld_splPrio (f : Fld) (v u : Nat) : (s.setFld f v u).splPrio = s.splPrio := rfl
@[simp] theorem State.setFld_msixOn (f : Fld) (v u : Nat) : (s.setFld f v u).msixOn = s.msixOn := rfl
@[simp] theorem State.setFld_rotNode (f : Fld) (v u : Nat) : (s.setFld f v u).rotNode = s.rotNode := rfl
@[simp] theorem State.setFld_rotGroup (f : Fld) (v u : Nat) : (s.setFld f v u).rotGroup = s.rotGroup := rfl
@[simp] theorem State.setFld_sync (f : Fld) (v u : Nat) : (s.setFld f v u).sync = s.sync := rfl
@[simp] theorem State.setFld_mrs (f : Fld) (v u : Nat) : (s.setFld f v u).mrs = s.mrs := rfl
@[simp] theorem State.setFld_pwr (f : Fld) (v u : Nat) : (s.setFld f v u).pwr = s.pwr := rfl
@[simp] theorem State.setFld_i3c (f : Fld) (v u : Nat) : (s.setFld f v u).i3c = s.i3c := rfl
@[simp] theorem State.setFld_mgt (f : Fld) (v u : Nat) : (s.setFld f v u).mgt = s.mgt := rfl
@[simp] theorem State.setFld_host (f : Fld) (v u : Nat) : (s.setFld f v u).host = s.host := rfl
@[simp] theorem State.setFld_sec (f : Fld) (v u : Nat) : (s.setFld f v u).sec = s.sec := rfl
@[simp] theorem State.setFld_cfg (f : Fld) (v u : Nat) : (s.setFld f v u).cfg = s.cfg := rfl

/-! ### count -/

@[simp] theorem State.count_now (f : Fld) (u n : Nat) : (s.count f u n).now = s.now := rfl
@[simp] theorem State.count_pending (f : Fld) (u n : Nat) : (s.count f u n).pending = s.pending := rfl
@[simp] theorem State.count_fresh (f : Fld) (u n : Nat) : (s.count f u n).fresh = s.fresh := rfl
@[simp] theorem State.count_outbox (f : Fld) (u n : Nat) : (s.count f u n).outbox = s.outbox := rfl
@[simp] theorem State.count_staged (f : Fld) (u n : Nat) : (s.count f u n).staged = s.staged := rfl
@[simp] theorem State.count_held (f : Fld) (u n : Nat) : (s.count f u n).held = s.held := rfl
@[simp] theorem State.count_heldStage (f : Fld) (u n : Nat) : (s.count f u n).heldStage = s.heldStage := rfl
@[simp] theorem State.count_mem (f : Fld) (u n : Nat) : (s.count f u n).mem = s.mem := rfl
@[simp] theorem State.count_hostMem (f : Fld) (u n : Nat) : (s.count f u n).hostMem = s.hostMem := rfl
@[simp] theorem State.count_bootMem (f : Fld) (u n : Nat) : (s.count f u n).bootMem = s.bootMem := rfl
@[simp] theorem State.count_poisoned (f : Fld) (u n : Nat) : (s.count f u n).poisoned = s.poisoned := rfl
@[simp] theorem State.count_rowErrors (f : Fld) (u n : Nat) : (s.count f u n).rowErrors = s.rowErrors := rfl
@[simp] theorem State.count_sparing (f : Fld) (u n : Nat) : (s.count f u n).sparing = s.sparing := rfl
@[simp] theorem State.count_spared (f : Fld) (u n : Nat) : (s.count f u n).spared = s.spared := rfl
@[simp] theorem State.count_blocks (f : Fld) (u n : Nat) : (s.count f u n).blocks = s.blocks := rfl
@[simp] theorem State.count_ueDue (f : Fld) (u n : Nat) : (s.count f u n).ueDue = s.ueDue := rfl
@[simp] theorem State.count_harts (f : Fld) (u n : Nat) : (s.count f u n).harts = s.harts := rfl
@[simp] theorem State.count_cores (f : Fld) (u n : Nat) : (s.count f u n).cores = s.cores := rfl
@[simp] theorem State.count_regions (f : Fld) (u n : Nat) : (s.count f u n).regions = s.regions := rfl
@[simp] theorem State.count_changes (f : Fld) (u n : Nat) : (s.count f u n).changes = s.changes := rfl
@[simp] theorem State.count_clearing (f : Fld) (u n : Nat) : (s.count f u n).clearing = s.clearing := rfl
@[simp] theorem State.count_protectedGranules (f : Fld) (u n : Nat) : (s.count f u n).protectedGranules = s.protectedGranules := rfl
@[simp] theorem State.count_heldWrites (f : Fld) (u n : Nat) : (s.count f u n).heldWrites = s.heldWrites := rfl
@[simp] theorem State.count_resetting (f : Fld) (u n : Nat) : (s.count f u n).resetting = s.resetting := rfl
@[simp] theorem State.count_engines (f : Fld) (u n : Nat) : (s.count f u n).engines = s.engines := rfl
@[simp] theorem State.count_dsus (f : Fld) (u n : Nat) : (s.count f u n).dsus = s.dsus := rfl
@[simp] theorem State.count_puus (f : Fld) (u n : Nat) : (s.count f u n).puus = s.puus := rfl
@[simp] theorem State.count_digs (f : Fld) (u n : Nat) : (s.count f u n).digs = s.digs := rfl
@[simp] theorem State.count_digBytes (f : Fld) (u n : Nat) : (s.count f u n).digBytes = s.digBytes := rfl
@[simp] theorem State.count_ports (f : Fld) (u n : Nat) : (s.count f u n).ports = s.ports := rfl
@[simp] theorem State.count_traffic (f : Fld) (u n : Nat) : (s.count f u n).traffic = s.traffic := rfl
@[simp] theorem State.count_zeroing (f : Fld) (u n : Nat) : (s.count f u n).zeroing = s.zeroing := rfl
@[simp] theorem State.count_fencedStacks (f : Fld) (u n : Nat) : (s.count f u n).fencedStacks = s.fencedStacks := rfl
@[simp] theorem State.count_fencedCols (f : Fld) (u n : Nat) : (s.count f u n).fencedCols = s.fencedCols := rfl
@[simp] theorem State.count_fencedSplit (f : Fld) (u n : Nat) : (s.count f u n).fencedSplit = s.fencedSplit := rfl
@[simp] theorem State.count_log (f : Fld) (u n : Nat) : (s.count f u n).log = s.log := rfl
@[simp] theorem State.count_forward (f : Fld) (u n : Nat) : (s.count f u n).forward = s.forward := rfl
@[simp] theorem State.count_poisonMet (f : Fld) (u n : Nat) : (s.count f u n).poisonMet = s.poisonMet := rfl
@[simp] theorem State.count_origins (f : Fld) (u n : Nat) : (s.count f u n).origins = s.origins := rfl
@[simp] theorem State.count_forwarded (f : Fld) (u n : Nat) : (s.count f u n).forwarded = s.forwarded := rfl
@[simp] theorem State.count_comms (f : Fld) (u n : Nat) : (s.count f u n).comms = s.comms := rfl
@[simp] theorem State.count_xfers (f : Fld) (u n : Nat) : (s.count f u n).xfers = s.xfers := rfl
@[simp] theorem State.count_nextXfer (f : Fld) (u n : Nat) : (s.count f u n).nextXfer = s.nextXfer := rfl
@[simp] theorem State.count_matchGens (f : Fld) (u n : Nat) : (s.count f u n).matchGens = s.matchGens := rfl
@[simp] theorem State.count_tiles (f : Fld) (u n : Nat) : (s.count f u n).tiles = s.tiles := rfl
@[simp] theorem State.count_pendingLaunch (f : Fld) (u n : Nat) : (s.count f u n).pendingLaunch = s.pendingLaunch := rfl
@[simp] theorem State.count_running (f : Fld) (u n : Nat) : (s.count f u n).running = s.running := rfl
@[simp] theorem State.count_keys (f : Fld) (u n : Nat) : (s.count f u n).keys = s.keys := rfl
@[simp] theorem State.count_image (f : Fld) (u n : Nat) : (s.count f u n).image = s.image := rfl
@[simp] theorem State.count_unloadDue (f : Fld) (u n : Nat) : (s.count f u n).unloadDue = s.unloadDue := rfl
@[simp] theorem State.count_splQueue (f : Fld) (u n : Nat) : (s.count f u n).splQueue = s.splQueue := rfl
@[simp] theorem State.count_splRun (f : Fld) (u n : Nat) : (s.count f u n).splRun = s.splRun := rfl
@[simp] theorem State.count_splPrio (f : Fld) (u n : Nat) : (s.count f u n).splPrio = s.splPrio := rfl
@[simp] theorem State.count_msixOn (f : Fld) (u n : Nat) : (s.count f u n).msixOn = s.msixOn := rfl
@[simp] theorem State.count_rotNode (f : Fld) (u n : Nat) : (s.count f u n).rotNode = s.rotNode := rfl
@[simp] theorem State.count_rotGroup (f : Fld) (u n : Nat) : (s.count f u n).rotGroup = s.rotGroup := rfl
@[simp] theorem State.count_sync (f : Fld) (u n : Nat) : (s.count f u n).sync = s.sync := rfl
@[simp] theorem State.count_mrs (f : Fld) (u n : Nat) : (s.count f u n).mrs = s.mrs := rfl
@[simp] theorem State.count_pwr (f : Fld) (u n : Nat) : (s.count f u n).pwr = s.pwr := rfl
@[simp] theorem State.count_i3c (f : Fld) (u n : Nat) : (s.count f u n).i3c = s.i3c := rfl
@[simp] theorem State.count_mgt (f : Fld) (u n : Nat) : (s.count f u n).mgt = s.mgt := rfl
@[simp] theorem State.count_host (f : Fld) (u n : Nat) : (s.count f u n).host = s.host := rfl
@[simp] theorem State.count_sec (f : Fld) (u n : Nat) : (s.count f u n).sec = s.sec := rfl
@[simp] theorem State.count_cfg (f : Fld) (u n : Nat) : (s.count f u n).cfg = s.cfg := rfl

/-! ### countMax -/

@[simp] theorem State.countMax_now (f : Fld) (u n : Nat) : (s.countMax f u n).now = s.now := rfl
@[simp] theorem State.countMax_pending (f : Fld) (u n : Nat) : (s.countMax f u n).pending = s.pending := rfl
@[simp] theorem State.countMax_fresh (f : Fld) (u n : Nat) : (s.countMax f u n).fresh = s.fresh := rfl
@[simp] theorem State.countMax_outbox (f : Fld) (u n : Nat) : (s.countMax f u n).outbox = s.outbox := rfl
@[simp] theorem State.countMax_staged (f : Fld) (u n : Nat) : (s.countMax f u n).staged = s.staged := rfl
@[simp] theorem State.countMax_held (f : Fld) (u n : Nat) : (s.countMax f u n).held = s.held := rfl
@[simp] theorem State.countMax_heldStage (f : Fld) (u n : Nat) : (s.countMax f u n).heldStage = s.heldStage := rfl
@[simp] theorem State.countMax_mem (f : Fld) (u n : Nat) : (s.countMax f u n).mem = s.mem := rfl
@[simp] theorem State.countMax_hostMem (f : Fld) (u n : Nat) : (s.countMax f u n).hostMem = s.hostMem := rfl
@[simp] theorem State.countMax_bootMem (f : Fld) (u n : Nat) : (s.countMax f u n).bootMem = s.bootMem := rfl
@[simp] theorem State.countMax_poisoned (f : Fld) (u n : Nat) : (s.countMax f u n).poisoned = s.poisoned := rfl
@[simp] theorem State.countMax_rowErrors (f : Fld) (u n : Nat) : (s.countMax f u n).rowErrors = s.rowErrors := rfl
@[simp] theorem State.countMax_sparing (f : Fld) (u n : Nat) : (s.countMax f u n).sparing = s.sparing := rfl
@[simp] theorem State.countMax_spared (f : Fld) (u n : Nat) : (s.countMax f u n).spared = s.spared := rfl
@[simp] theorem State.countMax_blocks (f : Fld) (u n : Nat) : (s.countMax f u n).blocks = s.blocks := rfl
@[simp] theorem State.countMax_ueDue (f : Fld) (u n : Nat) : (s.countMax f u n).ueDue = s.ueDue := rfl
@[simp] theorem State.countMax_harts (f : Fld) (u n : Nat) : (s.countMax f u n).harts = s.harts := rfl
@[simp] theorem State.countMax_cores (f : Fld) (u n : Nat) : (s.countMax f u n).cores = s.cores := rfl
@[simp] theorem State.countMax_regions (f : Fld) (u n : Nat) : (s.countMax f u n).regions = s.regions := rfl
@[simp] theorem State.countMax_changes (f : Fld) (u n : Nat) : (s.countMax f u n).changes = s.changes := rfl
@[simp] theorem State.countMax_clearing (f : Fld) (u n : Nat) : (s.countMax f u n).clearing = s.clearing := rfl
@[simp] theorem State.countMax_protectedGranules (f : Fld) (u n : Nat) : (s.countMax f u n).protectedGranules = s.protectedGranules := rfl
@[simp] theorem State.countMax_heldWrites (f : Fld) (u n : Nat) : (s.countMax f u n).heldWrites = s.heldWrites := rfl
@[simp] theorem State.countMax_resetting (f : Fld) (u n : Nat) : (s.countMax f u n).resetting = s.resetting := rfl
@[simp] theorem State.countMax_engines (f : Fld) (u n : Nat) : (s.countMax f u n).engines = s.engines := rfl
@[simp] theorem State.countMax_dsus (f : Fld) (u n : Nat) : (s.countMax f u n).dsus = s.dsus := rfl
@[simp] theorem State.countMax_puus (f : Fld) (u n : Nat) : (s.countMax f u n).puus = s.puus := rfl
@[simp] theorem State.countMax_digs (f : Fld) (u n : Nat) : (s.countMax f u n).digs = s.digs := rfl
@[simp] theorem State.countMax_digBytes (f : Fld) (u n : Nat) : (s.countMax f u n).digBytes = s.digBytes := rfl
@[simp] theorem State.countMax_ports (f : Fld) (u n : Nat) : (s.countMax f u n).ports = s.ports := rfl
@[simp] theorem State.countMax_traffic (f : Fld) (u n : Nat) : (s.countMax f u n).traffic = s.traffic := rfl
@[simp] theorem State.countMax_zeroing (f : Fld) (u n : Nat) : (s.countMax f u n).zeroing = s.zeroing := rfl
@[simp] theorem State.countMax_fencedStacks (f : Fld) (u n : Nat) : (s.countMax f u n).fencedStacks = s.fencedStacks := rfl
@[simp] theorem State.countMax_fencedCols (f : Fld) (u n : Nat) : (s.countMax f u n).fencedCols = s.fencedCols := rfl
@[simp] theorem State.countMax_fencedSplit (f : Fld) (u n : Nat) : (s.countMax f u n).fencedSplit = s.fencedSplit := rfl
@[simp] theorem State.countMax_log (f : Fld) (u n : Nat) : (s.countMax f u n).log = s.log := rfl
@[simp] theorem State.countMax_forward (f : Fld) (u n : Nat) : (s.countMax f u n).forward = s.forward := rfl
@[simp] theorem State.countMax_poisonMet (f : Fld) (u n : Nat) : (s.countMax f u n).poisonMet = s.poisonMet := rfl
@[simp] theorem State.countMax_origins (f : Fld) (u n : Nat) : (s.countMax f u n).origins = s.origins := rfl
@[simp] theorem State.countMax_forwarded (f : Fld) (u n : Nat) : (s.countMax f u n).forwarded = s.forwarded := rfl
@[simp] theorem State.countMax_comms (f : Fld) (u n : Nat) : (s.countMax f u n).comms = s.comms := rfl
@[simp] theorem State.countMax_xfers (f : Fld) (u n : Nat) : (s.countMax f u n).xfers = s.xfers := rfl
@[simp] theorem State.countMax_nextXfer (f : Fld) (u n : Nat) : (s.countMax f u n).nextXfer = s.nextXfer := rfl
@[simp] theorem State.countMax_matchGens (f : Fld) (u n : Nat) : (s.countMax f u n).matchGens = s.matchGens := rfl
@[simp] theorem State.countMax_tiles (f : Fld) (u n : Nat) : (s.countMax f u n).tiles = s.tiles := rfl
@[simp] theorem State.countMax_pendingLaunch (f : Fld) (u n : Nat) : (s.countMax f u n).pendingLaunch = s.pendingLaunch := rfl
@[simp] theorem State.countMax_running (f : Fld) (u n : Nat) : (s.countMax f u n).running = s.running := rfl
@[simp] theorem State.countMax_keys (f : Fld) (u n : Nat) : (s.countMax f u n).keys = s.keys := rfl
@[simp] theorem State.countMax_image (f : Fld) (u n : Nat) : (s.countMax f u n).image = s.image := rfl
@[simp] theorem State.countMax_unloadDue (f : Fld) (u n : Nat) : (s.countMax f u n).unloadDue = s.unloadDue := rfl
@[simp] theorem State.countMax_splQueue (f : Fld) (u n : Nat) : (s.countMax f u n).splQueue = s.splQueue := rfl
@[simp] theorem State.countMax_splRun (f : Fld) (u n : Nat) : (s.countMax f u n).splRun = s.splRun := rfl
@[simp] theorem State.countMax_splPrio (f : Fld) (u n : Nat) : (s.countMax f u n).splPrio = s.splPrio := rfl
@[simp] theorem State.countMax_msixOn (f : Fld) (u n : Nat) : (s.countMax f u n).msixOn = s.msixOn := rfl
@[simp] theorem State.countMax_rotNode (f : Fld) (u n : Nat) : (s.countMax f u n).rotNode = s.rotNode := rfl
@[simp] theorem State.countMax_rotGroup (f : Fld) (u n : Nat) : (s.countMax f u n).rotGroup = s.rotGroup := rfl
@[simp] theorem State.countMax_sync (f : Fld) (u n : Nat) : (s.countMax f u n).sync = s.sync := rfl
@[simp] theorem State.countMax_mrs (f : Fld) (u n : Nat) : (s.countMax f u n).mrs = s.mrs := rfl
@[simp] theorem State.countMax_pwr (f : Fld) (u n : Nat) : (s.countMax f u n).pwr = s.pwr := rfl
@[simp] theorem State.countMax_i3c (f : Fld) (u n : Nat) : (s.countMax f u n).i3c = s.i3c := rfl
@[simp] theorem State.countMax_mgt (f : Fld) (u n : Nat) : (s.countMax f u n).mgt = s.mgt := rfl
@[simp] theorem State.countMax_host (f : Fld) (u n : Nat) : (s.countMax f u n).host = s.host := rfl
@[simp] theorem State.countMax_sec (f : Fld) (u n : Nat) : (s.countMax f u n).sec = s.sec := rfl
@[simp] theorem State.countMax_cfg (f : Fld) (u n : Nat) : (s.countMax f u n).cfg = s.cfg := rfl

/-! ### hwSet -/

@[simp] theorem State.hwSet_now (f : Fld) (v u : Nat) : (s.hwSet f v u).now = s.now := rfl
@[simp] theorem State.hwSet_pending (f : Fld) (v u : Nat) : (s.hwSet f v u).pending = s.pending := rfl
@[simp] theorem State.hwSet_fresh (f : Fld) (v u : Nat) : (s.hwSet f v u).fresh = s.fresh := rfl
@[simp] theorem State.hwSet_outbox (f : Fld) (v u : Nat) : (s.hwSet f v u).outbox = s.outbox := rfl
@[simp] theorem State.hwSet_staged (f : Fld) (v u : Nat) : (s.hwSet f v u).staged = s.staged := rfl
@[simp] theorem State.hwSet_held (f : Fld) (v u : Nat) : (s.hwSet f v u).held = s.held := rfl
@[simp] theorem State.hwSet_heldStage (f : Fld) (v u : Nat) : (s.hwSet f v u).heldStage = s.heldStage := rfl
@[simp] theorem State.hwSet_mem (f : Fld) (v u : Nat) : (s.hwSet f v u).mem = s.mem := rfl
@[simp] theorem State.hwSet_hostMem (f : Fld) (v u : Nat) : (s.hwSet f v u).hostMem = s.hostMem := rfl
@[simp] theorem State.hwSet_bootMem (f : Fld) (v u : Nat) : (s.hwSet f v u).bootMem = s.bootMem := rfl
@[simp] theorem State.hwSet_poisoned (f : Fld) (v u : Nat) : (s.hwSet f v u).poisoned = s.poisoned := rfl
@[simp] theorem State.hwSet_rowErrors (f : Fld) (v u : Nat) : (s.hwSet f v u).rowErrors = s.rowErrors := rfl
@[simp] theorem State.hwSet_sparing (f : Fld) (v u : Nat) : (s.hwSet f v u).sparing = s.sparing := rfl
@[simp] theorem State.hwSet_spared (f : Fld) (v u : Nat) : (s.hwSet f v u).spared = s.spared := rfl
@[simp] theorem State.hwSet_blocks (f : Fld) (v u : Nat) : (s.hwSet f v u).blocks = s.blocks := rfl
@[simp] theorem State.hwSet_ueDue (f : Fld) (v u : Nat) : (s.hwSet f v u).ueDue = s.ueDue := rfl
@[simp] theorem State.hwSet_harts (f : Fld) (v u : Nat) : (s.hwSet f v u).harts = s.harts := rfl
@[simp] theorem State.hwSet_cores (f : Fld) (v u : Nat) : (s.hwSet f v u).cores = s.cores := rfl
@[simp] theorem State.hwSet_regions (f : Fld) (v u : Nat) : (s.hwSet f v u).regions = s.regions := rfl
@[simp] theorem State.hwSet_changes (f : Fld) (v u : Nat) : (s.hwSet f v u).changes = s.changes := rfl
@[simp] theorem State.hwSet_clearing (f : Fld) (v u : Nat) : (s.hwSet f v u).clearing = s.clearing := rfl
@[simp] theorem State.hwSet_protectedGranules (f : Fld) (v u : Nat) : (s.hwSet f v u).protectedGranules = s.protectedGranules := rfl
@[simp] theorem State.hwSet_heldWrites (f : Fld) (v u : Nat) : (s.hwSet f v u).heldWrites = s.heldWrites := rfl
@[simp] theorem State.hwSet_resetting (f : Fld) (v u : Nat) : (s.hwSet f v u).resetting = s.resetting := rfl
@[simp] theorem State.hwSet_engines (f : Fld) (v u : Nat) : (s.hwSet f v u).engines = s.engines := rfl
@[simp] theorem State.hwSet_dsus (f : Fld) (v u : Nat) : (s.hwSet f v u).dsus = s.dsus := rfl
@[simp] theorem State.hwSet_puus (f : Fld) (v u : Nat) : (s.hwSet f v u).puus = s.puus := rfl
@[simp] theorem State.hwSet_digs (f : Fld) (v u : Nat) : (s.hwSet f v u).digs = s.digs := rfl
@[simp] theorem State.hwSet_digBytes (f : Fld) (v u : Nat) : (s.hwSet f v u).digBytes = s.digBytes := rfl
@[simp] theorem State.hwSet_ports (f : Fld) (v u : Nat) : (s.hwSet f v u).ports = s.ports := rfl
@[simp] theorem State.hwSet_traffic (f : Fld) (v u : Nat) : (s.hwSet f v u).traffic = s.traffic := rfl
@[simp] theorem State.hwSet_zeroing (f : Fld) (v u : Nat) : (s.hwSet f v u).zeroing = s.zeroing := rfl
@[simp] theorem State.hwSet_fencedStacks (f : Fld) (v u : Nat) : (s.hwSet f v u).fencedStacks = s.fencedStacks := rfl
@[simp] theorem State.hwSet_fencedCols (f : Fld) (v u : Nat) : (s.hwSet f v u).fencedCols = s.fencedCols := rfl
@[simp] theorem State.hwSet_fencedSplit (f : Fld) (v u : Nat) : (s.hwSet f v u).fencedSplit = s.fencedSplit := rfl
@[simp] theorem State.hwSet_log (f : Fld) (v u : Nat) : (s.hwSet f v u).log = s.log := rfl
@[simp] theorem State.hwSet_forward (f : Fld) (v u : Nat) : (s.hwSet f v u).forward = s.forward := rfl
@[simp] theorem State.hwSet_poisonMet (f : Fld) (v u : Nat) : (s.hwSet f v u).poisonMet = s.poisonMet := rfl
@[simp] theorem State.hwSet_origins (f : Fld) (v u : Nat) : (s.hwSet f v u).origins = s.origins := rfl
@[simp] theorem State.hwSet_forwarded (f : Fld) (v u : Nat) : (s.hwSet f v u).forwarded = s.forwarded := rfl
@[simp] theorem State.hwSet_comms (f : Fld) (v u : Nat) : (s.hwSet f v u).comms = s.comms := rfl
@[simp] theorem State.hwSet_xfers (f : Fld) (v u : Nat) : (s.hwSet f v u).xfers = s.xfers := rfl
@[simp] theorem State.hwSet_nextXfer (f : Fld) (v u : Nat) : (s.hwSet f v u).nextXfer = s.nextXfer := rfl
@[simp] theorem State.hwSet_matchGens (f : Fld) (v u : Nat) : (s.hwSet f v u).matchGens = s.matchGens := rfl
@[simp] theorem State.hwSet_tiles (f : Fld) (v u : Nat) : (s.hwSet f v u).tiles = s.tiles := rfl
@[simp] theorem State.hwSet_pendingLaunch (f : Fld) (v u : Nat) : (s.hwSet f v u).pendingLaunch = s.pendingLaunch := rfl
@[simp] theorem State.hwSet_running (f : Fld) (v u : Nat) : (s.hwSet f v u).running = s.running := rfl
@[simp] theorem State.hwSet_keys (f : Fld) (v u : Nat) : (s.hwSet f v u).keys = s.keys := rfl
@[simp] theorem State.hwSet_image (f : Fld) (v u : Nat) : (s.hwSet f v u).image = s.image := rfl
@[simp] theorem State.hwSet_unloadDue (f : Fld) (v u : Nat) : (s.hwSet f v u).unloadDue = s.unloadDue := rfl
@[simp] theorem State.hwSet_splQueue (f : Fld) (v u : Nat) : (s.hwSet f v u).splQueue = s.splQueue := rfl
@[simp] theorem State.hwSet_splRun (f : Fld) (v u : Nat) : (s.hwSet f v u).splRun = s.splRun := rfl
@[simp] theorem State.hwSet_splPrio (f : Fld) (v u : Nat) : (s.hwSet f v u).splPrio = s.splPrio := rfl
@[simp] theorem State.hwSet_msixOn (f : Fld) (v u : Nat) : (s.hwSet f v u).msixOn = s.msixOn := rfl
@[simp] theorem State.hwSet_rotNode (f : Fld) (v u : Nat) : (s.hwSet f v u).rotNode = s.rotNode := rfl
@[simp] theorem State.hwSet_rotGroup (f : Fld) (v u : Nat) : (s.hwSet f v u).rotGroup = s.rotGroup := rfl
@[simp] theorem State.hwSet_sync (f : Fld) (v u : Nat) : (s.hwSet f v u).sync = s.sync := rfl
@[simp] theorem State.hwSet_mrs (f : Fld) (v u : Nat) : (s.hwSet f v u).mrs = s.mrs := rfl
@[simp] theorem State.hwSet_pwr (f : Fld) (v u : Nat) : (s.hwSet f v u).pwr = s.pwr := rfl
@[simp] theorem State.hwSet_i3c (f : Fld) (v u : Nat) : (s.hwSet f v u).i3c = s.i3c := rfl
@[simp] theorem State.hwSet_mgt (f : Fld) (v u : Nat) : (s.hwSet f v u).mgt = s.mgt := rfl
@[simp] theorem State.hwSet_host (f : Fld) (v u : Nat) : (s.hwSet f v u).host = s.host := rfl
@[simp] theorem State.hwSet_sec (f : Fld) (v u : Nat) : (s.hwSet f v u).sec = s.sec := rfl
@[simp] theorem State.hwSet_cfg (f : Fld) (v u : Nat) : (s.hwSet f v u).cfg = s.cfg := rfl

/-! ### emit -/

@[simp] theorem State.emit_now (o : Out) : (s.emit o).now = s.now := rfl
@[simp] theorem State.emit_pending (o : Out) : (s.emit o).pending = s.pending := rfl
@[simp] theorem State.emit_fresh (o : Out) : (s.emit o).fresh = s.fresh := rfl
@[simp] theorem State.emit_regs (o : Out) : (s.emit o).regs = s.regs := rfl
@[simp] theorem State.emit_staged (o : Out) : (s.emit o).staged = s.staged := rfl
@[simp] theorem State.emit_held (o : Out) : (s.emit o).held = s.held := rfl
@[simp] theorem State.emit_heldStage (o : Out) : (s.emit o).heldStage = s.heldStage := rfl
@[simp] theorem State.emit_hw (o : Out) : (s.emit o).hw = s.hw := rfl
@[simp] theorem State.emit_mem (o : Out) : (s.emit o).mem = s.mem := rfl
@[simp] theorem State.emit_hostMem (o : Out) : (s.emit o).hostMem = s.hostMem := rfl
@[simp] theorem State.emit_bootMem (o : Out) : (s.emit o).bootMem = s.bootMem := rfl
@[simp] theorem State.emit_poisoned (o : Out) : (s.emit o).poisoned = s.poisoned := rfl
@[simp] theorem State.emit_rowErrors (o : Out) : (s.emit o).rowErrors = s.rowErrors := rfl
@[simp] theorem State.emit_sparing (o : Out) : (s.emit o).sparing = s.sparing := rfl
@[simp] theorem State.emit_spared (o : Out) : (s.emit o).spared = s.spared := rfl
@[simp] theorem State.emit_blocks (o : Out) : (s.emit o).blocks = s.blocks := rfl
@[simp] theorem State.emit_ueDue (o : Out) : (s.emit o).ueDue = s.ueDue := rfl
@[simp] theorem State.emit_harts (o : Out) : (s.emit o).harts = s.harts := rfl
@[simp] theorem State.emit_cores (o : Out) : (s.emit o).cores = s.cores := rfl
@[simp] theorem State.emit_regions (o : Out) : (s.emit o).regions = s.regions := rfl
@[simp] theorem State.emit_changes (o : Out) : (s.emit o).changes = s.changes := rfl
@[simp] theorem State.emit_clearing (o : Out) : (s.emit o).clearing = s.clearing := rfl
@[simp] theorem State.emit_protectedGranules (o : Out) : (s.emit o).protectedGranules = s.protectedGranules := rfl
@[simp] theorem State.emit_heldWrites (o : Out) : (s.emit o).heldWrites = s.heldWrites := rfl
@[simp] theorem State.emit_resetting (o : Out) : (s.emit o).resetting = s.resetting := rfl
@[simp] theorem State.emit_engines (o : Out) : (s.emit o).engines = s.engines := rfl
@[simp] theorem State.emit_dsus (o : Out) : (s.emit o).dsus = s.dsus := rfl
@[simp] theorem State.emit_puus (o : Out) : (s.emit o).puus = s.puus := rfl
@[simp] theorem State.emit_digs (o : Out) : (s.emit o).digs = s.digs := rfl
@[simp] theorem State.emit_digBytes (o : Out) : (s.emit o).digBytes = s.digBytes := rfl
@[simp] theorem State.emit_ports (o : Out) : (s.emit o).ports = s.ports := rfl
@[simp] theorem State.emit_traffic (o : Out) : (s.emit o).traffic = s.traffic := rfl
@[simp] theorem State.emit_zeroing (o : Out) : (s.emit o).zeroing = s.zeroing := rfl
@[simp] theorem State.emit_fencedStacks (o : Out) : (s.emit o).fencedStacks = s.fencedStacks := rfl
@[simp] theorem State.emit_fencedCols (o : Out) : (s.emit o).fencedCols = s.fencedCols := rfl
@[simp] theorem State.emit_fencedSplit (o : Out) : (s.emit o).fencedSplit = s.fencedSplit := rfl
@[simp] theorem State.emit_log (o : Out) : (s.emit o).log = s.log := rfl
@[simp] theorem State.emit_forward (o : Out) : (s.emit o).forward = s.forward := rfl
@[simp] theorem State.emit_poisonMet (o : Out) : (s.emit o).poisonMet = s.poisonMet := rfl
@[simp] theorem State.emit_origins (o : Out) : (s.emit o).origins = s.origins := rfl
@[simp] theorem State.emit_forwarded (o : Out) : (s.emit o).forwarded = s.forwarded := rfl
@[simp] theorem State.emit_comms (o : Out) : (s.emit o).comms = s.comms := rfl
@[simp] theorem State.emit_xfers (o : Out) : (s.emit o).xfers = s.xfers := rfl
@[simp] theorem State.emit_nextXfer (o : Out) : (s.emit o).nextXfer = s.nextXfer := rfl
@[simp] theorem State.emit_matchGens (o : Out) : (s.emit o).matchGens = s.matchGens := rfl
@[simp] theorem State.emit_tiles (o : Out) : (s.emit o).tiles = s.tiles := rfl
@[simp] theorem State.emit_pendingLaunch (o : Out) : (s.emit o).pendingLaunch = s.pendingLaunch := rfl
@[simp] theorem State.emit_running (o : Out) : (s.emit o).running = s.running := rfl
@[simp] theorem State.emit_keys (o : Out) : (s.emit o).keys = s.keys := rfl
@[simp] theorem State.emit_image (o : Out) : (s.emit o).image = s.image := rfl
@[simp] theorem State.emit_unloadDue (o : Out) : (s.emit o).unloadDue = s.unloadDue := rfl
@[simp] theorem State.emit_splQueue (o : Out) : (s.emit o).splQueue = s.splQueue := rfl
@[simp] theorem State.emit_splRun (o : Out) : (s.emit o).splRun = s.splRun := rfl
@[simp] theorem State.emit_splPrio (o : Out) : (s.emit o).splPrio = s.splPrio := rfl
@[simp] theorem State.emit_msixOn (o : Out) : (s.emit o).msixOn = s.msixOn := rfl
@[simp] theorem State.emit_rotNode (o : Out) : (s.emit o).rotNode = s.rotNode := rfl
@[simp] theorem State.emit_rotGroup (o : Out) : (s.emit o).rotGroup = s.rotGroup := rfl
@[simp] theorem State.emit_sync (o : Out) : (s.emit o).sync = s.sync := rfl
@[simp] theorem State.emit_mrs (o : Out) : (s.emit o).mrs = s.mrs := rfl
@[simp] theorem State.emit_pwr (o : Out) : (s.emit o).pwr = s.pwr := rfl
@[simp] theorem State.emit_i3c (o : Out) : (s.emit o).i3c = s.i3c := rfl
@[simp] theorem State.emit_mgt (o : Out) : (s.emit o).mgt = s.mgt := rfl
@[simp] theorem State.emit_host (o : Out) : (s.emit o).host = s.host := rfl
@[simp] theorem State.emit_sec (o : Out) : (s.emit o).sec = s.sec := rfl
@[simp] theorem State.emit_cfg (o : Out) : (s.emit o).cfg = s.cfg := rfl

/-! ### setCtx -/

@[simp] theorem State.setCtx_now (k : Nat) (c : Ctx) : (s.setCtx k c).now = s.now := rfl
@[simp] theorem State.setCtx_pending (k : Nat) (c : Ctx) : (s.setCtx k c).pending = s.pending := rfl
@[simp] theorem State.setCtx_fresh (k : Nat) (c : Ctx) : (s.setCtx k c).fresh = s.fresh := rfl
@[simp] theorem State.setCtx_outbox (k : Nat) (c : Ctx) : (s.setCtx k c).outbox = s.outbox := rfl
@[simp] theorem State.setCtx_regs (k : Nat) (c : Ctx) : (s.setCtx k c).regs = s.regs := rfl
@[simp] theorem State.setCtx_staged (k : Nat) (c : Ctx) : (s.setCtx k c).staged = s.staged := rfl
@[simp] theorem State.setCtx_held (k : Nat) (c : Ctx) : (s.setCtx k c).held = s.held := rfl
@[simp] theorem State.setCtx_heldStage (k : Nat) (c : Ctx) : (s.setCtx k c).heldStage = s.heldStage := rfl
@[simp] theorem State.setCtx_hw (k : Nat) (c : Ctx) : (s.setCtx k c).hw = s.hw := rfl
@[simp] theorem State.setCtx_mem (k : Nat) (c : Ctx) : (s.setCtx k c).mem = s.mem := rfl
@[simp] theorem State.setCtx_hostMem (k : Nat) (c : Ctx) : (s.setCtx k c).hostMem = s.hostMem := rfl
@[simp] theorem State.setCtx_bootMem (k : Nat) (c : Ctx) : (s.setCtx k c).bootMem = s.bootMem := rfl
@[simp] theorem State.setCtx_poisoned (k : Nat) (c : Ctx) : (s.setCtx k c).poisoned = s.poisoned := rfl
@[simp] theorem State.setCtx_rowErrors (k : Nat) (c : Ctx) : (s.setCtx k c).rowErrors = s.rowErrors := rfl
@[simp] theorem State.setCtx_sparing (k : Nat) (c : Ctx) : (s.setCtx k c).sparing = s.sparing := rfl
@[simp] theorem State.setCtx_spared (k : Nat) (c : Ctx) : (s.setCtx k c).spared = s.spared := rfl
@[simp] theorem State.setCtx_blocks (k : Nat) (c : Ctx) : (s.setCtx k c).blocks = s.blocks := rfl
@[simp] theorem State.setCtx_ueDue (k : Nat) (c : Ctx) : (s.setCtx k c).ueDue = s.ueDue := rfl
@[simp] theorem State.setCtx_cores (k : Nat) (c : Ctx) : (s.setCtx k c).cores = s.cores := rfl
@[simp] theorem State.setCtx_regions (k : Nat) (c : Ctx) : (s.setCtx k c).regions = s.regions := rfl
@[simp] theorem State.setCtx_changes (k : Nat) (c : Ctx) : (s.setCtx k c).changes = s.changes := rfl
@[simp] theorem State.setCtx_clearing (k : Nat) (c : Ctx) : (s.setCtx k c).clearing = s.clearing := rfl
@[simp] theorem State.setCtx_protectedGranules (k : Nat) (c : Ctx) : (s.setCtx k c).protectedGranules = s.protectedGranules := rfl
@[simp] theorem State.setCtx_heldWrites (k : Nat) (c : Ctx) : (s.setCtx k c).heldWrites = s.heldWrites := rfl
@[simp] theorem State.setCtx_resetting (k : Nat) (c : Ctx) : (s.setCtx k c).resetting = s.resetting := rfl
@[simp] theorem State.setCtx_engines (k : Nat) (c : Ctx) : (s.setCtx k c).engines = s.engines := rfl
@[simp] theorem State.setCtx_dsus (k : Nat) (c : Ctx) : (s.setCtx k c).dsus = s.dsus := rfl
@[simp] theorem State.setCtx_puus (k : Nat) (c : Ctx) : (s.setCtx k c).puus = s.puus := rfl
@[simp] theorem State.setCtx_digs (k : Nat) (c : Ctx) : (s.setCtx k c).digs = s.digs := rfl
@[simp] theorem State.setCtx_digBytes (k : Nat) (c : Ctx) : (s.setCtx k c).digBytes = s.digBytes := rfl
@[simp] theorem State.setCtx_ports (k : Nat) (c : Ctx) : (s.setCtx k c).ports = s.ports := rfl
@[simp] theorem State.setCtx_traffic (k : Nat) (c : Ctx) : (s.setCtx k c).traffic = s.traffic := rfl
@[simp] theorem State.setCtx_zeroing (k : Nat) (c : Ctx) : (s.setCtx k c).zeroing = s.zeroing := rfl
@[simp] theorem State.setCtx_fencedStacks (k : Nat) (c : Ctx) : (s.setCtx k c).fencedStacks = s.fencedStacks := rfl
@[simp] theorem State.setCtx_fencedCols (k : Nat) (c : Ctx) : (s.setCtx k c).fencedCols = s.fencedCols := rfl
@[simp] theorem State.setCtx_fencedSplit (k : Nat) (c : Ctx) : (s.setCtx k c).fencedSplit = s.fencedSplit := rfl
@[simp] theorem State.setCtx_log (k : Nat) (c : Ctx) : (s.setCtx k c).log = s.log := rfl
@[simp] theorem State.setCtx_forward (k : Nat) (c : Ctx) : (s.setCtx k c).forward = s.forward := rfl
@[simp] theorem State.setCtx_poisonMet (k : Nat) (c : Ctx) : (s.setCtx k c).poisonMet = s.poisonMet := rfl
@[simp] theorem State.setCtx_origins (k : Nat) (c : Ctx) : (s.setCtx k c).origins = s.origins := rfl
@[simp] theorem State.setCtx_forwarded (k : Nat) (c : Ctx) : (s.setCtx k c).forwarded = s.forwarded := rfl
@[simp] theorem State.setCtx_comms (k : Nat) (c : Ctx) : (s.setCtx k c).comms = s.comms := rfl
@[simp] theorem State.setCtx_xfers (k : Nat) (c : Ctx) : (s.setCtx k c).xfers = s.xfers := rfl
@[simp] theorem State.setCtx_nextXfer (k : Nat) (c : Ctx) : (s.setCtx k c).nextXfer = s.nextXfer := rfl
@[simp] theorem State.setCtx_matchGens (k : Nat) (c : Ctx) : (s.setCtx k c).matchGens = s.matchGens := rfl
@[simp] theorem State.setCtx_tiles (k : Nat) (c : Ctx) : (s.setCtx k c).tiles = s.tiles := rfl
@[simp] theorem State.setCtx_pendingLaunch (k : Nat) (c : Ctx) : (s.setCtx k c).pendingLaunch = s.pendingLaunch := rfl
@[simp] theorem State.setCtx_running (k : Nat) (c : Ctx) : (s.setCtx k c).running = s.running := rfl
@[simp] theorem State.setCtx_keys (k : Nat) (c : Ctx) : (s.setCtx k c).keys = s.keys := rfl
@[simp] theorem State.setCtx_image (k : Nat) (c : Ctx) : (s.setCtx k c).image = s.image := rfl
@[simp] theorem State.setCtx_unloadDue (k : Nat) (c : Ctx) : (s.setCtx k c).unloadDue = s.unloadDue := rfl
@[simp] theorem State.setCtx_splQueue (k : Nat) (c : Ctx) : (s.setCtx k c).splQueue = s.splQueue := rfl
@[simp] theorem State.setCtx_splRun (k : Nat) (c : Ctx) : (s.setCtx k c).splRun = s.splRun := rfl
@[simp] theorem State.setCtx_splPrio (k : Nat) (c : Ctx) : (s.setCtx k c).splPrio = s.splPrio := rfl
@[simp] theorem State.setCtx_msixOn (k : Nat) (c : Ctx) : (s.setCtx k c).msixOn = s.msixOn := rfl
@[simp] theorem State.setCtx_rotNode (k : Nat) (c : Ctx) : (s.setCtx k c).rotNode = s.rotNode := rfl
@[simp] theorem State.setCtx_rotGroup (k : Nat) (c : Ctx) : (s.setCtx k c).rotGroup = s.rotGroup := rfl
@[simp] theorem State.setCtx_sync (k : Nat) (c : Ctx) : (s.setCtx k c).sync = s.sync := rfl
@[simp] theorem State.setCtx_mrs (k : Nat) (c : Ctx) : (s.setCtx k c).mrs = s.mrs := rfl
@[simp] theorem State.setCtx_pwr (k : Nat) (c : Ctx) : (s.setCtx k c).pwr = s.pwr := rfl
@[simp] theorem State.setCtx_i3c (k : Nat) (c : Ctx) : (s.setCtx k c).i3c = s.i3c := rfl
@[simp] theorem State.setCtx_mgt (k : Nat) (c : Ctx) : (s.setCtx k c).mgt = s.mgt := rfl
@[simp] theorem State.setCtx_host (k : Nat) (c : Ctx) : (s.setCtx k c).host = s.host := rfl
@[simp] theorem State.setCtx_sec (k : Nat) (c : Ctx) : (s.setCtx k c).sec = s.sec := rfl
@[simp] theorem State.setCtx_cfg (k : Nat) (c : Ctx) : (s.setCtx k c).cfg = s.cfg := rfl

/-! ### onCtx -/

@[simp] theorem State.onCtx_now (k : Nat) (g : Ctx → Ctx) : (s.onCtx k g).now = s.now := rfl
@[simp] theorem State.onCtx_pending (k : Nat) (g : Ctx → Ctx) : (s.onCtx k g).pending = s.pending := rfl
@[simp] theorem State.onCtx_fresh (k : Nat) (g : Ctx → Ctx) : (s.onCtx k g).fresh = s.fresh := rfl
@[simp] theorem State.onCtx_outbox (k : Nat) (g : Ctx → Ctx) : (s.onCtx k g).outbox = s.outbox := rfl
@[simp] theorem State.onCtx_regs (k : Nat) (g : Ctx → Ctx) : (s.onCtx k g).regs = s.regs := rfl
@[simp] theorem State.onCtx_staged (k : Nat) (g : Ctx → Ctx) : (s.onCtx k g).staged = s.staged := rfl
@[simp] theorem State.onCtx_held (k : Nat) (g : Ctx → Ctx) : (s.onCtx k g).held = s.held := rfl
@[simp] theorem State.onCtx_heldStage (k : Nat) (g : Ctx → Ctx) : (s.onCtx k g).heldStage = s.heldStage := rfl
@[simp] theorem State.onCtx_hw (k : Nat) (g : Ctx → Ctx) : (s.onCtx k g).hw = s.hw := rfl
@[simp] theorem State.onCtx_mem (k : Nat) (g : Ctx → Ctx) : (s.onCtx k g).mem = s.mem := rfl
@[simp] theorem State.onCtx_hostMem (k : Nat) (g : Ctx → Ctx) : (s.onCtx k g).hostMem = s.hostMem := rfl
@[simp] theorem State.onCtx_bootMem (k : Nat) (g : Ctx → Ctx) : (s.onCtx k g).bootMem = s.bootMem := rfl
@[simp] theorem State.onCtx_poisoned (k : Nat) (g : Ctx → Ctx) : (s.onCtx k g).poisoned = s.poisoned := rfl
@[simp] theorem State.onCtx_rowErrors (k : Nat) (g : Ctx → Ctx) : (s.onCtx k g).rowErrors = s.rowErrors := rfl
@[simp] theorem State.onCtx_sparing (k : Nat) (g : Ctx → Ctx) : (s.onCtx k g).sparing = s.sparing := rfl
@[simp] theorem State.onCtx_spared (k : Nat) (g : Ctx → Ctx) : (s.onCtx k g).spared = s.spared := rfl
@[simp] theorem State.onCtx_blocks (k : Nat) (g : Ctx → Ctx) : (s.onCtx k g).blocks = s.blocks := rfl
@[simp] theorem State.onCtx_ueDue (k : Nat) (g : Ctx → Ctx) : (s.onCtx k g).ueDue = s.ueDue := rfl
@[simp] theorem State.onCtx_cores (k : Nat) (g : Ctx → Ctx) : (s.onCtx k g).cores = s.cores := rfl
@[simp] theorem State.onCtx_regions (k : Nat) (g : Ctx → Ctx) : (s.onCtx k g).regions = s.regions := rfl
@[simp] theorem State.onCtx_changes (k : Nat) (g : Ctx → Ctx) : (s.onCtx k g).changes = s.changes := rfl
@[simp] theorem State.onCtx_clearing (k : Nat) (g : Ctx → Ctx) : (s.onCtx k g).clearing = s.clearing := rfl
@[simp] theorem State.onCtx_protectedGranules (k : Nat) (g : Ctx → Ctx) : (s.onCtx k g).protectedGranules = s.protectedGranules := rfl
@[simp] theorem State.onCtx_heldWrites (k : Nat) (g : Ctx → Ctx) : (s.onCtx k g).heldWrites = s.heldWrites := rfl
@[simp] theorem State.onCtx_resetting (k : Nat) (g : Ctx → Ctx) : (s.onCtx k g).resetting = s.resetting := rfl
@[simp] theorem State.onCtx_engines (k : Nat) (g : Ctx → Ctx) : (s.onCtx k g).engines = s.engines := rfl
@[simp] theorem State.onCtx_dsus (k : Nat) (g : Ctx → Ctx) : (s.onCtx k g).dsus = s.dsus := rfl
@[simp] theorem State.onCtx_puus (k : Nat) (g : Ctx → Ctx) : (s.onCtx k g).puus = s.puus := rfl
@[simp] theorem State.onCtx_digs (k : Nat) (g : Ctx → Ctx) : (s.onCtx k g).digs = s.digs := rfl
@[simp] theorem State.onCtx_digBytes (k : Nat) (g : Ctx → Ctx) : (s.onCtx k g).digBytes = s.digBytes := rfl
@[simp] theorem State.onCtx_ports (k : Nat) (g : Ctx → Ctx) : (s.onCtx k g).ports = s.ports := rfl
@[simp] theorem State.onCtx_traffic (k : Nat) (g : Ctx → Ctx) : (s.onCtx k g).traffic = s.traffic := rfl
@[simp] theorem State.onCtx_zeroing (k : Nat) (g : Ctx → Ctx) : (s.onCtx k g).zeroing = s.zeroing := rfl
@[simp] theorem State.onCtx_fencedStacks (k : Nat) (g : Ctx → Ctx) : (s.onCtx k g).fencedStacks = s.fencedStacks := rfl
@[simp] theorem State.onCtx_fencedCols (k : Nat) (g : Ctx → Ctx) : (s.onCtx k g).fencedCols = s.fencedCols := rfl
@[simp] theorem State.onCtx_fencedSplit (k : Nat) (g : Ctx → Ctx) : (s.onCtx k g).fencedSplit = s.fencedSplit := rfl
@[simp] theorem State.onCtx_log (k : Nat) (g : Ctx → Ctx) : (s.onCtx k g).log = s.log := rfl
@[simp] theorem State.onCtx_forward (k : Nat) (g : Ctx → Ctx) : (s.onCtx k g).forward = s.forward := rfl
@[simp] theorem State.onCtx_poisonMet (k : Nat) (g : Ctx → Ctx) : (s.onCtx k g).poisonMet = s.poisonMet := rfl
@[simp] theorem State.onCtx_origins (k : Nat) (g : Ctx → Ctx) : (s.onCtx k g).origins = s.origins := rfl
@[simp] theorem State.onCtx_forwarded (k : Nat) (g : Ctx → Ctx) : (s.onCtx k g).forwarded = s.forwarded := rfl
@[simp] theorem State.onCtx_comms (k : Nat) (g : Ctx → Ctx) : (s.onCtx k g).comms = s.comms := rfl
@[simp] theorem State.onCtx_xfers (k : Nat) (g : Ctx → Ctx) : (s.onCtx k g).xfers = s.xfers := rfl
@[simp] theorem State.onCtx_nextXfer (k : Nat) (g : Ctx → Ctx) : (s.onCtx k g).nextXfer = s.nextXfer := rfl
@[simp] theorem State.onCtx_matchGens (k : Nat) (g : Ctx → Ctx) : (s.onCtx k g).matchGens = s.matchGens := rfl
@[simp] theorem State.onCtx_tiles (k : Nat) (g : Ctx → Ctx) : (s.onCtx k g).tiles = s.tiles := rfl
@[simp] theorem State.onCtx_pendingLaunch (k : Nat) (g : Ctx → Ctx) : (s.onCtx k g).pendingLaunch = s.pendingLaunch := rfl
@[simp] theorem State.onCtx_running (k : Nat) (g : Ctx → Ctx) : (s.onCtx k g).running = s.running := rfl
@[simp] theorem State.onCtx_keys (k : Nat) (g : Ctx → Ctx) : (s.onCtx k g).keys = s.keys := rfl
@[simp] theorem State.onCtx_image (k : Nat) (g : Ctx → Ctx) : (s.onCtx k g).image = s.image := rfl
@[simp] theorem State.onCtx_unloadDue (k : Nat) (g : Ctx → Ctx) : (s.onCtx k g).unloadDue = s.unloadDue := rfl
@[simp] theorem State.onCtx_splQueue (k : Nat) (g : Ctx → Ctx) : (s.onCtx k g).splQueue = s.splQueue := rfl
@[simp] theorem State.onCtx_splRun (k : Nat) (g : Ctx → Ctx) : (s.onCtx k g).splRun = s.splRun := rfl
@[simp] theorem State.onCtx_splPrio (k : Nat) (g : Ctx → Ctx) : (s.onCtx k g).splPrio = s.splPrio := rfl
@[simp] theorem State.onCtx_msixOn (k : Nat) (g : Ctx → Ctx) : (s.onCtx k g).msixOn = s.msixOn := rfl
@[simp] theorem State.onCtx_rotNode (k : Nat) (g : Ctx → Ctx) : (s.onCtx k g).rotNode = s.rotNode := rfl
@[simp] theorem State.onCtx_rotGroup (k : Nat) (g : Ctx → Ctx) : (s.onCtx k g).rotGroup = s.rotGroup := rfl
@[simp] theorem State.onCtx_sync (k : Nat) (g : Ctx → Ctx) : (s.onCtx k g).sync = s.sync := rfl
@[simp] theorem State.onCtx_mrs (k : Nat) (g : Ctx → Ctx) : (s.onCtx k g).mrs = s.mrs := rfl
@[simp] theorem State.onCtx_pwr (k : Nat) (g : Ctx → Ctx) : (s.onCtx k g).pwr = s.pwr := rfl
@[simp] theorem State.onCtx_i3c (k : Nat) (g : Ctx → Ctx) : (s.onCtx k g).i3c = s.i3c := rfl
@[simp] theorem State.onCtx_mgt (k : Nat) (g : Ctx → Ctx) : (s.onCtx k g).mgt = s.mgt := rfl
@[simp] theorem State.onCtx_host (k : Nat) (g : Ctx → Ctx) : (s.onCtx k g).host = s.host := rfl
@[simp] theorem State.onCtx_sec (k : Nat) (g : Ctx → Ctx) : (s.onCtx k g).sec = s.sec := rfl
@[simp] theorem State.onCtx_cfg (k : Nat) (g : Ctx → Ctx) : (s.onCtx k g).cfg = s.cfg := rfl

/-! ### setCore -/

@[simp] theorem State.setCore_now (g : Nat) (c : CoreRec) : (s.setCore g c).now = s.now := rfl
@[simp] theorem State.setCore_pending (g : Nat) (c : CoreRec) : (s.setCore g c).pending = s.pending := rfl
@[simp] theorem State.setCore_fresh (g : Nat) (c : CoreRec) : (s.setCore g c).fresh = s.fresh := rfl
@[simp] theorem State.setCore_outbox (g : Nat) (c : CoreRec) : (s.setCore g c).outbox = s.outbox := rfl
@[simp] theorem State.setCore_regs (g : Nat) (c : CoreRec) : (s.setCore g c).regs = s.regs := rfl
@[simp] theorem State.setCore_staged (g : Nat) (c : CoreRec) : (s.setCore g c).staged = s.staged := rfl
@[simp] theorem State.setCore_held (g : Nat) (c : CoreRec) : (s.setCore g c).held = s.held := rfl
@[simp] theorem State.setCore_heldStage (g : Nat) (c : CoreRec) : (s.setCore g c).heldStage = s.heldStage := rfl
@[simp] theorem State.setCore_hw (g : Nat) (c : CoreRec) : (s.setCore g c).hw = s.hw := rfl
@[simp] theorem State.setCore_mem (g : Nat) (c : CoreRec) : (s.setCore g c).mem = s.mem := rfl
@[simp] theorem State.setCore_hostMem (g : Nat) (c : CoreRec) : (s.setCore g c).hostMem = s.hostMem := rfl
@[simp] theorem State.setCore_bootMem (g : Nat) (c : CoreRec) : (s.setCore g c).bootMem = s.bootMem := rfl
@[simp] theorem State.setCore_poisoned (g : Nat) (c : CoreRec) : (s.setCore g c).poisoned = s.poisoned := rfl
@[simp] theorem State.setCore_rowErrors (g : Nat) (c : CoreRec) : (s.setCore g c).rowErrors = s.rowErrors := rfl
@[simp] theorem State.setCore_sparing (g : Nat) (c : CoreRec) : (s.setCore g c).sparing = s.sparing := rfl
@[simp] theorem State.setCore_spared (g : Nat) (c : CoreRec) : (s.setCore g c).spared = s.spared := rfl
@[simp] theorem State.setCore_blocks (g : Nat) (c : CoreRec) : (s.setCore g c).blocks = s.blocks := rfl
@[simp] theorem State.setCore_ueDue (g : Nat) (c : CoreRec) : (s.setCore g c).ueDue = s.ueDue := rfl
@[simp] theorem State.setCore_harts (g : Nat) (c : CoreRec) : (s.setCore g c).harts = s.harts := rfl
@[simp] theorem State.setCore_regions (g : Nat) (c : CoreRec) : (s.setCore g c).regions = s.regions := rfl
@[simp] theorem State.setCore_changes (g : Nat) (c : CoreRec) : (s.setCore g c).changes = s.changes := rfl
@[simp] theorem State.setCore_clearing (g : Nat) (c : CoreRec) : (s.setCore g c).clearing = s.clearing := rfl
@[simp] theorem State.setCore_protectedGranules (g : Nat) (c : CoreRec) : (s.setCore g c).protectedGranules = s.protectedGranules := rfl
@[simp] theorem State.setCore_heldWrites (g : Nat) (c : CoreRec) : (s.setCore g c).heldWrites = s.heldWrites := rfl
@[simp] theorem State.setCore_resetting (g : Nat) (c : CoreRec) : (s.setCore g c).resetting = s.resetting := rfl
@[simp] theorem State.setCore_engines (g : Nat) (c : CoreRec) : (s.setCore g c).engines = s.engines := rfl
@[simp] theorem State.setCore_dsus (g : Nat) (c : CoreRec) : (s.setCore g c).dsus = s.dsus := rfl
@[simp] theorem State.setCore_puus (g : Nat) (c : CoreRec) : (s.setCore g c).puus = s.puus := rfl
@[simp] theorem State.setCore_digs (g : Nat) (c : CoreRec) : (s.setCore g c).digs = s.digs := rfl
@[simp] theorem State.setCore_digBytes (g : Nat) (c : CoreRec) : (s.setCore g c).digBytes = s.digBytes := rfl
@[simp] theorem State.setCore_ports (g : Nat) (c : CoreRec) : (s.setCore g c).ports = s.ports := rfl
@[simp] theorem State.setCore_traffic (g : Nat) (c : CoreRec) : (s.setCore g c).traffic = s.traffic := rfl
@[simp] theorem State.setCore_zeroing (g : Nat) (c : CoreRec) : (s.setCore g c).zeroing = s.zeroing := rfl
@[simp] theorem State.setCore_fencedStacks (g : Nat) (c : CoreRec) : (s.setCore g c).fencedStacks = s.fencedStacks := rfl
@[simp] theorem State.setCore_fencedCols (g : Nat) (c : CoreRec) : (s.setCore g c).fencedCols = s.fencedCols := rfl
@[simp] theorem State.setCore_fencedSplit (g : Nat) (c : CoreRec) : (s.setCore g c).fencedSplit = s.fencedSplit := rfl
@[simp] theorem State.setCore_log (g : Nat) (c : CoreRec) : (s.setCore g c).log = s.log := rfl
@[simp] theorem State.setCore_forward (g : Nat) (c : CoreRec) : (s.setCore g c).forward = s.forward := rfl
@[simp] theorem State.setCore_poisonMet (g : Nat) (c : CoreRec) : (s.setCore g c).poisonMet = s.poisonMet := rfl
@[simp] theorem State.setCore_origins (g : Nat) (c : CoreRec) : (s.setCore g c).origins = s.origins := rfl
@[simp] theorem State.setCore_forwarded (g : Nat) (c : CoreRec) : (s.setCore g c).forwarded = s.forwarded := rfl
@[simp] theorem State.setCore_comms (g : Nat) (c : CoreRec) : (s.setCore g c).comms = s.comms := rfl
@[simp] theorem State.setCore_xfers (g : Nat) (c : CoreRec) : (s.setCore g c).xfers = s.xfers := rfl
@[simp] theorem State.setCore_nextXfer (g : Nat) (c : CoreRec) : (s.setCore g c).nextXfer = s.nextXfer := rfl
@[simp] theorem State.setCore_matchGens (g : Nat) (c : CoreRec) : (s.setCore g c).matchGens = s.matchGens := rfl
@[simp] theorem State.setCore_tiles (g : Nat) (c : CoreRec) : (s.setCore g c).tiles = s.tiles := rfl
@[simp] theorem State.setCore_pendingLaunch (g : Nat) (c : CoreRec) : (s.setCore g c).pendingLaunch = s.pendingLaunch := rfl
@[simp] theorem State.setCore_running (g : Nat) (c : CoreRec) : (s.setCore g c).running = s.running := rfl
@[simp] theorem State.setCore_keys (g : Nat) (c : CoreRec) : (s.setCore g c).keys = s.keys := rfl
@[simp] theorem State.setCore_image (g : Nat) (c : CoreRec) : (s.setCore g c).image = s.image := rfl
@[simp] theorem State.setCore_unloadDue (g : Nat) (c : CoreRec) : (s.setCore g c).unloadDue = s.unloadDue := rfl
@[simp] theorem State.setCore_splQueue (g : Nat) (c : CoreRec) : (s.setCore g c).splQueue = s.splQueue := rfl
@[simp] theorem State.setCore_splRun (g : Nat) (c : CoreRec) : (s.setCore g c).splRun = s.splRun := rfl
@[simp] theorem State.setCore_splPrio (g : Nat) (c : CoreRec) : (s.setCore g c).splPrio = s.splPrio := rfl
@[simp] theorem State.setCore_msixOn (g : Nat) (c : CoreRec) : (s.setCore g c).msixOn = s.msixOn := rfl
@[simp] theorem State.setCore_rotNode (g : Nat) (c : CoreRec) : (s.setCore g c).rotNode = s.rotNode := rfl
@[simp] theorem State.setCore_rotGroup (g : Nat) (c : CoreRec) : (s.setCore g c).rotGroup = s.rotGroup := rfl
@[simp] theorem State.setCore_sync (g : Nat) (c : CoreRec) : (s.setCore g c).sync = s.sync := rfl
@[simp] theorem State.setCore_mrs (g : Nat) (c : CoreRec) : (s.setCore g c).mrs = s.mrs := rfl
@[simp] theorem State.setCore_pwr (g : Nat) (c : CoreRec) : (s.setCore g c).pwr = s.pwr := rfl
@[simp] theorem State.setCore_i3c (g : Nat) (c : CoreRec) : (s.setCore g c).i3c = s.i3c := rfl
@[simp] theorem State.setCore_mgt (g : Nat) (c : CoreRec) : (s.setCore g c).mgt = s.mgt := rfl
@[simp] theorem State.setCore_host (g : Nat) (c : CoreRec) : (s.setCore g c).host = s.host := rfl
@[simp] theorem State.setCore_sec (g : Nat) (c : CoreRec) : (s.setCore g c).sec = s.sec := rfl
@[simp] theorem State.setCore_cfg (g : Nat) (c : CoreRec) : (s.setCore g c).cfg = s.cfg := rfl

/-! ### setEngine -/

@[simp] theorem State.setEngine_now (e : Nat) (v : Engine) : (s.setEngine e v).now = s.now := rfl
@[simp] theorem State.setEngine_pending (e : Nat) (v : Engine) : (s.setEngine e v).pending = s.pending := rfl
@[simp] theorem State.setEngine_fresh (e : Nat) (v : Engine) : (s.setEngine e v).fresh = s.fresh := rfl
@[simp] theorem State.setEngine_outbox (e : Nat) (v : Engine) : (s.setEngine e v).outbox = s.outbox := rfl
@[simp] theorem State.setEngine_regs (e : Nat) (v : Engine) : (s.setEngine e v).regs = s.regs := rfl
@[simp] theorem State.setEngine_staged (e : Nat) (v : Engine) : (s.setEngine e v).staged = s.staged := rfl
@[simp] theorem State.setEngine_held (e : Nat) (v : Engine) : (s.setEngine e v).held = s.held := rfl
@[simp] theorem State.setEngine_heldStage (e : Nat) (v : Engine) : (s.setEngine e v).heldStage = s.heldStage := rfl
@[simp] theorem State.setEngine_hw (e : Nat) (v : Engine) : (s.setEngine e v).hw = s.hw := rfl
@[simp] theorem State.setEngine_mem (e : Nat) (v : Engine) : (s.setEngine e v).mem = s.mem := rfl
@[simp] theorem State.setEngine_hostMem (e : Nat) (v : Engine) : (s.setEngine e v).hostMem = s.hostMem := rfl
@[simp] theorem State.setEngine_bootMem (e : Nat) (v : Engine) : (s.setEngine e v).bootMem = s.bootMem := rfl
@[simp] theorem State.setEngine_poisoned (e : Nat) (v : Engine) : (s.setEngine e v).poisoned = s.poisoned := rfl
@[simp] theorem State.setEngine_rowErrors (e : Nat) (v : Engine) : (s.setEngine e v).rowErrors = s.rowErrors := rfl
@[simp] theorem State.setEngine_sparing (e : Nat) (v : Engine) : (s.setEngine e v).sparing = s.sparing := rfl
@[simp] theorem State.setEngine_spared (e : Nat) (v : Engine) : (s.setEngine e v).spared = s.spared := rfl
@[simp] theorem State.setEngine_blocks (e : Nat) (v : Engine) : (s.setEngine e v).blocks = s.blocks := rfl
@[simp] theorem State.setEngine_ueDue (e : Nat) (v : Engine) : (s.setEngine e v).ueDue = s.ueDue := rfl
@[simp] theorem State.setEngine_harts (e : Nat) (v : Engine) : (s.setEngine e v).harts = s.harts := rfl
@[simp] theorem State.setEngine_cores (e : Nat) (v : Engine) : (s.setEngine e v).cores = s.cores := rfl
@[simp] theorem State.setEngine_regions (e : Nat) (v : Engine) : (s.setEngine e v).regions = s.regions := rfl
@[simp] theorem State.setEngine_changes (e : Nat) (v : Engine) : (s.setEngine e v).changes = s.changes := rfl
@[simp] theorem State.setEngine_clearing (e : Nat) (v : Engine) : (s.setEngine e v).clearing = s.clearing := rfl
@[simp] theorem State.setEngine_protectedGranules (e : Nat) (v : Engine) : (s.setEngine e v).protectedGranules = s.protectedGranules := rfl
@[simp] theorem State.setEngine_heldWrites (e : Nat) (v : Engine) : (s.setEngine e v).heldWrites = s.heldWrites := rfl
@[simp] theorem State.setEngine_resetting (e : Nat) (v : Engine) : (s.setEngine e v).resetting = s.resetting := rfl
@[simp] theorem State.setEngine_dsus (e : Nat) (v : Engine) : (s.setEngine e v).dsus = s.dsus := rfl
@[simp] theorem State.setEngine_puus (e : Nat) (v : Engine) : (s.setEngine e v).puus = s.puus := rfl
@[simp] theorem State.setEngine_digs (e : Nat) (v : Engine) : (s.setEngine e v).digs = s.digs := rfl
@[simp] theorem State.setEngine_digBytes (e : Nat) (v : Engine) : (s.setEngine e v).digBytes = s.digBytes := rfl
@[simp] theorem State.setEngine_ports (e : Nat) (v : Engine) : (s.setEngine e v).ports = s.ports := rfl
@[simp] theorem State.setEngine_traffic (e : Nat) (v : Engine) : (s.setEngine e v).traffic = s.traffic := rfl
@[simp] theorem State.setEngine_zeroing (e : Nat) (v : Engine) : (s.setEngine e v).zeroing = s.zeroing := rfl
@[simp] theorem State.setEngine_fencedStacks (e : Nat) (v : Engine) : (s.setEngine e v).fencedStacks = s.fencedStacks := rfl
@[simp] theorem State.setEngine_fencedCols (e : Nat) (v : Engine) : (s.setEngine e v).fencedCols = s.fencedCols := rfl
@[simp] theorem State.setEngine_fencedSplit (e : Nat) (v : Engine) : (s.setEngine e v).fencedSplit = s.fencedSplit := rfl
@[simp] theorem State.setEngine_log (e : Nat) (v : Engine) : (s.setEngine e v).log = s.log := rfl
@[simp] theorem State.setEngine_forward (e : Nat) (v : Engine) : (s.setEngine e v).forward = s.forward := rfl
@[simp] theorem State.setEngine_poisonMet (e : Nat) (v : Engine) : (s.setEngine e v).poisonMet = s.poisonMet := rfl
@[simp] theorem State.setEngine_origins (e : Nat) (v : Engine) : (s.setEngine e v).origins = s.origins := rfl
@[simp] theorem State.setEngine_forwarded (e : Nat) (v : Engine) : (s.setEngine e v).forwarded = s.forwarded := rfl
@[simp] theorem State.setEngine_comms (e : Nat) (v : Engine) : (s.setEngine e v).comms = s.comms := rfl
@[simp] theorem State.setEngine_xfers (e : Nat) (v : Engine) : (s.setEngine e v).xfers = s.xfers := rfl
@[simp] theorem State.setEngine_nextXfer (e : Nat) (v : Engine) : (s.setEngine e v).nextXfer = s.nextXfer := rfl
@[simp] theorem State.setEngine_matchGens (e : Nat) (v : Engine) : (s.setEngine e v).matchGens = s.matchGens := rfl
@[simp] theorem State.setEngine_tiles (e : Nat) (v : Engine) : (s.setEngine e v).tiles = s.tiles := rfl
@[simp] theorem State.setEngine_pendingLaunch (e : Nat) (v : Engine) : (s.setEngine e v).pendingLaunch = s.pendingLaunch := rfl
@[simp] theorem State.setEngine_running (e : Nat) (v : Engine) : (s.setEngine e v).running = s.running := rfl
@[simp] theorem State.setEngine_keys (e : Nat) (v : Engine) : (s.setEngine e v).keys = s.keys := rfl
@[simp] theorem State.setEngine_image (e : Nat) (v : Engine) : (s.setEngine e v).image = s.image := rfl
@[simp] theorem State.setEngine_unloadDue (e : Nat) (v : Engine) : (s.setEngine e v).unloadDue = s.unloadDue := rfl
@[simp] theorem State.setEngine_splQueue (e : Nat) (v : Engine) : (s.setEngine e v).splQueue = s.splQueue := rfl
@[simp] theorem State.setEngine_splRun (e : Nat) (v : Engine) : (s.setEngine e v).splRun = s.splRun := rfl
@[simp] theorem State.setEngine_splPrio (e : Nat) (v : Engine) : (s.setEngine e v).splPrio = s.splPrio := rfl
@[simp] theorem State.setEngine_msixOn (e : Nat) (v : Engine) : (s.setEngine e v).msixOn = s.msixOn := rfl
@[simp] theorem State.setEngine_rotNode (e : Nat) (v : Engine) : (s.setEngine e v).rotNode = s.rotNode := rfl
@[simp] theorem State.setEngine_rotGroup (e : Nat) (v : Engine) : (s.setEngine e v).rotGroup = s.rotGroup := rfl
@[simp] theorem State.setEngine_sync (e : Nat) (v : Engine) : (s.setEngine e v).sync = s.sync := rfl
@[simp] theorem State.setEngine_mrs (e : Nat) (v : Engine) : (s.setEngine e v).mrs = s.mrs := rfl
@[simp] theorem State.setEngine_pwr (e : Nat) (v : Engine) : (s.setEngine e v).pwr = s.pwr := rfl
@[simp] theorem State.setEngine_i3c (e : Nat) (v : Engine) : (s.setEngine e v).i3c = s.i3c := rfl
@[simp] theorem State.setEngine_mgt (e : Nat) (v : Engine) : (s.setEngine e v).mgt = s.mgt := rfl
@[simp] theorem State.setEngine_host (e : Nat) (v : Engine) : (s.setEngine e v).host = s.host := rfl
@[simp] theorem State.setEngine_sec (e : Nat) (v : Engine) : (s.setEngine e v).sec = s.sec := rfl
@[simp] theorem State.setEngine_cfg (e : Nat) (v : Engine) : (s.setEngine e v).cfg = s.cfg := rfl

/-! ### setDsu -/

@[simp] theorem State.setDsu_now (u : Nat) (v : Dsu) : (s.setDsu u v).now = s.now := rfl
@[simp] theorem State.setDsu_pending (u : Nat) (v : Dsu) : (s.setDsu u v).pending = s.pending := rfl
@[simp] theorem State.setDsu_fresh (u : Nat) (v : Dsu) : (s.setDsu u v).fresh = s.fresh := rfl
@[simp] theorem State.setDsu_outbox (u : Nat) (v : Dsu) : (s.setDsu u v).outbox = s.outbox := rfl
@[simp] theorem State.setDsu_regs (u : Nat) (v : Dsu) : (s.setDsu u v).regs = s.regs := rfl
@[simp] theorem State.setDsu_staged (u : Nat) (v : Dsu) : (s.setDsu u v).staged = s.staged := rfl
@[simp] theorem State.setDsu_held (u : Nat) (v : Dsu) : (s.setDsu u v).held = s.held := rfl
@[simp] theorem State.setDsu_heldStage (u : Nat) (v : Dsu) : (s.setDsu u v).heldStage = s.heldStage := rfl
@[simp] theorem State.setDsu_hw (u : Nat) (v : Dsu) : (s.setDsu u v).hw = s.hw := rfl
@[simp] theorem State.setDsu_mem (u : Nat) (v : Dsu) : (s.setDsu u v).mem = s.mem := rfl
@[simp] theorem State.setDsu_hostMem (u : Nat) (v : Dsu) : (s.setDsu u v).hostMem = s.hostMem := rfl
@[simp] theorem State.setDsu_bootMem (u : Nat) (v : Dsu) : (s.setDsu u v).bootMem = s.bootMem := rfl
@[simp] theorem State.setDsu_poisoned (u : Nat) (v : Dsu) : (s.setDsu u v).poisoned = s.poisoned := rfl
@[simp] theorem State.setDsu_rowErrors (u : Nat) (v : Dsu) : (s.setDsu u v).rowErrors = s.rowErrors := rfl
@[simp] theorem State.setDsu_sparing (u : Nat) (v : Dsu) : (s.setDsu u v).sparing = s.sparing := rfl
@[simp] theorem State.setDsu_spared (u : Nat) (v : Dsu) : (s.setDsu u v).spared = s.spared := rfl
@[simp] theorem State.setDsu_blocks (u : Nat) (v : Dsu) : (s.setDsu u v).blocks = s.blocks := rfl
@[simp] theorem State.setDsu_ueDue (u : Nat) (v : Dsu) : (s.setDsu u v).ueDue = s.ueDue := rfl
@[simp] theorem State.setDsu_harts (u : Nat) (v : Dsu) : (s.setDsu u v).harts = s.harts := rfl
@[simp] theorem State.setDsu_cores (u : Nat) (v : Dsu) : (s.setDsu u v).cores = s.cores := rfl
@[simp] theorem State.setDsu_regions (u : Nat) (v : Dsu) : (s.setDsu u v).regions = s.regions := rfl
@[simp] theorem State.setDsu_changes (u : Nat) (v : Dsu) : (s.setDsu u v).changes = s.changes := rfl
@[simp] theorem State.setDsu_clearing (u : Nat) (v : Dsu) : (s.setDsu u v).clearing = s.clearing := rfl
@[simp] theorem State.setDsu_protectedGranules (u : Nat) (v : Dsu) : (s.setDsu u v).protectedGranules = s.protectedGranules := rfl
@[simp] theorem State.setDsu_heldWrites (u : Nat) (v : Dsu) : (s.setDsu u v).heldWrites = s.heldWrites := rfl
@[simp] theorem State.setDsu_resetting (u : Nat) (v : Dsu) : (s.setDsu u v).resetting = s.resetting := rfl
@[simp] theorem State.setDsu_engines (u : Nat) (v : Dsu) : (s.setDsu u v).engines = s.engines := rfl
@[simp] theorem State.setDsu_puus (u : Nat) (v : Dsu) : (s.setDsu u v).puus = s.puus := rfl
@[simp] theorem State.setDsu_digs (u : Nat) (v : Dsu) : (s.setDsu u v).digs = s.digs := rfl
@[simp] theorem State.setDsu_digBytes (u : Nat) (v : Dsu) : (s.setDsu u v).digBytes = s.digBytes := rfl
@[simp] theorem State.setDsu_ports (u : Nat) (v : Dsu) : (s.setDsu u v).ports = s.ports := rfl
@[simp] theorem State.setDsu_traffic (u : Nat) (v : Dsu) : (s.setDsu u v).traffic = s.traffic := rfl
@[simp] theorem State.setDsu_zeroing (u : Nat) (v : Dsu) : (s.setDsu u v).zeroing = s.zeroing := rfl
@[simp] theorem State.setDsu_fencedStacks (u : Nat) (v : Dsu) : (s.setDsu u v).fencedStacks = s.fencedStacks := rfl
@[simp] theorem State.setDsu_fencedCols (u : Nat) (v : Dsu) : (s.setDsu u v).fencedCols = s.fencedCols := rfl
@[simp] theorem State.setDsu_fencedSplit (u : Nat) (v : Dsu) : (s.setDsu u v).fencedSplit = s.fencedSplit := rfl
@[simp] theorem State.setDsu_log (u : Nat) (v : Dsu) : (s.setDsu u v).log = s.log := rfl
@[simp] theorem State.setDsu_forward (u : Nat) (v : Dsu) : (s.setDsu u v).forward = s.forward := rfl
@[simp] theorem State.setDsu_poisonMet (u : Nat) (v : Dsu) : (s.setDsu u v).poisonMet = s.poisonMet := rfl
@[simp] theorem State.setDsu_origins (u : Nat) (v : Dsu) : (s.setDsu u v).origins = s.origins := rfl
@[simp] theorem State.setDsu_forwarded (u : Nat) (v : Dsu) : (s.setDsu u v).forwarded = s.forwarded := rfl
@[simp] theorem State.setDsu_comms (u : Nat) (v : Dsu) : (s.setDsu u v).comms = s.comms := rfl
@[simp] theorem State.setDsu_xfers (u : Nat) (v : Dsu) : (s.setDsu u v).xfers = s.xfers := rfl
@[simp] theorem State.setDsu_nextXfer (u : Nat) (v : Dsu) : (s.setDsu u v).nextXfer = s.nextXfer := rfl
@[simp] theorem State.setDsu_matchGens (u : Nat) (v : Dsu) : (s.setDsu u v).matchGens = s.matchGens := rfl
@[simp] theorem State.setDsu_tiles (u : Nat) (v : Dsu) : (s.setDsu u v).tiles = s.tiles := rfl
@[simp] theorem State.setDsu_pendingLaunch (u : Nat) (v : Dsu) : (s.setDsu u v).pendingLaunch = s.pendingLaunch := rfl
@[simp] theorem State.setDsu_running (u : Nat) (v : Dsu) : (s.setDsu u v).running = s.running := rfl
@[simp] theorem State.setDsu_keys (u : Nat) (v : Dsu) : (s.setDsu u v).keys = s.keys := rfl
@[simp] theorem State.setDsu_image (u : Nat) (v : Dsu) : (s.setDsu u v).image = s.image := rfl
@[simp] theorem State.setDsu_unloadDue (u : Nat) (v : Dsu) : (s.setDsu u v).unloadDue = s.unloadDue := rfl
@[simp] theorem State.setDsu_splQueue (u : Nat) (v : Dsu) : (s.setDsu u v).splQueue = s.splQueue := rfl
@[simp] theorem State.setDsu_splRun (u : Nat) (v : Dsu) : (s.setDsu u v).splRun = s.splRun := rfl
@[simp] theorem State.setDsu_splPrio (u : Nat) (v : Dsu) : (s.setDsu u v).splPrio = s.splPrio := rfl
@[simp] theorem State.setDsu_msixOn (u : Nat) (v : Dsu) : (s.setDsu u v).msixOn = s.msixOn := rfl
@[simp] theorem State.setDsu_rotNode (u : Nat) (v : Dsu) : (s.setDsu u v).rotNode = s.rotNode := rfl
@[simp] theorem State.setDsu_rotGroup (u : Nat) (v : Dsu) : (s.setDsu u v).rotGroup = s.rotGroup := rfl
@[simp] theorem State.setDsu_sync (u : Nat) (v : Dsu) : (s.setDsu u v).sync = s.sync := rfl
@[simp] theorem State.setDsu_mrs (u : Nat) (v : Dsu) : (s.setDsu u v).mrs = s.mrs := rfl
@[simp] theorem State.setDsu_pwr (u : Nat) (v : Dsu) : (s.setDsu u v).pwr = s.pwr := rfl
@[simp] theorem State.setDsu_i3c (u : Nat) (v : Dsu) : (s.setDsu u v).i3c = s.i3c := rfl
@[simp] theorem State.setDsu_mgt (u : Nat) (v : Dsu) : (s.setDsu u v).mgt = s.mgt := rfl
@[simp] theorem State.setDsu_host (u : Nat) (v : Dsu) : (s.setDsu u v).host = s.host := rfl
@[simp] theorem State.setDsu_sec (u : Nat) (v : Dsu) : (s.setDsu u v).sec = s.sec := rfl
@[simp] theorem State.setDsu_cfg (u : Nat) (v : Dsu) : (s.setDsu u v).cfg = s.cfg := rfl

/-! ### setPuu -/

@[simp] theorem State.setPuu_now (u : Nat) (v : Puu) : (s.setPuu u v).now = s.now := rfl
@[simp] theorem State.setPuu_pending (u : Nat) (v : Puu) : (s.setPuu u v).pending = s.pending := rfl
@[simp] theorem State.setPuu_fresh (u : Nat) (v : Puu) : (s.setPuu u v).fresh = s.fresh := rfl
@[simp] theorem State.setPuu_outbox (u : Nat) (v : Puu) : (s.setPuu u v).outbox = s.outbox := rfl
@[simp] theorem State.setPuu_regs (u : Nat) (v : Puu) : (s.setPuu u v).regs = s.regs := rfl
@[simp] theorem State.setPuu_staged (u : Nat) (v : Puu) : (s.setPuu u v).staged = s.staged := rfl
@[simp] theorem State.setPuu_held (u : Nat) (v : Puu) : (s.setPuu u v).held = s.held := rfl
@[simp] theorem State.setPuu_heldStage (u : Nat) (v : Puu) : (s.setPuu u v).heldStage = s.heldStage := rfl
@[simp] theorem State.setPuu_hw (u : Nat) (v : Puu) : (s.setPuu u v).hw = s.hw := rfl
@[simp] theorem State.setPuu_mem (u : Nat) (v : Puu) : (s.setPuu u v).mem = s.mem := rfl
@[simp] theorem State.setPuu_hostMem (u : Nat) (v : Puu) : (s.setPuu u v).hostMem = s.hostMem := rfl
@[simp] theorem State.setPuu_bootMem (u : Nat) (v : Puu) : (s.setPuu u v).bootMem = s.bootMem := rfl
@[simp] theorem State.setPuu_poisoned (u : Nat) (v : Puu) : (s.setPuu u v).poisoned = s.poisoned := rfl
@[simp] theorem State.setPuu_rowErrors (u : Nat) (v : Puu) : (s.setPuu u v).rowErrors = s.rowErrors := rfl
@[simp] theorem State.setPuu_sparing (u : Nat) (v : Puu) : (s.setPuu u v).sparing = s.sparing := rfl
@[simp] theorem State.setPuu_spared (u : Nat) (v : Puu) : (s.setPuu u v).spared = s.spared := rfl
@[simp] theorem State.setPuu_blocks (u : Nat) (v : Puu) : (s.setPuu u v).blocks = s.blocks := rfl
@[simp] theorem State.setPuu_ueDue (u : Nat) (v : Puu) : (s.setPuu u v).ueDue = s.ueDue := rfl
@[simp] theorem State.setPuu_harts (u : Nat) (v : Puu) : (s.setPuu u v).harts = s.harts := rfl
@[simp] theorem State.setPuu_cores (u : Nat) (v : Puu) : (s.setPuu u v).cores = s.cores := rfl
@[simp] theorem State.setPuu_regions (u : Nat) (v : Puu) : (s.setPuu u v).regions = s.regions := rfl
@[simp] theorem State.setPuu_changes (u : Nat) (v : Puu) : (s.setPuu u v).changes = s.changes := rfl
@[simp] theorem State.setPuu_clearing (u : Nat) (v : Puu) : (s.setPuu u v).clearing = s.clearing := rfl
@[simp] theorem State.setPuu_protectedGranules (u : Nat) (v : Puu) : (s.setPuu u v).protectedGranules = s.protectedGranules := rfl
@[simp] theorem State.setPuu_heldWrites (u : Nat) (v : Puu) : (s.setPuu u v).heldWrites = s.heldWrites := rfl
@[simp] theorem State.setPuu_resetting (u : Nat) (v : Puu) : (s.setPuu u v).resetting = s.resetting := rfl
@[simp] theorem State.setPuu_engines (u : Nat) (v : Puu) : (s.setPuu u v).engines = s.engines := rfl
@[simp] theorem State.setPuu_dsus (u : Nat) (v : Puu) : (s.setPuu u v).dsus = s.dsus := rfl
@[simp] theorem State.setPuu_digs (u : Nat) (v : Puu) : (s.setPuu u v).digs = s.digs := rfl
@[simp] theorem State.setPuu_digBytes (u : Nat) (v : Puu) : (s.setPuu u v).digBytes = s.digBytes := rfl
@[simp] theorem State.setPuu_ports (u : Nat) (v : Puu) : (s.setPuu u v).ports = s.ports := rfl
@[simp] theorem State.setPuu_traffic (u : Nat) (v : Puu) : (s.setPuu u v).traffic = s.traffic := rfl
@[simp] theorem State.setPuu_zeroing (u : Nat) (v : Puu) : (s.setPuu u v).zeroing = s.zeroing := rfl
@[simp] theorem State.setPuu_fencedStacks (u : Nat) (v : Puu) : (s.setPuu u v).fencedStacks = s.fencedStacks := rfl
@[simp] theorem State.setPuu_fencedCols (u : Nat) (v : Puu) : (s.setPuu u v).fencedCols = s.fencedCols := rfl
@[simp] theorem State.setPuu_fencedSplit (u : Nat) (v : Puu) : (s.setPuu u v).fencedSplit = s.fencedSplit := rfl
@[simp] theorem State.setPuu_log (u : Nat) (v : Puu) : (s.setPuu u v).log = s.log := rfl
@[simp] theorem State.setPuu_forward (u : Nat) (v : Puu) : (s.setPuu u v).forward = s.forward := rfl
@[simp] theorem State.setPuu_poisonMet (u : Nat) (v : Puu) : (s.setPuu u v).poisonMet = s.poisonMet := rfl
@[simp] theorem State.setPuu_origins (u : Nat) (v : Puu) : (s.setPuu u v).origins = s.origins := rfl
@[simp] theorem State.setPuu_forwarded (u : Nat) (v : Puu) : (s.setPuu u v).forwarded = s.forwarded := rfl
@[simp] theorem State.setPuu_comms (u : Nat) (v : Puu) : (s.setPuu u v).comms = s.comms := rfl
@[simp] theorem State.setPuu_xfers (u : Nat) (v : Puu) : (s.setPuu u v).xfers = s.xfers := rfl
@[simp] theorem State.setPuu_nextXfer (u : Nat) (v : Puu) : (s.setPuu u v).nextXfer = s.nextXfer := rfl
@[simp] theorem State.setPuu_matchGens (u : Nat) (v : Puu) : (s.setPuu u v).matchGens = s.matchGens := rfl
@[simp] theorem State.setPuu_tiles (u : Nat) (v : Puu) : (s.setPuu u v).tiles = s.tiles := rfl
@[simp] theorem State.setPuu_pendingLaunch (u : Nat) (v : Puu) : (s.setPuu u v).pendingLaunch = s.pendingLaunch := rfl
@[simp] theorem State.setPuu_running (u : Nat) (v : Puu) : (s.setPuu u v).running = s.running := rfl
@[simp] theorem State.setPuu_keys (u : Nat) (v : Puu) : (s.setPuu u v).keys = s.keys := rfl
@[simp] theorem State.setPuu_image (u : Nat) (v : Puu) : (s.setPuu u v).image = s.image := rfl
@[simp] theorem State.setPuu_unloadDue (u : Nat) (v : Puu) : (s.setPuu u v).unloadDue = s.unloadDue := rfl
@[simp] theorem State.setPuu_splQueue (u : Nat) (v : Puu) : (s.setPuu u v).splQueue = s.splQueue := rfl
@[simp] theorem State.setPuu_splRun (u : Nat) (v : Puu) : (s.setPuu u v).splRun = s.splRun := rfl
@[simp] theorem State.setPuu_splPrio (u : Nat) (v : Puu) : (s.setPuu u v).splPrio = s.splPrio := rfl
@[simp] theorem State.setPuu_msixOn (u : Nat) (v : Puu) : (s.setPuu u v).msixOn = s.msixOn := rfl
@[simp] theorem State.setPuu_rotNode (u : Nat) (v : Puu) : (s.setPuu u v).rotNode = s.rotNode := rfl
@[simp] theorem State.setPuu_rotGroup (u : Nat) (v : Puu) : (s.setPuu u v).rotGroup = s.rotGroup := rfl
@[simp] theorem State.setPuu_sync (u : Nat) (v : Puu) : (s.setPuu u v).sync = s.sync := rfl
@[simp] theorem State.setPuu_mrs (u : Nat) (v : Puu) : (s.setPuu u v).mrs = s.mrs := rfl
@[simp] theorem State.setPuu_pwr (u : Nat) (v : Puu) : (s.setPuu u v).pwr = s.pwr := rfl
@[simp] theorem State.setPuu_i3c (u : Nat) (v : Puu) : (s.setPuu u v).i3c = s.i3c := rfl
@[simp] theorem State.setPuu_mgt (u : Nat) (v : Puu) : (s.setPuu u v).mgt = s.mgt := rfl
@[simp] theorem State.setPuu_host (u : Nat) (v : Puu) : (s.setPuu u v).host = s.host := rfl
@[simp] theorem State.setPuu_sec (u : Nat) (v : Puu) : (s.setPuu u v).sec = s.sec := rfl
@[simp] theorem State.setPuu_cfg (u : Nat) (v : Puu) : (s.setPuu u v).cfg = s.cfg := rfl

/-! ### setDig -/

@[simp] theorem State.setDig_now (u : Nat) (v : Dig) : (s.setDig u v).now = s.now := rfl
@[simp] theorem State.setDig_pending (u : Nat) (v : Dig) : (s.setDig u v).pending = s.pending := rfl
@[simp] theorem State.setDig_fresh (u : Nat) (v : Dig) : (s.setDig u v).fresh = s.fresh := rfl
@[simp] theorem State.setDig_outbox (u : Nat) (v : Dig) : (s.setDig u v).outbox = s.outbox := rfl
@[simp] theorem State.setDig_regs (u : Nat) (v : Dig) : (s.setDig u v).regs = s.regs := rfl
@[simp] theorem State.setDig_staged (u : Nat) (v : Dig) : (s.setDig u v).staged = s.staged := rfl
@[simp] theorem State.setDig_held (u : Nat) (v : Dig) : (s.setDig u v).held = s.held := rfl
@[simp] theorem State.setDig_heldStage (u : Nat) (v : Dig) : (s.setDig u v).heldStage = s.heldStage := rfl
@[simp] theorem State.setDig_hw (u : Nat) (v : Dig) : (s.setDig u v).hw = s.hw := rfl
@[simp] theorem State.setDig_mem (u : Nat) (v : Dig) : (s.setDig u v).mem = s.mem := rfl
@[simp] theorem State.setDig_hostMem (u : Nat) (v : Dig) : (s.setDig u v).hostMem = s.hostMem := rfl
@[simp] theorem State.setDig_bootMem (u : Nat) (v : Dig) : (s.setDig u v).bootMem = s.bootMem := rfl
@[simp] theorem State.setDig_poisoned (u : Nat) (v : Dig) : (s.setDig u v).poisoned = s.poisoned := rfl
@[simp] theorem State.setDig_rowErrors (u : Nat) (v : Dig) : (s.setDig u v).rowErrors = s.rowErrors := rfl
@[simp] theorem State.setDig_sparing (u : Nat) (v : Dig) : (s.setDig u v).sparing = s.sparing := rfl
@[simp] theorem State.setDig_spared (u : Nat) (v : Dig) : (s.setDig u v).spared = s.spared := rfl
@[simp] theorem State.setDig_blocks (u : Nat) (v : Dig) : (s.setDig u v).blocks = s.blocks := rfl
@[simp] theorem State.setDig_ueDue (u : Nat) (v : Dig) : (s.setDig u v).ueDue = s.ueDue := rfl
@[simp] theorem State.setDig_harts (u : Nat) (v : Dig) : (s.setDig u v).harts = s.harts := rfl
@[simp] theorem State.setDig_cores (u : Nat) (v : Dig) : (s.setDig u v).cores = s.cores := rfl
@[simp] theorem State.setDig_regions (u : Nat) (v : Dig) : (s.setDig u v).regions = s.regions := rfl
@[simp] theorem State.setDig_changes (u : Nat) (v : Dig) : (s.setDig u v).changes = s.changes := rfl
@[simp] theorem State.setDig_clearing (u : Nat) (v : Dig) : (s.setDig u v).clearing = s.clearing := rfl
@[simp] theorem State.setDig_protectedGranules (u : Nat) (v : Dig) : (s.setDig u v).protectedGranules = s.protectedGranules := rfl
@[simp] theorem State.setDig_heldWrites (u : Nat) (v : Dig) : (s.setDig u v).heldWrites = s.heldWrites := rfl
@[simp] theorem State.setDig_resetting (u : Nat) (v : Dig) : (s.setDig u v).resetting = s.resetting := rfl
@[simp] theorem State.setDig_engines (u : Nat) (v : Dig) : (s.setDig u v).engines = s.engines := rfl
@[simp] theorem State.setDig_dsus (u : Nat) (v : Dig) : (s.setDig u v).dsus = s.dsus := rfl
@[simp] theorem State.setDig_puus (u : Nat) (v : Dig) : (s.setDig u v).puus = s.puus := rfl
@[simp] theorem State.setDig_digBytes (u : Nat) (v : Dig) : (s.setDig u v).digBytes = s.digBytes := rfl
@[simp] theorem State.setDig_ports (u : Nat) (v : Dig) : (s.setDig u v).ports = s.ports := rfl
@[simp] theorem State.setDig_traffic (u : Nat) (v : Dig) : (s.setDig u v).traffic = s.traffic := rfl
@[simp] theorem State.setDig_zeroing (u : Nat) (v : Dig) : (s.setDig u v).zeroing = s.zeroing := rfl
@[simp] theorem State.setDig_fencedStacks (u : Nat) (v : Dig) : (s.setDig u v).fencedStacks = s.fencedStacks := rfl
@[simp] theorem State.setDig_fencedCols (u : Nat) (v : Dig) : (s.setDig u v).fencedCols = s.fencedCols := rfl
@[simp] theorem State.setDig_fencedSplit (u : Nat) (v : Dig) : (s.setDig u v).fencedSplit = s.fencedSplit := rfl
@[simp] theorem State.setDig_log (u : Nat) (v : Dig) : (s.setDig u v).log = s.log := rfl
@[simp] theorem State.setDig_forward (u : Nat) (v : Dig) : (s.setDig u v).forward = s.forward := rfl
@[simp] theorem State.setDig_poisonMet (u : Nat) (v : Dig) : (s.setDig u v).poisonMet = s.poisonMet := rfl
@[simp] theorem State.setDig_origins (u : Nat) (v : Dig) : (s.setDig u v).origins = s.origins := rfl
@[simp] theorem State.setDig_forwarded (u : Nat) (v : Dig) : (s.setDig u v).forwarded = s.forwarded := rfl
@[simp] theorem State.setDig_comms (u : Nat) (v : Dig) : (s.setDig u v).comms = s.comms := rfl
@[simp] theorem State.setDig_xfers (u : Nat) (v : Dig) : (s.setDig u v).xfers = s.xfers := rfl
@[simp] theorem State.setDig_nextXfer (u : Nat) (v : Dig) : (s.setDig u v).nextXfer = s.nextXfer := rfl
@[simp] theorem State.setDig_matchGens (u : Nat) (v : Dig) : (s.setDig u v).matchGens = s.matchGens := rfl
@[simp] theorem State.setDig_tiles (u : Nat) (v : Dig) : (s.setDig u v).tiles = s.tiles := rfl
@[simp] theorem State.setDig_pendingLaunch (u : Nat) (v : Dig) : (s.setDig u v).pendingLaunch = s.pendingLaunch := rfl
@[simp] theorem State.setDig_running (u : Nat) (v : Dig) : (s.setDig u v).running = s.running := rfl
@[simp] theorem State.setDig_keys (u : Nat) (v : Dig) : (s.setDig u v).keys = s.keys := rfl
@[simp] theorem State.setDig_image (u : Nat) (v : Dig) : (s.setDig u v).image = s.image := rfl
@[simp] theorem State.setDig_unloadDue (u : Nat) (v : Dig) : (s.setDig u v).unloadDue = s.unloadDue := rfl
@[simp] theorem State.setDig_splQueue (u : Nat) (v : Dig) : (s.setDig u v).splQueue = s.splQueue := rfl
@[simp] theorem State.setDig_splRun (u : Nat) (v : Dig) : (s.setDig u v).splRun = s.splRun := rfl
@[simp] theorem State.setDig_splPrio (u : Nat) (v : Dig) : (s.setDig u v).splPrio = s.splPrio := rfl
@[simp] theorem State.setDig_msixOn (u : Nat) (v : Dig) : (s.setDig u v).msixOn = s.msixOn := rfl
@[simp] theorem State.setDig_rotNode (u : Nat) (v : Dig) : (s.setDig u v).rotNode = s.rotNode := rfl
@[simp] theorem State.setDig_rotGroup (u : Nat) (v : Dig) : (s.setDig u v).rotGroup = s.rotGroup := rfl
@[simp] theorem State.setDig_sync (u : Nat) (v : Dig) : (s.setDig u v).sync = s.sync := rfl
@[simp] theorem State.setDig_mrs (u : Nat) (v : Dig) : (s.setDig u v).mrs = s.mrs := rfl
@[simp] theorem State.setDig_pwr (u : Nat) (v : Dig) : (s.setDig u v).pwr = s.pwr := rfl
@[simp] theorem State.setDig_i3c (u : Nat) (v : Dig) : (s.setDig u v).i3c = s.i3c := rfl
@[simp] theorem State.setDig_mgt (u : Nat) (v : Dig) : (s.setDig u v).mgt = s.mgt := rfl
@[simp] theorem State.setDig_host (u : Nat) (v : Dig) : (s.setDig u v).host = s.host := rfl
@[simp] theorem State.setDig_sec (u : Nat) (v : Dig) : (s.setDig u v).sec = s.sec := rfl
@[simp] theorem State.setDig_cfg (u : Nat) (v : Dig) : (s.setDig u v).cfg = s.cfg := rfl

/-! ### setPort -/

@[simp] theorem State.setPort_now (p : Nat) (v : Port) : (s.setPort p v).now = s.now := rfl
@[simp] theorem State.setPort_pending (p : Nat) (v : Port) : (s.setPort p v).pending = s.pending := rfl
@[simp] theorem State.setPort_fresh (p : Nat) (v : Port) : (s.setPort p v).fresh = s.fresh := rfl
@[simp] theorem State.setPort_outbox (p : Nat) (v : Port) : (s.setPort p v).outbox = s.outbox := rfl
@[simp] theorem State.setPort_regs (p : Nat) (v : Port) : (s.setPort p v).regs = s.regs := rfl
@[simp] theorem State.setPort_staged (p : Nat) (v : Port) : (s.setPort p v).staged = s.staged := rfl
@[simp] theorem State.setPort_held (p : Nat) (v : Port) : (s.setPort p v).held = s.held := rfl
@[simp] theorem State.setPort_heldStage (p : Nat) (v : Port) : (s.setPort p v).heldStage = s.heldStage := rfl
@[simp] theorem State.setPort_hw (p : Nat) (v : Port) : (s.setPort p v).hw = s.hw := rfl
@[simp] theorem State.setPort_mem (p : Nat) (v : Port) : (s.setPort p v).mem = s.mem := rfl
@[simp] theorem State.setPort_hostMem (p : Nat) (v : Port) : (s.setPort p v).hostMem = s.hostMem := rfl
@[simp] theorem State.setPort_bootMem (p : Nat) (v : Port) : (s.setPort p v).bootMem = s.bootMem := rfl
@[simp] theorem State.setPort_poisoned (p : Nat) (v : Port) : (s.setPort p v).poisoned = s.poisoned := rfl
@[simp] theorem State.setPort_rowErrors (p : Nat) (v : Port) : (s.setPort p v).rowErrors = s.rowErrors := rfl
@[simp] theorem State.setPort_sparing (p : Nat) (v : Port) : (s.setPort p v).sparing = s.sparing := rfl
@[simp] theorem State.setPort_spared (p : Nat) (v : Port) : (s.setPort p v).spared = s.spared := rfl
@[simp] theorem State.setPort_blocks (p : Nat) (v : Port) : (s.setPort p v).blocks = s.blocks := rfl
@[simp] theorem State.setPort_ueDue (p : Nat) (v : Port) : (s.setPort p v).ueDue = s.ueDue := rfl
@[simp] theorem State.setPort_harts (p : Nat) (v : Port) : (s.setPort p v).harts = s.harts := rfl
@[simp] theorem State.setPort_cores (p : Nat) (v : Port) : (s.setPort p v).cores = s.cores := rfl
@[simp] theorem State.setPort_regions (p : Nat) (v : Port) : (s.setPort p v).regions = s.regions := rfl
@[simp] theorem State.setPort_changes (p : Nat) (v : Port) : (s.setPort p v).changes = s.changes := rfl
@[simp] theorem State.setPort_clearing (p : Nat) (v : Port) : (s.setPort p v).clearing = s.clearing := rfl
@[simp] theorem State.setPort_protectedGranules (p : Nat) (v : Port) : (s.setPort p v).protectedGranules = s.protectedGranules := rfl
@[simp] theorem State.setPort_heldWrites (p : Nat) (v : Port) : (s.setPort p v).heldWrites = s.heldWrites := rfl
@[simp] theorem State.setPort_resetting (p : Nat) (v : Port) : (s.setPort p v).resetting = s.resetting := rfl
@[simp] theorem State.setPort_engines (p : Nat) (v : Port) : (s.setPort p v).engines = s.engines := rfl
@[simp] theorem State.setPort_dsus (p : Nat) (v : Port) : (s.setPort p v).dsus = s.dsus := rfl
@[simp] theorem State.setPort_puus (p : Nat) (v : Port) : (s.setPort p v).puus = s.puus := rfl
@[simp] theorem State.setPort_digs (p : Nat) (v : Port) : (s.setPort p v).digs = s.digs := rfl
@[simp] theorem State.setPort_digBytes (p : Nat) (v : Port) : (s.setPort p v).digBytes = s.digBytes := rfl
@[simp] theorem State.setPort_traffic (p : Nat) (v : Port) : (s.setPort p v).traffic = s.traffic := rfl
@[simp] theorem State.setPort_zeroing (p : Nat) (v : Port) : (s.setPort p v).zeroing = s.zeroing := rfl
@[simp] theorem State.setPort_fencedStacks (p : Nat) (v : Port) : (s.setPort p v).fencedStacks = s.fencedStacks := rfl
@[simp] theorem State.setPort_fencedCols (p : Nat) (v : Port) : (s.setPort p v).fencedCols = s.fencedCols := rfl
@[simp] theorem State.setPort_fencedSplit (p : Nat) (v : Port) : (s.setPort p v).fencedSplit = s.fencedSplit := rfl
@[simp] theorem State.setPort_log (p : Nat) (v : Port) : (s.setPort p v).log = s.log := rfl
@[simp] theorem State.setPort_forward (p : Nat) (v : Port) : (s.setPort p v).forward = s.forward := rfl
@[simp] theorem State.setPort_poisonMet (p : Nat) (v : Port) : (s.setPort p v).poisonMet = s.poisonMet := rfl
@[simp] theorem State.setPort_origins (p : Nat) (v : Port) : (s.setPort p v).origins = s.origins := rfl
@[simp] theorem State.setPort_forwarded (p : Nat) (v : Port) : (s.setPort p v).forwarded = s.forwarded := rfl
@[simp] theorem State.setPort_comms (p : Nat) (v : Port) : (s.setPort p v).comms = s.comms := rfl
@[simp] theorem State.setPort_xfers (p : Nat) (v : Port) : (s.setPort p v).xfers = s.xfers := rfl
@[simp] theorem State.setPort_nextXfer (p : Nat) (v : Port) : (s.setPort p v).nextXfer = s.nextXfer := rfl
@[simp] theorem State.setPort_matchGens (p : Nat) (v : Port) : (s.setPort p v).matchGens = s.matchGens := rfl
@[simp] theorem State.setPort_tiles (p : Nat) (v : Port) : (s.setPort p v).tiles = s.tiles := rfl
@[simp] theorem State.setPort_pendingLaunch (p : Nat) (v : Port) : (s.setPort p v).pendingLaunch = s.pendingLaunch := rfl
@[simp] theorem State.setPort_running (p : Nat) (v : Port) : (s.setPort p v).running = s.running := rfl
@[simp] theorem State.setPort_keys (p : Nat) (v : Port) : (s.setPort p v).keys = s.keys := rfl
@[simp] theorem State.setPort_image (p : Nat) (v : Port) : (s.setPort p v).image = s.image := rfl
@[simp] theorem State.setPort_unloadDue (p : Nat) (v : Port) : (s.setPort p v).unloadDue = s.unloadDue := rfl
@[simp] theorem State.setPort_splQueue (p : Nat) (v : Port) : (s.setPort p v).splQueue = s.splQueue := rfl
@[simp] theorem State.setPort_splRun (p : Nat) (v : Port) : (s.setPort p v).splRun = s.splRun := rfl
@[simp] theorem State.setPort_splPrio (p : Nat) (v : Port) : (s.setPort p v).splPrio = s.splPrio := rfl
@[simp] theorem State.setPort_msixOn (p : Nat) (v : Port) : (s.setPort p v).msixOn = s.msixOn := rfl
@[simp] theorem State.setPort_rotNode (p : Nat) (v : Port) : (s.setPort p v).rotNode = s.rotNode := rfl
@[simp] theorem State.setPort_rotGroup (p : Nat) (v : Port) : (s.setPort p v).rotGroup = s.rotGroup := rfl
@[simp] theorem State.setPort_sync (p : Nat) (v : Port) : (s.setPort p v).sync = s.sync := rfl
@[simp] theorem State.setPort_mrs (p : Nat) (v : Port) : (s.setPort p v).mrs = s.mrs := rfl
@[simp] theorem State.setPort_pwr (p : Nat) (v : Port) : (s.setPort p v).pwr = s.pwr := rfl
@[simp] theorem State.setPort_i3c (p : Nat) (v : Port) : (s.setPort p v).i3c = s.i3c := rfl
@[simp] theorem State.setPort_mgt (p : Nat) (v : Port) : (s.setPort p v).mgt = s.mgt := rfl
@[simp] theorem State.setPort_host (p : Nat) (v : Port) : (s.setPort p v).host = s.host := rfl
@[simp] theorem State.setPort_sec (p : Nat) (v : Port) : (s.setPort p v).sec = s.sec := rfl
@[simp] theorem State.setPort_cfg (p : Nat) (v : Port) : (s.setPort p v).cfg = s.cfg := rfl

end Sys2Proof.Machine
end

