-- ==== Sys2Proof/Laws/Ops.lean ====
section
/-! SUPPORT. What the shared operations do: the end of a meaning, registers and their fields, contexts. -/

namespace Sys2Proof.Machine

variable {s : State}

/-! ### The end of a meaning -/

/-- A state with no write to report is settled as it stands. -/
theorem State.settle_of (h : s.ueDue = []) : s.settle = s := by
  have h1 : settleN 1048576 s = s := by simp only [settleN, h]
  rw [State.settle, h1]
  cases s
  simp_all

/-- A meaning that leaves nothing to report answers its state. -/
theorem done_of (h : s.ueDue = []) : done s = .next s := by rw [done, State.settle_of h]

/-- A settled state has nothing to report. -/
@[simp] theorem State.settle_ueDue : s.settle.ueDue = [] := rfl

/-- What a meaning answers. -/
theorem done_eq_next {t : State} : done s = .next t ↔ s.settle = t := by simp [done]

/-! ### Registers -/

/-- Two registers share a key only when they are one. -/
theorem keyOf_inj {a b u v : Nat} (ha : a < 0x4000000) (hb : b < 0x4000000) (h : keyOf a u = keyOf b v) :
    a = b ∧ u = v := by
  simp only [keyOf] at h
  omega

/-- A register written reads back. -/
theorem State.reg_setReg_same (off u : Nat) (w : Word64) (h : mapWf regReset s.regs = true) :
    (s.setReg off u w).reg off u = w := mapGet_mapSet_same h

/-- Other registers keep their words. -/
theorem State.reg_setReg_other {off u off' u' : Nat} (w : Word64) (h : mapWf regReset s.regs = true)
    (hk : keyOf off' u' ≠ keyOf off u) : (s.setReg off u w).reg off' u' = s.reg off' u' :=
  mapGet_mapSet_other h hk

/-- Registers stay canonical. -/
theorem State.setReg_wf (off u : Nat) (w : Word64) (h : mapWf regReset s.regs = true) :
    mapWf regReset (s.setReg off u w).regs = true := mapWf_mapSet h

theorem State.setFld_wf (f : Fld) (v u : Nat) (h : mapWf regReset s.regs = true) :
    mapWf regReset (s.setFld f v u).regs = true := mapWf_mapSet h

theorem State.count_wf (f : Fld) (u n : Nat) (h : mapWf regReset s.regs = true) :
    mapWf regReset (s.count f u n).regs = true := mapWf_mapSet h

theorem State.hwSet_wf (f : Fld) (v u : Nat) (h : mapWf regReset s.regs = true) :
    mapWf regReset (s.hwSet f v u).regs = true := mapWf_mapSet h

/-- A field set reads back, cut to its width. -/
theorem State.fld_setFld_same (f : Fld) (v u : Nat) (h : mapWf regReset s.regs = true) (hf : f.hi < 64) :
    (s.setFld f v u).fld f u = v % 2 ^ (f.hi + 1 - f.lo) := by
  rw [State.fld, State.setFld, State.reg_setReg_same _ _ _ h, wordGet_wordPut_same _ _ _ _ hf]

/-- Fields of other registers keep their values. -/
theorem State.fld_setFld_other {f g : Fld} (v : Nat) {u u' : Nat} (h : mapWf regReset s.regs = true)
    (hk : keyOf g.off u' ≠ keyOf f.off u) : (s.setFld f v u).fld g u' = s.fld g u' := by
  rw [State.fld, State.setFld, State.reg_setReg_other _ h hk, State.fld]

/-- Fields of the same register apart from it keep their values. -/
theorem State.fld_setFld_apart {f g : Fld} (v u : Nat) (h : mapWf regReset s.regs = true) (ho : g.off = f.off)
    (hg : g.hi < 64) (apart : g.hi < f.lo ∨ f.hi < g.lo) : (s.setFld f v u).fld g u = s.fld g u := by
  rw [State.fld, State.setFld, ho, State.reg_setReg_same _ _ _ h, wordGet_wordPut_other _ _ _ _ _ _ hg apart, State.fld, ho]

/-- A counter moves on, saturating (R12). -/
theorem State.fld_count_same (f : Fld) (u n : Nat) (h : mapWf regReset s.regs = true) (hf : f.hi < 64) :
    (s.count f u n).fld f u = Nat.min (2 ^ (f.hi + 1 - f.lo) - 1) (s.fld f u + n) := by
  have h1 := State.fld_setFld_same f (Nat.min (2 ^ (f.hi + 1 - f.lo) - 1) (s.fld f u + n)) u h hf
  have h2 : (s.count f u n).fld f u =
      (s.setFld f (Nat.min (2 ^ (f.hi + 1 - f.lo) - 1) (s.fld f u + n)) u).fld f u := rfl
  rw [h2, h1]
  apply Nat.mod_eq_of_lt
  have : 0 < 2 ^ (f.hi + 1 - f.lo) := Nat.two_pow_pos _
  exact Nat.lt_of_le_of_lt (Nat.min_le_left _ _) (by omega)

/-- Fields of other registers are not counted. -/
theorem State.fld_count_other {f g : Fld} (n : Nat) {u u' : Nat} (h : mapWf regReset s.regs = true)
    (hk : keyOf g.off u' ≠ keyOf f.off u) : (s.count f u n).fld g u' = s.fld g u' :=
  State.fld_setFld_other _ h hk

/-- Other registers keep their words when a counter moves. -/
theorem State.reg_count_other {f : Fld} (n : Nat) {u off' u' : Nat} (h : mapWf regReset s.regs = true)
    (hk : keyOf off' u' ≠ keyOf f.off u) : (s.count f u n).reg off' u' = s.reg off' u' :=
  mapGet_mapSet_other h hk

/-- A field that hardware sets reads back. -/
theorem State.fld_hwSet_same (f : Fld) (v u : Nat) (h : mapWf regReset s.regs = true) (hf : f.hi < 64) :
    (s.hwSet f v u).fld f u = v % 2 ^ (f.hi + 1 - f.lo) := State.fld_setFld_same f v u h hf

/-! ### Contexts -/

/-- A context written reads back. -/
theorem State.ctx_setCtx_same (k : Nat) (c : Ctx) (h : mapWf ctxDefault s.harts = true) : (s.setCtx k c).ctx k = c :=
  mapGet_mapSet_same h

/-- Other contexts stay. -/
theorem State.ctx_setCtx_other {k j : Nat} (c : Ctx) (h : mapWf ctxDefault s.harts = true) (hj : j ≠ k) :
    (s.setCtx k c).ctx j = s.ctx j := mapGet_mapSet_other h hj

theorem State.setCtx_wf (k : Nat) (c : Ctx) (h : mapWf ctxDefault s.harts = true) :
    mapWf ctxDefault (s.setCtx k c).harts = true := mapWf_mapSet h

/-- x0 reads zero whatever is written to it. -/
@[simp] theorem Ctx.xr_zero (c : Ctx) : c.xr 0 = 0 := rfl

/-- A write of x0 changes nothing. -/
@[simp] theorem Ctx.setX_zero (c : Ctx) (v : Word64) : c.setX 0 v = c := rfl

/-- A register other than x0 reads back what was written. -/
theorem Ctx.xr_setX_same (c : Ctx) {r : Rg} (v : Word64) (hr : r ≠ 0) (h : mapWf zero64 c.x = true) :
    (c.setX r v).xr r = v := by
  simp only [Ctx.setX, Ctx.xr, hr, if_false]
  exact mapGet_mapSet_same h

/-- Other registers keep their values. -/
theorem Ctx.xr_setX_other (c : Ctx) {r q : Rg} (v : Word64) (hq : q ≠ r) (h : mapWf zero64 c.x = true) :
    (c.setX r v).xr q = c.xr q := by
  by_cases hr : r = 0
  · subst hr; rfl
  · by_cases hq0 : q = 0
    · subst hq0; exact (Ctx.xr_zero _).trans (Ctx.xr_zero _).symm
    · simp only [Ctx.setX, Ctx.xr, hr, hq0, if_false]
      exact mapGet_mapSet_other h (fun he => hq (BitVec.eq_of_toNat_eq he))

end Sys2Proof.Machine
end

