-- ==== Sys2Proof/Safety.lean ====
section
/-! DEFINITION. What counts as a safe state of the block, and the conditions claims are stated under. -/

namespace Sys2Proof.Machine

/-- Every memory is in its canonical form. -/
def State.memCanonical (s : State) : Bool := Memory.wf s.mem && Memory.wf s.hostMem && Memory.wf s.bootMem

/-- The sparse maps of registers and thread states are in their canonical form. -/
def State.mapsCanonical (s : State) : Bool :=
  mapWf regReset s.regs && mapWf regReset s.staged && mapWf ctxDefault s.harts

/-- Nothing of an earlier command is left to report. -/
abbrev State.quiet (s : State) : Prop := s.ueDue = []

/-- The context k issues an instruction of len bytes in this state (R61 to R64): it is selectable on a running clock, its fetch meets
no exception, no memory it waits for and no marked line (R81, R301, R316), and its cluster is not fenced (R300). -/
abbrev State.issues (s : State) (k len : Nat) : Prop :=
  s.canIssue k = true ∧ (s.ctx k).pc.toNat % 2 = 0 ∧ s.fetchable k (s.ctx k).pc.toNat len = true
    ∧ s.memWaits (offOf (s.ctx k).pc.toNat) 4 = false ∧ s.poisonIn (offOf (s.ctx k).pc.toNat) len = none
    ∧ (s.packageFenced && !isPx k) = false

/-- Memory, host memory and every context but k hold in t what they hold in s once k has issued: k's issue ends no more than what
others waited for it by XYIELD. -/
abbrev State.keeps (s t : State) (k : Nat) : Prop :=
  t.mem = s.mem ∧ t.hostMem = s.hostMem ∧ ∀ j, j ≠ k → t.ctx j = (s.issued k).ctx j

/-- In t the instruction of len bytes that context k issued in s has retired: f has changed the context, which is READY past it. -/
abbrev State.retires (s t : State) (k len : Nat) (f : Ctx → Ctx) : Prop :=
  t.ctx k = ((f (s.ctx k)).next len).ready ∧ s.keeps t k

/-- In t the context k has one more remote operation outstanding than it had in s (R77, R205): its entry, what it is, whether it
was posted, when its stopwatch ends. -/
def State.opBegun (s t : State) (k entry : Nat) (kind : RopKind) (posted : Bool) (deadline : Nat) : Prop :=
  ∃ r ∈ (t.ctx k).rops, r.num = (s.ctx k).nextOp ∧ r.entry = entry ∧ r.kind = kind ∧ r.posted = posted ∧ r.deadline = deadline

/-- The greatest value of a field, at which a counter stays. -/
def Fld.top (f : Fld) : Nat := 2 ^ (f.hi + 1 - f.lo) - 1

/-- The register answers accesses (R316, R348): the package is not dark and no reset or missing boot closes its block. -/
abbrev State.opens (s : State) (off : Nat) : Prop := s.dark = false ∧ s.regClosed off = false

/-- No line is marked, no granule protected, no stack fenced, no domain in reset, no block of a channel kept for a re-send, no row
being copied: memory can be read and written at once. -/
abbrev State.clean (s : State) : Prop :=
  s.poisoned = [] ∧ s.fencedStacks = [] ∧ s.protectedGranules = [] ∧ s.resetting = none ∧ s.blocks = [] ∧ s.sparing = []

/-- t has counted one more in a saturating counter of s (R12). -/
def State.counted (s t : State) (f : Fld) (unit : Nat := 0) : Prop := t.fld f unit = Nat.min f.top (s.fld f unit + 1)

/-- t has logged one more error than s, the record of i without a poison, under this tick (R303, R304). -/
def State.logged (s t : State) (i : ErrInfo) : Prop :=
  t.fld F.ERR_LOG_HEAD.NEXT = (s.fld F.ERR_LOG_HEAD.NEXT + 1) % 2 ^ 32 ∧ s.counted t F.ERR_STATS.RECORDS
    ∧ ∃ n, t.slot n = some (s.recordWords i false)

/-- What t has put out over s holds these flits, all at port p, with the FTYPE ft (Table 09-3), in this number. -/
def State.sends (s t : State) (p ft n : Nat) : Prop :=
  ∃ os : List Out, t.outbox = s.outbox ++ os ∧ (os.all fun o => match o with
      | .flit q f => q == p && bitsOf (fieldAt f 0 8) 39 37 == ft
      | .lanes q _ => q == p
      | _ => false) = true
    ∧ (os.countP fun o => match o with
      | .flit _ _ => true
      | _ => false) = n

/-- The packet arrived on an UP port and is for this package under an ACTIVE LOCAL tag of the port, with no receive buffer to
free: it is delivered and nothing else is to note (R226, R235). -/
abbrev State.delivers (s : State) (port : BitVec 5) (pk : Packet) : Prop := s.accept port.toNat pk = (true, s)

end Sys2Proof.Machine
end

