-- ==== Sys2Proof/Laws/Memory.lean ====
section
/-! SUPPORT. Memory keeps its canonical form under every operation that writes it, and a write changes exactly the bytes it
names. -/

namespace Sys2Proof.Machine

/-- Bytes stored keep the canonical form. -/
theorem memPut_wf {m : Memory} (a : Nat) (bs : List Byte) (h : m.wf = true) : (memPut m a bs).wf = true := by
  induction bs generalizing m a with
  | nil => exact h
  | cons b bs ih => exact ih (a + 1) (mapWf_mapSet h)

/-- Erasing an extent keeps the canonical form. -/
theorem memErase_wf {m : Memory} (a n : Nat) (h : m.wf = true) : Memory.wf (mapErase a n m) = true := mapWf_filter h

/-- A byte outside the stored extent is unchanged. -/
theorem memPut_outside {m : Memory} {a x : Nat} {bs : List Byte} (h : m.wf = true) (hx : x < a ∨ a + bs.length ≤ x) :
    mapGet memDefault x (memPut m a bs) = mapGet memDefault x m := by
  induction bs generalizing m a with
  | nil => rfl
  | cons b bs ih =>
    simp only [List.length_cons] at hx
    rw [memPut, ih (mapWf_mapSet h) (by omega), mapGet_mapSet_other h (by omega)]

/-- Byte i of the stored extent reads back. -/
theorem memPut_inside {m : Memory} {a i : Nat} {bs : List Byte} (h : m.wf = true) (hi : i < bs.length) :
    mapGet memDefault (a + i) (memPut m a bs) = bs[i] := by
  induction bs generalizing m a i with
  | nil => simp at hi
  | cons b bs ih =>
    cases i with
    | zero => rw [memPut, memPut_outside (mapWf_mapSet h) (by omega)]; exact mapGet_mapSet_same h
    | succ i =>
      have := ih (m := mapSet memDefault a b m) (a := a + 1) (mapWf_mapSet h) (by simpa using hi)
      rw [memPut, show a + (i + 1) = a + 1 + i by omega, this]
      rfl

variable {s : State}

/-- Bytes noted towards a utilisation touch the traffic record alone. -/
theorem State.moved_cases (m : Mover) (n : Nat) : ∃ t, s.moved m n = { s with traffic := t } := by
  unfold State.moved; split
  · exact ⟨s.traffic, rfl⟩
  · exact ⟨_, rfl⟩

@[simp] theorem State.moved_mem (m : Mover) (n : Nat) : (s.moved m n).mem = s.mem := by
  obtain ⟨t, h⟩ := s.moved_cases m n; rw [h]
@[simp] theorem State.moved_hostMem (m : Mover) (n : Nat) : (s.moved m n).hostMem = s.hostMem := by
  obtain ⟨t, h⟩ := s.moved_cases m n; rw [h]
@[simp] theorem State.moved_bootMem (m : Mover) (n : Nat) : (s.moved m n).bootMem = s.bootMem := by
  obtain ⟨t, h⟩ := s.moved_cases m n; rw [h]
@[simp] theorem State.moved_regs (m : Mover) (n : Nat) : (s.moved m n).regs = s.regs := by
  obtain ⟨t, h⟩ := s.moved_cases m n; rw [h]

/-- Line counters leave all memory alone. -/
@[simp] theorem State.countUnit_mem (a n : Nat) (w : Bool) : (s.countUnit a n w).mem = s.mem := by
  unfold State.countUnit; split <;> simp
@[simp] theorem State.countUnit_hostMem (a n : Nat) (w : Bool) : (s.countUnit a n w).hostMem = s.hostMem := by
  unfold State.countUnit; split <;> simp
@[simp] theorem State.countUnit_bootMem (a n : Nat) (w : Bool) : (s.countUnit a n w).bootMem = s.bootMem := by
  unfold State.countUnit; split <;> simp

/-- What holds of the state before and is kept by one unit's count holds after the counts of an extent. -/
theorem State.countLines_keeps {P : State → Prop} (a n : Nat) (w : Bool)
    (hk : ∀ (t : State) (x m : Nat), P t → P (t.countUnit x m w)) (h : P s) : P (s.countLines a n w) := by
  unfold State.countLines
  suffices ∀ (fuel : Nat) (t : State) (x : Nat), P t → P (State.countLines.go a n w fuel t x) from this 17 s a h
  intro fuel
  induction fuel with
  | zero => intro t x ht; exact ht
  | succ f ih =>
    intro t x ht
    unfold State.countLines.go
    split
    · exact ht
    · exact ih _ _ (hk _ _ _ ht)

@[simp] theorem State.countLines_mem (a n : Nat) (w : Bool) : (s.countLines a n w).mem = s.mem :=
  State.countLines_keeps (P := fun t => t.mem = s.mem) a n w (fun t x m h => by simpa using h) rfl
@[simp] theorem State.countLines_hostMem (a n : Nat) (w : Bool) : (s.countLines a n w).hostMem = s.hostMem :=
  State.countLines_keeps (P := fun t => t.hostMem = s.hostMem) a n w (fun t x m h => by simpa using h) rfl
@[simp] theorem State.countLines_bootMem (a n : Nat) (w : Bool) : (s.countLines a n w).bootMem = s.bootMem :=
  State.countLines_keeps (P := fun t => t.bootMem = s.bootMem) a n w (fun t x m h => by simpa using h) rfl

/-- A home write counted leaves all memory alone. -/
@[simp] theorem State.countHome_mem (a n : Nat) : (s.countHome a n).mem = s.mem := by
  unfold State.countHome; split <;> simp
@[simp] theorem State.countHome_hostMem (a n : Nat) : (s.countHome a n).hostMem = s.hostMem := by
  unfold State.countHome; split <;> simp
@[simp] theorem State.countHome_bootMem (a n : Nat) : (s.countHome a n).bootMem = s.bootMem := by
  unfold State.countHome; split <;> simp

/-- Looking at the contexts after a write leaves all memory alone. -/
@[simp] theorem State.afterWrite_mem (a n : Nat) (w : Option Nat) : (s.afterWrite a n w).mem = s.mem := by
  unfold State.afterWrite; split <;> rfl
@[simp] theorem State.afterWrite_hostMem (a n : Nat) (w : Option Nat) : (s.afterWrite a n w).hostMem = s.hostMem := by
  unfold State.afterWrite; split <;> rfl
@[simp] theorem State.afterWrite_bootMem (a n : Nat) (w : Option Nat) : (s.afterWrite a n w).bootMem = s.bootMem := by
  unfold State.afterWrite; split <;> rfl

/-- What a written extent is in: host memory behind the host window, the package's own memory elsewhere. -/
theorem State.writeBytes_mem (a : Nat) (bs : List Byte) (w : Option Nat) :
    (s.writeBytes a bs w).mem = (match place a with
      | .hwin _ => s.mem
      | _ => memPut s.mem a bs) := by
  unfold State.writeBytes
  split <;> simp [*]

theorem State.writeBytes_hostMem (a : Nat) (bs : List Byte) (w : Option Nat) :
    (s.writeBytes a bs w).hostMem = (match place a with
      | .hwin o => memPut s.hostMem (s.hwinPhys o) bs
      | _ => s.hostMem) := by
  unfold State.writeBytes
  split <;> simp [*]

theorem State.writeBytes_bootMem (a : Nat) (bs : List Byte) (w : Option Nat) :
    (s.writeBytes a bs w).bootMem = s.bootMem := by
  unfold State.writeBytes
  split <;> simp

/-- A write keeps every memory canonical. -/
theorem State.writeBytes_canonical (a : Nat) (bs : List Byte) (w : Option Nat) (h : s.memCanonical = true) :
    (s.writeBytes a bs w).memCanonical = true := by
  simp only [State.memCanonical, Bool.and_eq_true] at h ⊢
  obtain ⟨⟨h1, h2⟩, h3⟩ := h
  rw [State.writeBytes_mem, State.writeBytes_hostMem, State.writeBytes_bootMem]
  refine ⟨⟨?_, ?_⟩, h3⟩
  · split
    · exact h1
    · exact memPut_wf _ _ h1
  · split
    · exact memPut_wf _ _ h2
    · exact h2

/-- A home agent's write keeps every memory canonical. -/
theorem State.homeWrite_canonical (a : Nat) (bs : List Byte) (w : Option Nat) (h : s.memCanonical = true) :
    (s.homeWrite a bs w).memCanonical = true := by
  unfold State.homeWrite
  apply State.writeBytes_canonical
  simpa [State.memCanonical] using h

/-- A copy priority request touches no memory. -/
@[simp] theorem State.requestCopy_memCanonical (g : Nat) : (s.requestCopy g).memCanonical = s.memCanonical := by
  unfold State.requestCopy; split <;> rfl

/-- An access that is held back touches no memory. -/
@[simp] theorem State.holdOp_memCanonical (g : Nat) (op : HeldOp) : (s.holdOp g op).memCanonical = s.memCanonical := by
  unfold State.holdOp
  simp only
  split <;> split <;> simp [State.memCanonical, State.requestCopy] <;> split <;> rfl

/-- A unit's plain write, performed, held or refused, keeps every memory canonical. -/
theorem State.put_canonical (a : Nat) (bs : List Byte) (core : Nat) (h : s.memCanonical = true) :
    (s.put a bs core).memCanonical = true := by
  unfold State.put
  split
  · exact h
  · split
    · simpa using h
    · split
      · exact State.homeWrite_canonical _ _ _ h
      · dsimp only
        split
        · exact h
        · exact State.homeWrite_canonical _ _ _ h

/-- Zeroed memory stays canonical. -/
theorem State.zeroMem_canonical (a n : Nat) (h : s.memCanonical = true) : (s.zeroMem a n).memCanonical = true := by
  simp only [State.memCanonical, Bool.and_eq_true] at h ⊢
  exact ⟨⟨memErase_wf _ _ h.1.1, h.1.2⟩, h.2⟩

/-- Keys of a canonical map, shifted, with every value still apart from the constant default. -/
theorem mapWf_shift {m : Memory} {lo a : Nat} (h : m.wf = true) (hlo : ∀ e ∈ m, lo ≤ e.1) :
    Memory.wf (m.map fun e => (a + (e.1 - lo), e.2)) = true := by
  induction m with
  | nil => rfl
  | cons e m ih =>
    simp only [Memory.wf, mapWf, Bool.and_eq_true, decide_eq_true_eq, List.map_cons] at h ⊢
    obtain ⟨⟨hne, hab⟩, hm⟩ := h
    refine ⟨⟨hne, ?_⟩, ih hm fun x hx => hlo x (by simp [hx])⟩
    simp only [keysAbove, List.all_eq_true, decide_eq_true_eq, List.mem_map] at hab ⊢
    rintro x ⟨y, hy, rfl⟩
    have h1 := hab y hy
    have h2 := hlo e (by simp)
    simp only
    omega

/-- Two canonical maps with all keys of the first below all of the second, joined. -/
theorem mapWf_append {m₁ m₂ : Memory} (h1 : m₁.wf = true) (h2 : m₂.wf = true)
    (h : ∀ e ∈ m₁, ∀ f ∈ m₂, e.1 < f.1) : Memory.wf (m₁ ++ m₂) = true := by
  induction m₁ with
  | nil => exact h2
  | cons e m ih =>
    simp only [Memory.wf, mapWf, Bool.and_eq_true, decide_eq_true_eq, List.cons_append] at h1 ⊢
    obtain ⟨⟨hne, hab⟩, hm⟩ := h1
    refine ⟨⟨hne, ?_⟩, ih hm fun x hx => h x (by simp [hx])⟩
    simp only [keysAbove, List.all_eq_true, decide_eq_true_eq, List.mem_append] at hab ⊢
    rintro x (hx | hx)
    · exact hab x hx
    · exact h e (by simp) x hx

/-- An extent filled from cells taken out of another extent of a canonical memory. -/
theorem memFill_wf {m src : Memory} {a b n : Nat} (hm : m.wf = true) (hs : src.wf = true) :
    (memFill m a n ((src.filter fun e => b ≤ e.1 && e.1 < b + n).map fun e => (e.1 - b, e.2))).wf = true := by
  unfold memFill
  rw [List.map_map]
  apply mapWf_append
  · apply mapWf_append (mapWf_filter hm)
    · exact mapWf_shift (lo := b) (mapWf_filter hs) (by intro e he; simp at he; exact he.2.1)
    · intro e he f hf
      simp only [List.mem_filter, decide_eq_true_eq, List.mem_map, Function.comp, Bool.and_eq_true] at he hf
      obtain ⟨x, hx, rfl⟩ := hf
      simp only
      omega
  · exact mapWf_filter hm
  · intro e he f hf
    simp only [List.mem_append, List.mem_filter, decide_eq_true_eq, List.mem_map, Function.comp, Bool.and_eq_true] at he hf
    rcases he with he | ⟨x, hx, rfl⟩
    · omega
    · simp only
      omega

/-- A copy of an extent keeps every memory canonical. -/
theorem State.copyBytes_canonical (src dst n : Nat) (h : s.memCanonical = true) :
    (s.copyBytes src dst n).memCanonical = true := by
  simp only [State.memCanonical, Bool.and_eq_true] at h
  obtain ⟨⟨h1, h2⟩, h3⟩ := h
  have key : ∀ {m : Memory} (a : Nat), m.wf = true → (memFill m a n (s.cellsOf src n)).wf = true := by
    intro m a hm
    unfold State.cellsOf
    split
    · exact memFill_wf hm h2
    · exact memFill_wf hm h1
  unfold State.copyBytes
  simp only [State.memCanonical, State.afterWrite_mem, State.afterWrite_hostMem, State.afterWrite_bootMem,
    State.countLines_mem, State.countLines_hostMem, State.countLines_bootMem, State.countHome_mem, State.countHome_hostMem,
    State.countHome_bootMem, Bool.and_eq_true]
  split <;> simp [h1, h2, h3, key]

/-! ### What a write leaves alone -/

/-- One unit's count leaves every register but the four line counters alone. -/
theorem State.countUnit_reg (a n : Nat) (w : Bool) {off : Nat} (u : Nat) (h : mapWf regReset s.regs = true)
    (ho : off < 0x4000000) (h1 : off ≠ R.MEM_WR_LINES) (h2 : off ≠ R.MEM_RD_LINES) (h3 : off ≠ R.TIER_WR_LINES)
    (h4 : off ≠ R.TIER_RD_LINES) : (s.countUnit a n w).reg off u = s.reg off u := by
  have apart : ∀ (f : Fld) (v : Nat), f.off < 0x4000000 → off ≠ f.off → keyOf off u ≠ keyOf f.off v :=
    fun f v hf hne he => hne (keyOf_inj ho hf he).1
  have e : ∀ (t : State) (m : Mover) (k : Nat), (t.moved m k).reg off u = t.reg off u := fun t m k => by
    simp only [State.reg, State.moved_regs]
  unfold State.countUnit
  split <;> cases w <;> simp only [e] <;>
    first
      | rfl
      | exact State.reg_count_other _ h (apart _ _ (by decide) (by assumption))

/-- One unit's count keeps the registers canonical. -/
theorem State.countUnit_regs_wf (a n : Nat) (w : Bool) (h : mapWf regReset s.regs = true) :
    mapWf regReset (s.countUnit a n w).regs = true := by
  unfold State.countUnit
  split <;> simp only [State.moved_regs] <;> first | exact h | exact State.count_wf _ _ _ h

/-- Line counters leave every register but the four line counters alone. -/
theorem State.countLines_reg (a n : Nat) (w : Bool) {off : Nat} (u : Nat) (h : mapWf regReset s.regs = true)
    (ho : off < 0x4000000) (h1 : off ≠ R.MEM_WR_LINES) (h2 : off ≠ R.MEM_RD_LINES) (h3 : off ≠ R.TIER_WR_LINES)
    (h4 : off ≠ R.TIER_RD_LINES) : (s.countLines a n w).reg off u = s.reg off u :=
  (State.countLines_keeps (P := fun t => mapWf regReset t.regs = true ∧ t.reg off u = s.reg off u) a n w
    (fun _ _ _ ht => ⟨State.countUnit_regs_wf _ _ _ ht.1, (State.countUnit_reg _ _ _ _ ht.1 ho h1 h2 h3 h4).trans ht.2⟩)
    ⟨h, rfl⟩).2

/-- Looking at the contexts after a write leaves the registers alone. -/
@[simp] theorem State.afterWrite_regs (a n : Nat) (w : Option Nat) : (s.afterWrite a n w).regs = s.regs := by
  unfold State.afterWrite; split <;> rfl

/-- A write leaves every register but the line counters alone. -/
theorem State.writeBytes_reg (a : Nat) (bs : List Byte) (w : Option Nat) {off : Nat} (u : Nat)
    (h : mapWf regReset s.regs = true) (ho : off < 0x4000000) (h1 : off ≠ R.MEM_WR_LINES) (h2 : off ≠ R.MEM_RD_LINES)
    (h3 : off ≠ R.TIER_WR_LINES) (h4 : off ≠ R.TIER_RD_LINES) : (s.writeBytes a bs w).reg off u = s.reg off u := by
  have e : ∀ t : State, (t.afterWrite a bs.length w).reg off u = t.reg off u := fun t => by
    simp only [State.reg, State.afterWrite_regs]
  unfold State.writeBytes
  simp only [e]
  rw [State.countLines_reg _ _ _ _ (by split <;> exact h) ho h1 h2 h3 h4]
  split <;> rfl

/-- Every byte outside the written extent keeps its value (the extent behind the host window apart: R329). -/
theorem State.byteAt_writeBytes_outside {a x : Nat} {bs : List Byte} (w : Option Nat) (h : s.memCanonical = true)
    (hr : mapWf regReset s.regs = true) (hx : x < a ∨ a + bs.length ≤ x) (hp : ∀ o, place a ≠ .hwin o) :
    (s.writeBytes a bs w).byteAt x = s.byteAt x := by
  simp only [State.memCanonical, Bool.and_eq_true] at h
  have hm : (s.writeBytes a bs w).mem = memPut s.mem a bs := by
    rw [State.writeBytes_mem]; split
    · rename_i o ho; exact absurd ho (hp o)
    · rfl
  have hh : (s.writeBytes a bs w).hostMem = s.hostMem := by
    rw [State.writeBytes_hostMem]; split
    · rename_i o ho; exact absurd ho (hp o)
    · rfl
  have hb : ∀ o, (s.writeBytes a bs w).hwinPhys o = s.hwinPhys o := fun o => by
    simp only [State.hwinPhys, State.fld, State.writeBytes_reg a bs w 0 hr (off := R.HIF_HWIN_BASE) (by decide) (by decide)
      (by decide) (by decide) (by decide)]
  unfold State.byteAt
  split
  · rw [hh, hb]
  · rw [hm, memPut_outside h.1.1 hx]

/-- Every byte of the written extent reads back. -/
theorem State.byteAt_writeBytes_inside {a i : Nat} {bs : List Byte} (w : Option Nat) (h : s.memCanonical = true)
    (hi : i < bs.length) (hp : ∀ o, place a ≠ .hwin o) (hq : ∀ o, place (a + i) ≠ .hwin o) :
    (s.writeBytes a bs w).byteAt (a + i) = bs[i] := by
  simp only [State.memCanonical, Bool.and_eq_true] at h
  have hm : (s.writeBytes a bs w).mem = memPut s.mem a bs := by
    rw [State.writeBytes_mem]; split
    · rename_i o ho; exact absurd ho (hp o)
    · rfl
  unfold State.byteAt
  split
  · rename_i o ho; exact absurd ho (hq o)
  · rw [hm, memPut_inside h.1.1 hi]

end Sys2Proof.Machine
end

