-- ==== Sys2Proof/Laws/Issue.lean ====
section
/-! SUPPORT. What issuing and retiring an instruction do, once for every instruction that does them. -/

namespace Sys2Proof.Machine

variable {s : State}

/-- A map changed entry by entry, at a key whose default does not change or which is listed. -/
theorem mapGet_map {α : Type} {d : Nat → α} (f : Nat → α → α) (k : Nat) (m : List (Nat × α))
    (hd : f k (d k) = d k ∨ mapGet d k m ≠ d k) : mapGet d k (m.map fun e => (e.1, f e.1 e.2)) = f k (mapGet d k m) := by
  induction m with
  | nil => rcases hd with h | h
           · exact h.symm
           · exact absurd rfl h
  | cons e m ih =>
    simp only [List.map_cons, mapGet] at hd ⊢
    split
    · rename_i h; subst h; rfl
    · rename_i h1
      simp only [h1, if_false] at hd
      split
      · rename_i h2
        simp only [h2, if_true] at hd
        rcases hd with h | h
        · exact h.symm
        · exact absurd rfl h
      · rename_i h2
        simp only [h2, if_false] at hd
        exact ih hd

/-- Such a change keeps the canonical form where it makes no entry a default. -/
theorem mapWf_map {α : Type} [DecidableEq α] {d : Nat → α} (f : Nat → α → α) {m : List (Nat × α)}
    (h : mapWf d m = true) (hf : ∀ e ∈ m, e.2 ≠ d e.1 → f e.1 e.2 ≠ d e.1) :
    mapWf d (m.map fun e => (e.1, f e.1 e.2)) = true := by
  induction m with
  | nil => rfl
  | cons e m ih =>
    simp only [mapWf, Bool.and_eq_true, decide_eq_true_eq, List.map_cons] at h ⊢
    obtain ⟨⟨hne, hab⟩, hm⟩ := h
    refine ⟨⟨hf e (by simp) hne, ?_⟩, ih hm fun x hx => hf x (by simp [hx])⟩
    simp only [keysAbove, List.all_eq_true, decide_eq_true_eq, List.mem_map] at hab ⊢
    rintro x ⟨y, hy, rfl⟩
    exact hab y hy

/-- An entry of a canonical map is what its key holds. -/
theorem mapGet_of_mem {α : Type} [DecidableEq α] {d : Nat → α} {m : List (Nat × α)} {e : Nat × α}
    (h : mapWf d m = true) (he : e ∈ m) : mapGet d e.1 m = e.2 := by
  induction m with
  | nil => simp at he
  | cons x m ih =>
    simp only [mapWf, Bool.and_eq_true, decide_eq_true_eq] at h
    obtain ⟨⟨_, hab⟩, hm⟩ := h
    simp only [List.mem_cons] at he
    rcases he with rfl | he
    · simp [mapGet]
    · simp only [keysAbove, List.all_eq_true, decide_eq_true_eq] at hab
      have h1 := hab e he
      have h2 : ¬ e.1 = x.1 := by omega
      have h3 : ¬ e.1 < x.1 := by omega
      simp [mapGet, h2, h3, ih hm he]

/-! ### What depends on registers and marks alone -/

/-- A field reads its register's word only. -/
theorem State.fld_congr {t : State} (h : t.regs = s.regs) (f : Fld) (u : Nat) : t.fld f u = s.fld f u := by
  simp only [State.fld, State.reg, h]
theorem State.flag_congr {t : State} (h : t.regs = s.regs) (f : Fld) (u : Nat) : t.flag f u = s.flag f u := by
  unfold State.flag; rw [State.fld_congr h]
/-- Places are told by registers alone (R163). -/
theorem State.extentIn_go_congr {t : State} (h : t.regs = s.regs) (ok : Kind → Bool) (a n f x : Nat) :
  State.extentIn.go t ok a n f x = State.extentIn.go s ok a n f x := by
  have ht : ∀ u, t.tierBytes u = s.tierBytes u := by intro u; simp only [State.tierBytes, State.flag_congr h, State.fld_congr h]
  have hw : t.hwinBytes = s.hwinBytes := by simp only [State.hwinBytes, State.fld, State.reg, h]
  have h1 : ∀ y, t.kindAt y = s.kindAt y := by intro y; unfold State.kindAt; split <;> simp only [ht, hw]
  have h2 : ∀ y, t.runEnd y = s.runEnd y := by intro y; unfold State.runEnd; split <;> simp only [ht, hw]
  induction f generalizing x with
  | zero => rfl
  | succ f ih => simp only [State.extentIn.go, h1, h2, ih]
theorem State.extentIn_congr {t : State} (h : t.regs = s.regs) (ok : Kind → Bool) (a n : Nat) :
  t.extentIn ok a n = s.extentIn ok a n := by simp only [State.extentIn, State.extentIn_go_congr h]
theorem State.isSelf_congr {t : State} (h : t.regs = s.regs) (a : Nat) : t.isSelf a = s.isSelf a := by
  simp only [State.isSelf, State.self, State.fld, State.reg, h]
theorem State.fetchable_congr {t : State} (h : t.regs = s.regs) (k a n : Nat) :
  t.fetchable k a n = s.fetchable k a n := by simp only [State.fetchable, State.isSelf_congr h, State.extentIn_congr h]
/-- Marked lines are told by the marks and the fenced stacks. -/
theorem State.poisonIn_congr {t : State} (h : t.poisoned = s.poisoned) (hf : t.fencedStacks = s.fencedStacks) (a n : Nat) :
  t.poisonIn a n = s.poisonIn a n := by
  have : t.stackFenced a = s.stackFenced a := by unfold State.stackFenced; split <;> simp only [hf]
  unfold State.poisonIn; simp only [this, h]

/-! ### Issue -/

/-- Issuing changes thread states only. -/
@[simp] theorem State.issued_ueDue (k : Nat) : (s.issued k).ueDue = s.ueDue := rfl
@[simp] theorem State.issued_mem (k : Nat) : (s.issued k).mem = s.mem := rfl
@[simp] theorem State.issued_hostMem (k : Nat) : (s.issued k).hostMem = s.hostMem := rfl
@[simp] theorem State.issued_regs (k : Nat) : (s.issued k).regs = s.regs := rfl
@[simp] theorem State.issued_now (k : Nat) : (s.issued k).now = s.now := rfl
@[simp] theorem State.issued_poisoned (k : Nat) : (s.issued k).poisoned = s.poisoned := rfl

@[simp] theorem State.issued_fenced (k : Nat) : (s.issued k).fencedStacks = s.fencedStacks := rfl

/-- A context that can issue is READY. -/
theorem State.ready_of_canIssue {k : Nat} (h : s.canIssue k = true) : (s.ctx k).st = .ready := by
  simp only [State.canIssue, State.selectable, Bool.and_eq_true, beq_iff_eq] at h
  exact h.1.1.1

/-- The issuing context is RUNNING and ends a yield of its own. -/
theorem State.issued_ctx {k : Nat} (h : s.canIssue k = true) :
    (s.issued k).ctx k = { s.ctx k with st := .running, wait := .none } := by
  have h := mapGet_map (d := ctxDefault) (fun j c => if j = k then ({ c with st := .running, wait := .none } : Ctx) else match c.wait with
      | .yield os => { c with wait := .yield (os.filter (· != k)) }
      | _ => c) k s.harts (by
        right; intro he
        have h1 : (s.ctx k).st = .ready := State.ready_of_canIssue h
        rw [State.ctx, he] at h1; cases h1)
  simp only [if_true] at h
  exact h

/-- Issuing leaves a context that does not yield to the issuing one as it was. -/
theorem State.issued_ctx_other {k j : Nat} (hj : j ≠ k) (hy : ∀ os, (s.ctx j).wait ≠ .yield os) :
    (s.issued k).ctx j = s.ctx j := by
  have h := mapGet_map (d := ctxDefault) (fun j c => if j = k then ({ c with st := .running, wait := .none } : Ctx) else match c.wait with
      | .yield os => { c with wait := .yield (os.filter (· != k)) }
      | _ => c) j s.harts (.inl (by simp only [if_neg hj]; rfl))
  simp only [if_neg hj] at h
  refine (show (s.issued k).ctx j = _ from h).trans ?_
  split
  · rename_i os ho; exact absurd ho (hy os)
  · rfl

/-- Issuing keeps the thread states canonical. -/
theorem State.issued_wf (k : Nat) (h : mapWf ctxDefault s.harts = true) :
    mapWf ctxDefault (s.issued k).harts = true := by
  refine mapWf_map (fun j c => if j = k then ({ c with st := .running, wait := .none } : Ctx) else match c.wait with
      | .yield os => { c with wait := .yield (os.filter (· != k)) }
      | _ => c) h ?_
  intro e he hne hd
  split at hd
  · have h3 := congrArg Ctx.st hd
    simp only [ctxDefault, Ctx.empty] at h3
    cases h3
  · split at hd
    · have h3 := congrArg Ctx.wait hd
      simp only [ctxDefault, Ctx.empty] at h3
      cases h3
    · exact hne hd

/-- What makes an access wait is told by the reset, the kept blocks and the rows being copied. -/
theorem State.memWaits_issued (k a n : Nat) : (s.issued k).memWaits a n = s.memWaits a n := rfl

/-- An instruction whose fetch passes does what it does on the state in which it has issued. -/
theorem State.issue_of {k len : Nat} (aborted : Ctx → Ctx) (act : State → State) (h : s.issues k len) :
    s.issue k len aborted act = act (s.issued k) := by
  obtain ⟨h1, h2, h3, h4, h5, h6⟩ := h
  have h2' : ¬ (s.ctx k).pc.toNat % 2 = 1 := by omega
  have h3' := (State.fetchable_congr (State.issued_regs (s := s) k) k (s.ctx k).pc.toNat len).trans h3
  have h5' := (State.poisonIn_congr (State.issued_poisoned (s := s) k) (State.issued_fenced k)
    (offOf (s.ctx k).pc.toNat) len).trans h5
  have h6' : ((s.issued k).packageFenced && !isPx k) = false := by
    simpa only [State.packageFenced, State.flag_congr (State.issued_regs (s := s) k)] using h6
  simp only [State.issue, h1, Bool.not_true, Bool.false_eq_true, if_false, if_neg h2', h3', State.memWaits_issued, h4, h5', h6']

/-! ### Retiring -/

/-- Retiring leaves thread states and memory alone. -/
@[simp] theorem State.retire_harts (k : Nat) : (s.retire k).harts = s.harts := by unfold State.retire; split <;> rfl
@[simp] theorem State.retire_mem (k : Nat) : (s.retire k).mem = s.mem := by unfold State.retire; split <;> rfl
@[simp] theorem State.retire_hostMem (k : Nat) : (s.retire k).hostMem = s.hostMem := by unfold State.retire; split <;> rfl
@[simp] theorem State.retire_ueDue (k : Nat) : (s.retire k).ueDue = s.ueDue := by unfold State.retire; split <;> rfl
@[simp] theorem State.retire_now (k : Nat) : (s.retire k).now = s.now := by unfold State.retire; split <;> rfl
@[simp] theorem State.retire_ctx (k j : Nat) : (s.retire k).ctx j = s.ctx j := by simp [State.ctx]
/-- A cluster core's registers do not count retired instructions. -/
theorem State.retire_regs {k : Nat} (h : isPx k = false) : (s.retire k).regs = s.regs := by
  unfold State.retire; simp [h]

/-- The context after an instruction that changes it and moves past. -/
theorem State.finish_ctx (k len : Nat) (f : Ctx → Ctx) (h : mapWf ctxDefault s.harts = true) :
    (s.finish k len f).ctx k = ((f (s.ctx k)).next len).ready := by
  simp only [State.finish, State.retire_ctx, State.onCtx]
  exact State.ctx_setCtx_same k _ h

/-- Other contexts stay. -/
theorem State.finish_ctx_other {k j : Nat} (len : Nat) (f : Ctx → Ctx) (h : mapWf ctxDefault s.harts = true) (hj : j ≠ k) :
    (s.finish k len f).ctx j = s.ctx j := by
  simp only [State.finish, State.retire_ctx, State.onCtx]
  exact State.ctx_setCtx_other _ h hj

@[simp] theorem State.finish_mem (k len : Nat) (f : Ctx → Ctx) : (s.finish k len f).mem = s.mem := by simp [State.finish]
@[simp] theorem State.finish_hostMem (k len : Nat) (f : Ctx → Ctx) : (s.finish k len f).hostMem = s.hostMem := by
  simp [State.finish]
@[simp] theorem State.finish_ueDue (k len : Nat) (f : Ctx → Ctx) : (s.finish k len f).ueDue = s.ueDue := by
  simp [State.finish]

end Sys2Proof.Machine
end

