-- ==== Sys2Proof/Certificates/Slice0/Obligations.lean ====
section
/-! DEFINITION. The statements for the provers. Each says what a command of the block, or the block as a whole, does; its docstring
names the rules of spec/ it rests on, and, where a clause rests on a choice of the model, the row of the assumption log. -/

open Sys2Proof Sys2Proof.Machine

/-! ### Cores: chapter 03 -/

/-- R61, R63, R72: an instruction that retires changes its own context as told, moves it past its bytes and leaves it READY; no
other context changes, no byte of memory, and on a cluster core no register of the register space. -/
def Obligations.RetiringChangesOwnContextOnly : Prop :=
  ∀ (s : State) (k len : Nat) (f : Ctx → Ctx), s.mapsCanonical = true →
    (s.finish k len f).ctx k = ((f (s.ctx k)).next len).ready
      ∧ (∀ j, j ≠ k → (s.finish k len f).ctx j = s.ctx j)
      ∧ (∀ a, (s.finish k len f).byteAt a = s.byteAt a)
      ∧ (isPx k = false → (s.finish k len f).regs = s.regs)

/-- FENCE_I and XYIELD retire and change nothing else (R70, Table 03-10). After XYIELD the context is READY, and it is not
selectable while another context of its pipeline that was selectable is READY and has not issued since (R63); one that issues
is no longer waited for. XSLEEP (Table 03-8, R78): a tick already reached gives ST_OK at once, one more than 2^40 ticks ahead
ST_RANGE at once; on any other the context waits for the tick, and XSLEEP_TICK_REACHED ends that wait with ST_OK. XBWAIT (R79):
on an aligned word of the package's SRAM or stacks that can be read, a value not below the threshold gives ST_OK at once, and
on a lower one the context waits for a write, its stopwatch xwlim; XBWAIT_SATISFIED ends the wait with ST_OK once a comparison
has met the threshold. A word outside them gives ST_RANGE, a misaligned one ST_ALIGN (R78). -/
def Obligations.ContextControlAndWaits : Prop :=
  (∀ (s : State) (h : Hart), s.mapsCanonical = true → s.quiet → s.issues (hartKey h) 4 →
      let k := hartKey h
      let others := (s.harts.map (·.1)).filter fun j => j != k && samePipe j k && (s.issued k).selectable j
      (∃ t, exec (.fenceI h) s = .next t ∧ s.retires t k 4 id)
      ∧ (∃ t, exec (.xyield h) s = .next t ∧ s.keeps t k
        ∧ t.ctx k = { ((s.ctx k).next 4).ready with wait := if others = [] then .none else .yield others }
        ∧ ∀ o ∈ others, t.selectable k = false ∧ ((t.issued o).ctx k).yields = others.filter (· != o)))
  ∧ ((∀ (s : State) (h : Hart) (rd rs1 : Rg), s.mapsCanonical = true → s.quiet → s.issues (hartKey h) 4 →
      let k := hartKey h
      let n := ((s.ctx k).xr rs1).toNat
      ∃ t, exec (.xsleep h rd rs1) s = .next t ∧ s.keeps t k
        ∧ (n ≤ s.now → t.ctx k = ((s.ctx k).setStatus rd ST.OK).wake)
        ∧ (s.now + 2 ^ 40 < n → t.ctx k = ((s.ctx k).setStatus rd ST.RANGE).wake)
        ∧ (s.now < n → n ≤ s.now + 2 ^ 40 → t.ctx k = (s.ctx k).waits (.sleep rd n)))
    ∧ (∀ (s : State) (h : Hart) (rd : Rg) (n : Nat), s.quiet → (s.ctx (hartKey h)).wait = .sleep rd n → n ≤ s.now →
      s.coreClock (hartKey h) = true →
      exec (.xsleepTickReached h) s = .next (s.onCtx (hartKey h) fun c => (c.setStatus rd ST.OK).wake)))
  ∧ ((∀ (s : State) (h : Hart) (rd rs1 rs2 : Rg), s.mapsCanonical = true → s.quiet → s.issues (hartKey h) 4 →
      let k := hartKey h
      let a := ((s.ctx k).xr rs1).toNat
      let thr := ((s.ctx k).xr rs2).toNat
      let there : Bool := s.isSelf a && s.extentIn isSramStack (offOf a) 8
      (there = false → ∃ t, exec (.xbwait h rd rs1 rs2) s = .next t ∧ s.retires t k 4 fun c => c.setStatus rd ST.RANGE)
        ∧ (there = true → a % 8 ≠ 0 → ∃ t, exec (.xbwait h rd rs1 rs2) s = .next t
          ∧ s.retires t k 4 fun c => c.setStatus rd ST.ALIGN)
        ∧ (there = true → a % 8 = 0 → s.memWaits (offOf a) 64 = false → s.poisonIn (offOf a) 8 = none →
          ∃ t, exec (.xbwait h rd rs1 rs2) s = .next t ∧ s.keeps t k
            ∧ (thr ≤ s.peekNat (offOf a) 8 → t.ctx k = ((s.ctx k).setStatus rd ST.OK).wake)
            ∧ (s.peekNat (offOf a) 8 < thr →
              t.ctx k = (s.ctx k).waits (.baton rd (offOf a) thr false (s.now + (s.ctx k).xwlim)))))
    ∧ (∀ (s : State) (h : Hart) (rd : Rg) (a thr dl : Nat), s.quiet → (s.ctx (hartKey h)).wait = .baton rd a thr true dl →
      s.coreClock (hartKey h) = true →
      exec (.xbwaitSatisfied h) s = .next (s.onCtx (hartKey h) fun c => (c.setStatus rd ST.OK).wake)))

/-- XFENCE (R76): with no remote operation outstanding it writes the status of the first failed posted operation in program
order, ST_OK without one, and forgets the failures; with one outstanding the context waits. XEXIT (R73, R194): with none
outstanding the thread ends: the context takes the lowest unstarted thread of the running launch on a work context of a cluster
core, and is EMPTY with nothing but its pc kept where no thread is left; with one outstanding the context waits. XFINISH and
XHAND of a context with no remote operation outstanding and no failure kept: XFINISH of a loaded communicator that lacks more
than this arrival records it at its lap and waits, its stopwatch xwlim (R257), and one of no loaded communicator gives
ST_COMM_UNKNOWN (R78). XHAND at a region of another endpoint parks for the reply of one more outstanding hand-off, whose
stopwatch is xrlim (R202); a value of rs2 that Table 08-10 does not have gives ST_RANGE (R201). -/
def Obligations.FencesAndHandsWaitOrEnd : Prop :=
  (∀ (s : State) (h : Hart), s.mapsCanonical = true → s.quiet → s.issues (hartKey h) 4 →
      let k := hartKey h
      let c := s.ctx k
      (∀ rd, ∃ t, exec (.xfence h rd) s = .next t ∧ s.keeps t k
        ∧ (c.rops = [] → t.ctx k = (({ c with failed := [] } : Ctx).setStatus rd c.fenceStatus).wake)
        ∧ (c.rops ≠ [] → t.ctx k = c.waits (.fence rd)))
      ∧ (∃ t, exec (.xexit h) s = .next t ∧ s.keeps t k
        ∧ (c.rops ≠ [] → t.ctx k = c.waits .exitFence)
        ∧ (c.rops = [] → (∀ l, s.running = some l → recThreads l.bytes ≤ l.next) → t.ctx k = c.left)
        ∧ (∀ m l, c.rops = [] → isPx k = false → isCollective k = false → s.image = some m → s.running = some l →
          l.next < recThreads l.bytes →
          t.ctx k = c.take (Ctx.thread0 m.entry (recT0 l.bytes + l.next) (recArg l.bytes) (m.sp (coreOf k) (ctxOf k))
              (recT0 l.bytes + l.next))
            ∧ t.running = some { l with next := l.next + 1 })))
  ∧ (∀ (s : State) (h : Hart) (rd rs1 rs2 : Rg), s.mapsCanonical = true → s.quiet → s.issues (hartKey h) 4 →
      let k := hartKey h
      let a := ((s.ctx k).xr rs1).toNat
      let v := ((s.ctx k).xr rs2).toNat
      let valid : Prop := v < 2 ^ 18 ∧ (v % 2 ^ 16 = 0 ∨ v / 2 ^ 16 = 2) ∧ (v % 2 ^ 16 < 0x4000 ∨ v % 2 ^ 16 = 0xFFFF)
      (s.commOf a = none → ∃ t, exec (.xfinish h rd rs1 rs2) s = .next t
          ∧ s.retires t k 4 fun c => c.setStatus rd ST.COMM_UNKNOWN)
      ∧ (∀ i c, s.commOf a = some (i, c) → (s.ctx k).rops = [] → (s.ctx k).failed = [] → c.lapDone = none → c.lap = none →
          c.arrived + 1 < c.arrivals →
          ∃ t, exec (.xfinish h rd rs1 rs2) s = .next t ∧ s.keeps t k
            ∧ assocGet i t.comms = some { c with lap := some v, arrived := c.arrived + 1 }
            ∧ t.ctx k = (s.ctx k).waits (.finish rd a v (s.now + (s.ctx k).xwlim) ST.OK))
      ∧ (¬ valid → ∃ t, exec (.xhand h rd rs1 rs2) s = .next t ∧ s.retires t k 4 fun c => c.setStatus rd ST.RANGE)
      ∧ (∀ e, valid → s.epOk a = true → s.isSelf a = false → (s.ctx k).rops = [] → (s.ctx k).failed = [] →
          s.freeSlot k = some e →
          ∃ t, exec (.xhand h rd rs1 rs2) s = .next t ∧ s.keeps t k ∧ (t.ctx k).st = .parked
            ∧ (t.ctx k).wait = .reply (s.ctx k).nextOp ∧ (t.ctx k).pc = (s.ctx k).pc ∧ (t.ctx k).x = (s.ctx k).x
            ∧ s.opBegun t k e (.hand rd) false (s.now + (s.ctx k).xrlim)))

/-- Remote loads and atomics (R76, R77, R205): naming another endpoint at an aligned address with an entry free, the context
parks for the reply of one more outstanding operation, whose stopwatch is xrlim. -/
def Obligations.RemoteLoadsAndAtomicsPark : Prop :=
  ∀ (s : State) (h : Hart) (e : Nat), s.mapsCanonical = true → s.quiet → s.issues (hartKey h) 4 →
    s.freeSlot (hartKey h) = some e →
    let k := hartKey h
    let remote (rs1 : Rg) (n : Nat) : Prop :=
      s.isSelf ((s.ctx k).xr rs1).toNat = false ∧ s.epOk ((s.ctx k).xr rs1).toNat = true ∧ ((s.ctx k).xr rs1).toNat % n = 0
    let parks (c : Instr) (kind : RopKind) : Prop := ∃ t, exec c s = .next t ∧ t.mem = s.mem ∧ (t.ctx k).st = .parked
      ∧ (t.ctx k).wait = .reply (s.ctx k).nextOp ∧ (t.ctx k).pc = (s.ctx k).pc ∧ (t.ctx k).x = (s.ctx k).x
      ∧ s.opBegun t k e kind false (s.now + (s.ctx k).xrlim)
    (∀ z rd rs1, remote rs1 (2 ^ z.toNat) → parks (.xld h z rd rs1) (.load (2 ^ z.toNat) true rd))
      ∧ (∀ z rd rs1, z ≠ 3 → remote rs1 (2 ^ z.toNat) → parks (.xldu h z rd rs1) (.load (2 ^ z.toNat) false rd))
      ∧ (∀ z vd rs1, z ≠ 3 → (z = 2 → evenRg vd = true) → remote rs1 (16 * 2 ^ z.toNat) →
        parks (.xldv h z vd rs1) (.loadv (16 * 2 ^ z.toNat) vd))
      ∧ (∀ rd rs1 rs2, remote rs1 8 → parks (.xamoAdd h rd rs1 rs2) (.amo rd) ∧ parks (.xamoMin h rd rs1 rs2) (.amo rd)
        ∧ parks (.xamoMax h rd rs1 rs2) (.amo rd) ∧ parks (.xamoAnd h rd rs1 rs2) (.amo rd)
        ∧ parks (.xamoOr h rd rs1 rs2) (.amo rd) ∧ parks (.xamoSwap h rd rs1 rs2) (.amo rd)
        ∧ parks (.xcasD h rd rs1 rs2) (.cas 8 rd))
      ∧ (∀ rd rs1 rs2, evenRg rd = true → evenRg rs2 = true → remote rs1 16 → parks (.xcasQ h rd rs1 rs2) (.cas 16 rd))

/-- Posted remote operations XST, XSTV and XFADD (R76, R77): at an aligned address of another endpoint with an entry free, the
instruction retires with ST_OK in xst (XFADD: in rd), and one more posted operation is outstanding, whose stopwatch is xrlim. A
misaligned one gives ST_ALIGN there and begins none (R78), and without a free entry the instruction waits for one. A store to
the context's own package writes its bytes and no others (R185, R412). XPUT and XGET (R188): with a descriptor where Table 03-9
has it that names 1 to 4,096 bytes of another endpoint within one region and a local extent where R188 and R84 have it, both
readable, the instruction retires with ST_OK in rd, and one more posted operation is outstanding; XGET's names the local extent
its data goes to. -/
def Obligations.PostedOperationsGoOn : Prop :=
  (∀ (s : State) (h : Hart), s.mapsCanonical = true → s.quiet → s.issues (hartKey h) 4 →
      let k := hartKey h
      let remote (rs1 : Rg) : Prop := s.isSelf ((s.ctx k).xr rs1).toNat = false ∧ s.epOk ((s.ctx k).xr rs1).toNat = true
      let posts (c : Instr) (x : Xop) (rs1 : Rg) (n : Nat) (kind : RopKind) (tell : Half → Ctx → Ctx) : Prop := remote rs1 →
        (((s.ctx k).xr rs1).toNat % n ≠ 0 → ∃ t, exec c s = .next t ∧ s.retires t k 4 (tell ST.ALIGN))
        ∧ (((s.ctx k).xr rs1).toNat % n = 0 → s.freeSlot k = none → ∃ t, exec c s = .next t ∧ s.keeps t k
          ∧ t.ctx k = (s.ctx k).waits (.quota x))
        ∧ (∀ e, ((s.ctx k).xr rs1).toNat % n = 0 → s.freeSlot k = some e → ∃ t, exec c s = .next t ∧ s.keeps t k
          ∧ t.ctx k = { (tell ST.OK (s.ctx k)).wake with rops := (t.ctx k).rops, nextOp := (s.ctx k).nextOp + 1 }
          ∧ s.opBegun t k e kind true (s.now + (s.ctx k).xrlim))
      let xst (st : Half) (c : Ctx) : Ctx := { c with xst := st }
      (∀ z rs1 rs2, posts (.xst h z rs1 rs2) (.st z rs1 rs2) rs1 (2 ^ z.toNat) .store xst)
        ∧ (∀ z rs1 vs, z ≠ 3 → (z = 2 → evenRg vs = true) → posts (.xstv h z rs1 vs) (.stv z rs1 vs) rs1 (16 * 2 ^ z.toNat) .store xst)
        ∧ (∀ rd rs1 fs2, posts (.xfadd h rd rs1 fs2) (.fadd rd rs1 fs2) rs1 64 .fadd fun st c => c.setStatus rd st)
        ∧ (∀ z rs1 rs2 e,
          let a := ((s.ctx k).xr rs1).toNat
          let d := leBytes (2 ^ z.toNat) ((s.ctx k).xr rs2).toNat
          s.isSelf a = true → a % 2 ^ z.toNat = 0 → s.selfReach (offOf a) (.store d) = true → (∀ o, place (offOf a) ≠ .hwin o) →
          s.freeSlot k = some e → s.clean → s.heldWrites = [] →
          ∃ t, exec (.xst h z rs1 rs2) s = .next t ∧ t.mem = memPut s.mem (offOf a) d ∧ t.hostMem = s.hostMem
            ∧ t.ctx k = { (xst ST.OK (s.ctx k)).wake with rops := (t.ctx k).rops, nextOp := (s.ctx k).nextOp + 1 }))
  ∧ (∀ (s : State) (h : Hart) (e : Nat) (rd rs1 : Rg), s.mapsCanonical = true → s.quiet → s.issues (hartKey h) 4 →
      s.freeSlot (hartKey h) = some e →
      let k := hartKey h
      let a := ((s.ctx k).xr rs1).toNat
      let d := s.peek (offOf a) 32
      let n := fieldAt d 16 4
      let far := fieldAt d 0 8
      let near := fieldAt d 8 8
      s.descPlace k a = true → a % 32 = 0 →
      s.memWaits (offOf a) 64 = false → s.poisonIn (offOf a) 32 = none →
      1 ≤ n → n ≤ 4096 → fieldAt d 20 1 < 8 → zeroAt d 21 11 = true → regionOf (offOf far) = regionOf (offOf far + n - 1) →
      s.isSelf far = false → s.epOk far = true →
      s.localPlace k near n = true → s.memWaits (offOf near) 64 = false →
      s.poisonIn (offOf near) n = none →
      let posts (c : Instr) (kind : RopKind) : Prop := ∃ t, exec c s = .next t ∧ s.keeps t k
        ∧ t.ctx k = { ((s.ctx k).setStatus rd ST.OK).wake with rops := (t.ctx k).rops, nextOp := (s.ctx k).nextOp + 1 }
        ∧ s.opBegun t k e kind true (s.now + (s.ctx k).xrlim)
      posts (.xput h rd rs1) .put ∧ posts (.xget h rd rs1) (.get (offOf near) n))

/-- R206, R172: a reply reaches its core while the core's clock runs. With ST_OK a load's register gets the data, sign-extended
for XLD, xst gets ST_OK and the context goes on past its instruction, with the operation no longer outstanding; with a status
that is neither ST_OK nor ST_POISONED the register gets zero and xst the status. The response to a performed standard access
moves its context past the instruction (R66). On a stopped clock nothing changes. Stopwatches (R79, R172, R205), on a running
or a stopped clock of a cluster core: once the deadline has come, an atomic without a reply ends with ST_TIMEOUT in xst, zero
in rd and one more in TIMEOUTS; a context that waits on a baton goes on with ST_TIMEOUT, with ST_OK where a comparison has
succeeded. -/
def Obligations.RepliesAndStopwatchesResume : Prop :=
  (∀ (s : State) (h : Hart), s.mapsCanonical = true → s.quiet →
      let k := hartKey h
      (∀ (r : Rop) (n : Nat) (signed : Bool) (rd : Rg) (st : Half) (data : List Byte), s.coreClock k = true →
        (s.ctx k).rops = [r] → (s.ctx k).late = [] → r.kind = .load n signed rd → r.reply = some (st, data) → r.posted = false →
        (s.ctx k).wait = .reply r.num → st ≠ ST.POISONED →
        let v := if st = ST.OK then ofLe data else 0
        ∃ t, exec (.remoteReply h r.num) s = .next t ∧ t.mem = s.mem ∧ (∀ j, j ≠ k → t.ctx j = s.ctx j)
          ∧ t.ctx k = { ((({ s.ctx k with xst := st } : Ctx).setX rd
              (BitVec.ofNat 64 (if signed then sext64 (8 * n) v else v))).wake) with rops := [] })
      ∧ (∀ n len, s.coreClock k = true → (s.ctx k).wait = .response n len →
        exec (.remoteReply h n) s = .next (s.finish k len id))
      ∧ (∀ op, s.coreClock k = false → exec (.remoteReply h op) s = .next s))
  ∧ (∀ (s : State) (h : Hart), s.mapsCanonical = true → s.quiet → (isPx (hartKey h) = true → s.powered = true) →
      let k := hartKey h
      (∀ (r : Rop) (rd : Rg), (s.ctx k).rops = [r] → (s.ctx k).late = [] → r.kind = .amo rd → r.reply = none → r.posted = false →
        r.deadline ≤ s.now → (s.ctx k).wait = .reply r.num →
        ∃ t, exec (.remoteStopwatchExpiry h r.num) s = .next t ∧ t.mem = s.mem ∧ s.counted t F.FAB_STATS.TIMEOUTS
          ∧ t.ctx k = { ((({ s.ctx k with xst := ST.TIMEOUT } : Ctx).setX rd 0).wake) with rops := [] })
      ∧ (∀ (rd : Rg) (a thr dl : Nat) (met : Bool), (s.ctx k).wait = .baton rd a thr met dl → dl ≤ s.now →
        exec (.waitStopwatchExpiry h) s = .next (s.onCtx k fun c => (c.setStatus rd (if met then ST.OK else ST.TIMEOUT)).wake)))

/-- R61, Table 03-3: CONTEXT_ABORT_COMPLETE makes an ABORTED context of a cluster core EMPTY (here with no image unload due);
an instruction that waited for a quota entry or a queue entry issues when one is free (R77, R80, R97). -/
def Obligations.WaitingContextsGoOn : Prop :=
  (∀ (s : State) (h : Hart), s.quiet → (s.ctx (hartKey h)).st = .aborted → isPx (hartKey h) = false →
    s.unloadDue = false →
    exec (.contextAbortComplete h) s = .next (s.onCtx (hartKey h) Ctx.left))
  ∧ (∀ (s : State) (h : Hart) (x : Xop) (e : Nat), s.freeSlot (hartKey h) = some e → s.coreClock (hartKey h) = true →
    (s.ctx (hartKey h)).wait = .quota x →
    exec (.quotaEntryFreed h) s = .next (s.xop (hartKey h) x (s.now + (s.ctx (hartKey h)).xwlim)).settle)
  ∧ (∀ (s : State) (h : Hart) (x : Xop) (d : Nat), s.coreClock (hartKey h) = true →
    ((s.ctx (hartKey h)).wait = .unitQueue x d ∨ (s.ctx (hartKey h)).wait = .engQueue x d) →
    exec (.unitQueueEntryFreed h) s = .next (s.xop (hartKey h) x d).settle)

/-- XDSU and XPUU (R80): a command that passes its unit's checks with room in the queue joins the queue's end, and the context
goes on with ST_PENDING, or with W waits for the command's completion under xwlim. Tensor instructions (R93 to R97): one that
passes its checks, with room in its engine's queue and no earlier one waiting for it, joins the queue's end with the descriptor
as read at issue (RM = 7 of an output descriptor of XTCVT or XTRD replaced by frm, R38), is one more instruction for the next
XTWAIT, and the context goes on with ST_PENDING. -/
def Obligations.CommandsJoinTheirQueues : Prop :=
  ((∀ (s : State) (h : Hart) (w : Bool) (rd rs1 : Rg), s.mapsCanonical = true → s.quiet → s.issues (hartKey h) 4 →
      isPx (hartKey h) = false →
      let k := hartKey h
      let u := clusterOfHart k
      let a := ((s.ctx k).xr rs1).toNat
      let heat : Heat := ⟨(s.dsu u).nextId, k, s.peek (offOf a) 64, false⟩
      s.cmdPlace k a 64 = true → a % 64 = 0 → s.memWaits (offOf a) 64 = false → s.poisonIn (offOf a) 64 = none →
      (s.issued k).heatCheck u heat = ST.OK → (s.dsu u).queue.length < 8 → mapWf dsuDefault s.dsus = true →
      ∃ t, exec (.xdsu h w rd rs1) s = .next t ∧ t.mem = s.mem
        ∧ t.dsu u = { s.dsu u with queue := (s.dsu u).queue ++ [heat], nextId := (s.dsu u).nextId + 1 }
        ∧ t.ctx k = if w then (s.ctx k).waits (.dsu rd u heat.id (s.now + (s.ctx k).xwlim))
            else ((s.ctx k).setStatus rd ST.PENDING).wake)
    ∧ (∀ (s : State) (h : Hart) (w : Bool) (rd rs1 rs2 : Rg), s.mapsCanonical = true → s.quiet → s.issues (hartKey h) 4 →
      isPx (hartKey h) = false →
      let k := hartKey h
      let u := ((s.ctx k).xr rs2).toNat
      let a := ((s.ctx k).xr rs1).toNat
      let cmd : PuuCmd := ⟨(s.puu u).nextId, k, s.peek (offOf a) 128, false⟩
      u ≤ 15 → s.cmdPlace k a 128 = true → a % 128 = 0 → s.memWaits (offOf a) 64 = false → s.poisonIn (offOf a) 128 = none →
      (s.issued k).puuCheck u cmd = ST.OK → (s.puu u).queue.length < 4 → mapWf puuDefault s.puus = true →
      ∃ t, exec (.xpuu h w rd rs1 rs2) s = .next t ∧ t.mem = s.mem
        ∧ t.puu u = { s.puu u with queue := (s.puu u).queue ++ [cmd], nextId := (s.puu u).nextId + 1 }
        ∧ t.ctx k = if w then (s.ctx k).waits (.puu rd u cmd.id (s.now + (s.ctx k).xwlim))
            else ((s.ctx k).setStatus rd ST.PENDING).wake))
  ∧ (∀ (s : State) (h : Hart) (rd rs1 rs2 : Rg), s.mapsCanonical = true → s.quiet → s.issues (hartKey h) 4 →
      isPx (hartKey h) = false → mapWf engineDefault s.engines = true →
      let k := hartKey h
      let a := ((s.ctx k).xr rs1).toNat
      let sel := ((s.ctx k).xr rs2).toNat
      let e := coreOf k * 4 + sel % 4
      let placed : Prop := s.isSelf a = true ∧ lsramBase (coreOf k) ≤ offOf a ∧ offOf a + 64 ≤ lsramBase (coreOf k) + 0x100000
        ∧ a % 64 = 0 ∧ s.memWaits (offOf a) 64 = false ∧ s.poisonIn (offOf a) 64 = none
      let queued (c : Instr) (i : EngInstr) : Prop :=
        let j := { i with id := (s.engine e).nextId, slot := sel / 4 % 2 }
        (s.issued k).engCheck (coreOf k) (s.engine e) j = ST.OK → (s.engine e).queue.length < 16 →
        s.engWaiters e = [] →
        ∃ t, exec c s = .next t ∧ t.mem = s.mem
          ∧ t.engine e = { s.engine e with
              queue := (s.engine e).queue ++ [j], nextId := (s.engine e).nextId + 1
              waiters := (s.engine e).waiters.filter (· != ctxOf k) }
          ∧ t.ctx k = (({ s.ctx k with tensor := (s.ctx k).tensor ++ [(sel % 4, j.id, none)] } : Ctx).setStatus rd ST.PENDING).wake
      (∀ pp, sel < 8 → placed → queued (.xtmma h pp rd rs1 rs2)
          { s.plain k .mma with desc := s.peek (offOf a) 64, passes := if pp = 0 then s.passes else pp.toNat })
        ∧ (∀ sc ov, sel < 4 → placed → queued (.xtcvt h sc ov rd rs1 rs2)
          { s.plain k .cvt with desc := (s.ctx k).dynRm (s.peek (offOf a) 64), scale := sc, ovf := ov })
        ∧ (∀ sc ov, sel < 8 → placed → queued (.xtrd h sc ov rd rs1 rs2)
          { s.plain k .rd with desc := (s.ctx k).dynRm (s.peek (offOf a) 64), scale := sc, ovf := ov })
        ∧ (sel < 32 → queued (.xtzero h rd rs2) { s.plain k .zero with kind64 := bitOf sel 3, running := bitOf sel 4 })
        ∧ (sel < 16 → queued (.xtfill h rd rs1 rs2) { s.plain k .fill with kind64 := bitOf sel 3, cells := a })
        ∧ (sel < 8 → queued (.xtspill h rd rs1 rs2) { s.plain k .spill with cells := a }))

/-- XTWAIT and XTSTAT (R100, R101): once every accepted instruction of the engine has completed, XTWAIT writes the first status
of them that is not ST_OK and ends the covered set; XTSTAT writes word 0 or 1 of the engine's last record, and zero for any
other rs1, and leaves the set. While one has not completed, both wait under xwlim. -/
def Obligations.TensorWaitsReportCompletion : Prop :=
  ∀ (s : State) (h : Hart) (rd rs1 rs2 : Rg), s.mapsCanonical = true → s.quiet → s.issues (hartKey h) 4 →
    isPx (hartKey h) = false →
    let k := hartKey h
    let c := s.ctx k
    let eng := (c.xr rs2).toNat
    let w := (c.xr rs1).toNat
    let all := c.tensor.all fun t => t.1 != eng || t.2.2.isSome
    let first := ((c.tensor.find? fun t => t.1 == eng && t.2.2 != some ST.OK).bind (·.2.2)).getD ST.OK
    eng < 4 →
    (∃ t, exec (.xtwait h rd rs2) s = .next t ∧ t.mem = s.mem ∧ t.engines = s.engines
      ∧ (all = true → t.ctx k = (({ c with tensor := c.tensor.filter fun t => t.1 != eng } : Ctx).setStatus rd first).wake)
      ∧ (all = false → t.ctx k = c.waits (.engWait rd eng (s.now + c.xwlim))))
    ∧ (∃ t, exec (.xtstat h rd rs1 rs2) s = .next t ∧ t.mem = s.mem ∧ t.engines = s.engines
      ∧ (all = true → t.ctx k = (c.setX rd (if w = 0 then s.reg R.CMP_ENG_REC0 (coreOf k * 4 + eng)
          else if w = 1 then s.reg R.CMP_ENG_REC1 (coreOf k * 4 + eng) else 0)).wake)
      ∧ (all = false → t.ctx k = c.waits (.engStat rd eng w (s.now + c.xwlim))))

/-- Standard instructions (R59, R66, R81): a word of the integer or floating-point computation group changes its context as its
group's function says and retires, a vector computation does so with one free word for its agnostic elements; a local scalar
load writes what its memory holds, a local scalar store writes its bytes and no others, and either retires in the core's own
SRAM and parks for the response elsewhere (R62, R66); ECALL, EBREAK and a word of no group trap: the context is aborted and the
record names the cause. R60 on the integer group: ADDI adds the sign-extended immediate and wraps; DIV and REM by zero give all
ones and the dividend. -/
def Obligations.StandardInstructionsRun : Prop :=
  (∀ (s : State) (h : Hart) (raw w : Word32) (len : Nat), s.mapsCanonical = true → s.quiet →
      s.issues (hartKey h) (insnLen raw) → isCustom raw = false → insnOf raw = some (w, len) →
      let k := hartKey h
      let c : Ctx := { s.ctx k with st := .running, wait := .none }
      let comp := (intExec c w len).or (fpExec c w len)
      let traps (cause : Cause) := ∃ t, exec (.standardInstruction h raw) s = .next t ∧ t.mem = s.mem ∧ (t.ctx k).st = .aborted
        ∧ (t.ctx k).pc = (s.ctx k).pc ∧ s.logged t { ErrInfo.of cause with hart := some k, status := ST.ABORTED }
      (∀ c', comp = some c' →
          exec (.standardInstruction h raw) s = .next (((s.issued k).setCtx k c').finish k 0 id))
        ∧ (∀ c', comp = none → opcode w = 0x57 → vecExec c (Config.freeWord s.fresh) w len = some c' →
          exec (.standardInstruction h raw) s =
            .next ((({ s.issued k with fresh := s.fresh + 1 } : State).setCtx k c').finish k 0 id))
        ∧ (∀ l off, comp = none → opcode w = 0x03 → lsOf c w = some l → l.data = none →
          s.access k l.addr l.n false false = .mem off → s.memWaits off l.n = false → s.poisonIn off l.n = none →
          ∃ t, exec (.standardInstruction h raw) s = .next t ∧ s.keeps t k
            ∧ t.ctx k = if ownSram k off l.n then ((l.fin c (s.peekNat off l.n)).next len).ready
              else (l.fin c (s.peekNat off l.n)).parkResponse len)
        ∧ (∀ l off d, comp = none → opcode w = 0x23 → lsOf c w = some l → l.data = some d →
          s.access k l.addr l.n false false = .mem off → s.clean → (∀ o, place off ≠ .hwin o) →
          ∃ t, exec (.standardInstruction h raw) s = .next t ∧ t.mem = memPut s.mem off d
            ∧ t.ctx k = if ownSram k off l.n then (c.next len).ready else c.parkResponse len)
        ∧ (comp = none → s.localEntry = none → s.engines = [] →
          (w = 0x00000073 → traps .ecall) ∧ (w = 0x00100073 → traps .ebreak)
            ∧ (opcode w ∉ [0x03, 0x07, 0x0F, 0x23, 0x27, 0x2F, 0x57, 0x73] → traps .illegalInsn)))
  ∧ (∀ (c : Ctx) (rd rs1 rs2 : Rg) (imm : BitVec 12),
      intExec c (BitVec.ofNat 32 (mkI 0x13 0 rd.toNat rs1.toNat imm.toNat)) 4
          = some { c.setX rd (c.xr rs1 + imm.signExtend 64) with pc := c.pc + 4 }
        ∧ (c.xr rs2 = 0 →
          intExec c (BitVec.ofNat 32 (mkR 0x33 4 1 rd.toNat rs1.toNat rs2.toNat)) 4
              = some { c.setX rd (BitVec.allOnes 64) with pc := c.pc + 4 }
            ∧ intExec c (BitVec.ofNat 32 (mkR 0x33 6 1 rd.toNat rs1.toNat rs2.toNat)) 4
              = some { c.setX rd (c.xr rs1) with pc := c.pc + 4 }))

/-- R67, R195: a standard load or store that names another endpoint parks for the reply of one more outstanding operation,
whose stopwatch is 1,000,000 ticks. -/
def Obligations.StandardRemoteAccessParks : Prop :=
  ∀ (s : State) (h : Hart) (raw w : Word32) (len e : Nat) (l : Ls), s.mapsCanonical = true → s.quiet →
    s.issues (hartKey h) (insnLen raw) → isCustom raw = false → insnOf raw = some (w, len) →
    let k := hartKey h
    lsOf (s.ctx k) w = some l → s.isSelf l.addr = false → s.epOk l.addr = true → l.addr % l.n = 0 → s.freeSlot k = some e →
    ∃ t, exec (.standardRemoteAccess h raw) s = .next t ∧ t.mem = s.mem ∧ (t.ctx k).st = .parked
      ∧ (t.ctx k).wait = .reply (s.ctx k).nextOp ∧ (t.ctx k).pc = (s.ctx k).pc ∧ (t.ctx k).x = (s.ctx k).x
      ∧ s.opBegun t k e (.std raw) false (s.now + 1000000)

/-- Table 03-7, 03-8, 04-4: every Xeol instruction whose operands an encoding exists for reads back from its word. Every word
that Tables 03-7, 03-8 and 04-4 give an instruction is that instruction's word: no bit of it is dropped. -/
def Obligations.XeolEncodingRoundTrips : Prop :=
  (∀ x : Xop, x.legal = true → decodeXeol (encodeXeol x) = some x)
  ∧ (∀ (w : Word32) (x : Xop), decodeXeol w = some x → encodeXeol x = w ∧ x.legal = true)

/-! ### Tensor engines, solver units, update units: chapters 04 to 06 -/

/-- R98, R99: the oldest entry of a free lane whose slot nothing earlier names leaves the queue; where the check at its start
holds it runs in its lane from this tick, otherwise it completes with ST_RANGE, its record says so and its slot keeps what it
held. No byte of memory changes and no other engine. R110: RELAY_HANDOVER of a lane that waits for a full relay intake: once
the intake has room the tile enters it (here one of no transfer, so it waits there with its tag, format, addresses and sizes)
and the instruction completes with its record; without room nothing changes. -/
def Obligations.EngineInstructionsStartAndHandOver : Prop :=
  (∀ (s : State) (eng : BitVec 10) (xfer : Bool) (i : EngInstr), s.mapsCanonical = true → s.quiet →
      mapWf engineDefault s.engines = true →
      let e := eng.toNat
      let en := s.engine e
      en.queue.find? (fun j => j.array == !xfer) = some i → en.lane xfer = none → s.clockOn (e / 32) = true →
      en.slotFree i = true → s.engFenced e = false → i.srec = false →
      ∃ t, exec (.engineInstructionStart eng xfer) s = .next t ∧ t.mem = s.mem
        ∧ (∀ e', e' ≠ e → t.engine e' = s.engine e')
        ∧ (s.startOk (e / 4) en i = true →
            t.engine e = ({ en with queue := en.queue.erase i } : Engine).setLane xfer (some ⟨i, s.now, false, none⟩)
              ∧ t.harts = s.harts ∧ t.regs = s.regs)
        ∧ (s.startOk (e / 4) en i = false →
            t.engine e = { en with queue := en.queue.erase i }
              ∧ t.reg R.CMP_ENG_REC0 e = plainRecord i ST.RANGE
              ∧ t.fld F.CMP_ENG_STATS.REFUSED e = Nat.min F.CMP_ENG_STATS.REFUSED.top (s.fld F.CMP_ENG_STATS.REFUSED e + 1)))
  ∧ (∀ (s : State) (eng : BitVec 10) (r : EngRun) (st : Half) (w0 w1 : Word64), s.mapsCanonical = true → s.quiet →
      mapWf engineDefault s.engines = true →
      let e := eng.toNat
      let i := r.ins
      (s.engine e).xfer = some r → r.handover = some (st, w0, w1) → i.aborted = false → i.srec = false → isSuccess st = true →
      s.clockOn (e / 32) = true → s.xfers = [] →
      (s.relayRoom (e / 32) = false → exec (.relayHandover eng) s = .next s)
        ∧ (s.relayRoom (e / 32) = true → (s.now - r.start) * s.stepFreq (e / 64) / 1000 ≤ wordGet w1 63 32 →
          ∃ t, exec (.relayHandover eng) s = .next t ∧ t.mem = s.mem ∧ (t.engine e).xfer = none
            ∧ t.tiles = s.tiles ++ [⟨e / 32, i.at_ 48 8, i.ofmt, i.writes ((s.engine e).slot i.slot).kind64, s.now⟩]
            ∧ t.reg R.CMP_ENG_REC0 e = w0))

/-- R102 to R107, R114: an instruction without a DONE action that meets no mark completes: the slot it names holds what its
arithmetic gives, memory holds the bytes it writes and no others change, the engine's record is its own, its lane is free.
R102, R106: what XTZERO, XTFILL and XTSPILL do to a slot. XTZERO leaves an initialised slot of its kind whose every element is
an empty one; XTSPILL leaves the slot and writes one cell array; XTFILL writes no memory. -/
def Obligations.EngineInstructionCompletes : Prop :=
  (∀ (s : State) (eng : BitVec 10) (xfer : Bool) (stall : Nat) (r : EngRun), s.mapsCanonical = true → s.quiet →
      mapWf engineDefault s.engines = true →
      let e := eng.toNat
      let en := s.engine e
      let i := r.ins
      let k := if i.op = .fill || i.op = .zero then i.kind64 else (en.slot i.slot).kind64
      let w := s.engWork i (en.slot i.slot)
      en.lane xfer = some r → r.handover = none → s.clockOn (e / 32) = true → i.done = 0 → i.srec = false → i.aborted = false →
      (∀ x ∈ i.reads k, s.poisonIn x.1 x.2 = none) → (∀ x ∈ i.writes k, s.poisonPart x.1 x.2 = none) →
      ∃ t, exec (.engineInstructionComplete eng xfer stall) s = .next t
        ∧ t.engine e = (if i.op = .cvt then en else en.setSlot i.slot w.1).setLane xfer none
        ∧ t.mem = (w.2.1.foldl (fun (s : State) p => s.homeWrite p.1 p.2) s).mem
        ∧ t.reg R.CMP_ENG_REC0 e = (recordOf i ST.OK { w.2.2 with cycles := engCycles i k } false stall).1
        ∧ t.reg R.CMP_ENG_REC1 e = (recordOf i ST.OK { w.2.2 with cycles := engCycles i k } false stall).2)
  ∧ (∀ (s : State) (i : EngInstr) (v : Slot),
      (i.op = .zero → (s.engWork i v).2.1 = [] ∧ (s.engWork i v).1.init = true ∧ (s.engWork i v).1.kind64 = i.kind64
          ∧ ((s.engWork i v).1.running = true ↔ (i.running = true ∧ i.canon = false))
          ∧ ∀ j, (s.engWork i v).1.cell j = ⟨0, 0⟩)
        ∧ (i.op = .spill → (s.engWork i v).1 = v
          ∧ ∃ bs, (s.engWork i v).2.1 = [(offOf i.cells, bs)] ∧ bs.length = cellArray v.kind64)
        ∧ (i.op = .fill → (s.engWork i v).2.1 = [] ∧ (s.engWork i v).1.init = true ∧ (s.engWork i v).1.kind64 = i.kind64
          ∧ (s.engWork i v).1.running = false))

/-- R117, R139: the head of a unit's queue starts when enough lanes are free and the lane limit allows: it takes the lowest
free lanes, one for each problem in order, and latches both pivot thresholds, as they stood before this tick's writes (R411);
with too few lanes nothing changes. R119: a heat whose problems are all done leaves its unit, is counted, and the context that
waits for it goes on with ST_OK. -/
def Obligations.HeatsStartAndComplete : Prop :=
  (∀ (s : State) (unit : BitVec 5) (h : Heat) (rest : List Heat), s.quiet → mapWf dsuDefault s.dsus = true →
      let u := unit.toNat
      let d := s.dsu u
      let free := (List.range 64).filter fun l => !d.busyLanes.contains l
      d.queue = h :: rest → s.clockOn u = true → s.dsuFenced u = false →
      (h.count ≤ free.length → d.busyLanes.length + h.count ≤ s.laneLimit →
        ∃ t, exec (.heatStart unit) s = .next t ∧ t.mem = s.mem ∧ t.regs = s.regs ∧ t.harts = s.harts
          ∧ (t.dsu u).queue = rest
          ∧ (t.dsu u).running = d.running ++ [⟨h, s.fldOld F.DSU_PIVOT_TAU.TAU64, s.fldOld F.DSU_PIVOT_TAU.TAU32,
              (free.take h.count).zipIdx, s.now⟩])
        ∧ ((free.length < h.count ∨ s.laneLimit < d.busyLanes.length + h.count) → exec (.heatStart unit) s = .next s))
  ∧ (∀ (s : State) (unit : BitVec 5) (r : HeatRun) (rd : Rg) (dl : Nat), s.mapsCanonical = true → s.quiet →
      mapWf dsuDefault s.dsus = true →
      let u := unit.toNat
      (s.dsu u).running = [r] → r.todo = [] → r.heat.done = false → s.clockOn u = true →
      (s.ctx r.heat.hart).wait = .dsu rd u r.heat.id dl →
      ∃ t, exec (.heatComplete unit) s = .next t ∧ t.mem = s.mem ∧ (t.dsu u).running = []
        ∧ t.ctx r.heat.hart = ((s.ctx r.heat.hart).setStatus rd ST.OK).wake
        ∧ t.fld F.DSU_STATS.HEATS_DONE u = Nat.min F.DSU_STATS.HEATS_DONE.top (s.fld F.DSU_STATS.HEATS_DONE u + 1))

/-- R118, R123 for FK, ID, FD, MASS and STEP: a lane that meets no mark reads its problem's descriptor, runs the problem whole
or, where its checks fail, refuses it, and is free; the heat stays with its other lanes. R123, R125: a refused problem writes
only a status record of ST_RANGE and counts itself; a problem of FK, ID, FD or MASS without a warm record writes only its
status record and outputs, and neither changes a byte outside its output record. -/
def Obligations.SolverProblemsRun : Prop :=
  (∀ (s : State) (unit : BitVec 5) (lane : BitVec 6) (stall i : Nat) (run : HeatRun), s.quiet →
      let u := unit.toNat
      let h := run.heat
      let a := h.probAt i
      let nb := s.peekNat a 1
      let hdr : Prob := ⟨h.op, s.peek a (64 + 192 * Nat.min 64 nb), run.tau64, run.tau32⟩
      let n := if 1 ≤ nb && nb ≤ 64 then Nat.min h.probStride hdr.len else 64
      let p : Prob := { hdr with desc := s.peek a n }
      let ok := p.ok h.probStride h.outStride h.workStride h.warmStride (h.warmIn || h.warmOut)
      (s.dsu u).running = [run] → (run.todo.find? fun e => e.1 == lane.toNat) = some (lane.toNat, i) → s.clockOn u = true →
      s.clean →
      let c (k : Nat) := match k with
        | 0 => Instr.fk unit lane stall | 1 => .id unit lane stall | 2 => .fd unit lane stall | 3 => .mass unit lane stall
        | _ => .step unit lane stall
      h.op ≤ 4 →
      exec (c h.op) s = .next ((if ok then (s.countLines a n false).problemRun u h p i stall
          else (s.countLines a n false).problemRefused u h p i stall).laneDone u h.id lane.toNat)
        ∧ ∀ k, k ≤ 4 → k ≠ h.op → exec (c k) s = .next s)
  ∧ (∀ (s : State) (u : Nat) (h : Heat) (p : Prob) (i stall : Nat), s.mapsCanonical = true → s.memCanonical = true →
      (∀ o n, n < 32 → place (h.outAt i + n) ≠ .hwin o) →
      (h.outStride ≠ 0 →
        (s.problemRefused u h p i stall).peekNat (h.outAt i) 8 = ST.RANGE.toNat * 2 ^ 48
          ∧ (∀ x, x < h.outAt i ∨ h.outAt i + 32 ≤ x → (s.problemRefused u h p i stall).byteAt x = s.byteAt x)
          ∧ (s.problemRefused u h p i stall).fld F.DSU_STATS.REFUSED u
              = Nat.min F.DSU_STATS.REFUSED.top (s.fld F.DSU_STATS.REFUSED u + 1))
        ∧ (p.op ≤ 3 → h.warmIn = false → h.warmOut = false →
          let sol := p.solve none
          let out := statusWords p sol p.signature none (p.cycles sol + stall)
            ++ (p.written sol).flatMap fun o => o.2.flatMap (leBytes 8)
          let t := s.problemRun u h p i stall
          t.peek (h.outAt i) 32 = statusWords p sol p.signature none (p.cycles sol + stall)
            ∧ ∀ x, x < h.outAt i ∨ h.outAt i + out.length ≤ x → t.byteAt x = s.byteAt x))

/-- R144, R146: NORM adds the square of every gradient it reads to its cell exactly, in an order that cannot matter, writes no
other byte, and has then done all it does. R145, R147: BEGIN for a lap after the old record's writes the step record its rules
give, and ends with ST_OK or, where the norm exceeds the limit, ST_NORM_SKIP and one more skipped step; for the same lap or an
earlier one it writes nothing, and an earlier one ends with ST_RANGE. -/
def Obligations.NormAndBeginCommandsWork : Prop :=
  (∀ (s : State) (unit : BitVec 4) (r : PuuRun), s.mapsCanonical = true → s.memCanonical = true → s.quiet → s.clean →
      mapWf puuDefault s.puus = true →
      let u := unit.toNat
      let c := r.cmd
      let fmt := if c.gfmt = 1 then fp32 else bf16
      let squares := (numbers c.gwidth c.count (s.peek (offOf c.g) (c.gwidth * c.count))).foldl (fun (a : Acc_) x =>
        a.add true (numMul (decodeFp fmt x) (decodeFp fmt x))) Acc_.empty
      (s.puu u).run = some r → c.op = 0 → r.finished = false → c.gpark = false → s.unitClock u = true →
      (∀ o n, n < 320 → place (offOf c.cell + n) ≠ .hwin o) →
      ∃ t, exec (.norm unit) s = .next t
        ∧ t.peek (offOf c.cell) 320 = ((ofCell true (s.peek (offOf c.cell) 320)).merge true squares).bytes true
        ∧ (∀ x, x < offOf c.cell ∨ offOf c.cell + 320 ≤ x → t.byteAt x = s.byteAt x)
        ∧ (t.puu u).run = some { r with status := ST.OK, finished := true })
  ∧ (∀ (s : State) (unit : BitVec 4) (r : PuuRun), s.mapsCanonical = true → s.memCanonical = true → s.quiet → s.clean →
      mapWf puuDefault s.puus = true →
      let u := unit.toNat
      let c := r.cmd
      let a := offOf c.record
      let o := beginRun c.desc (s.peek a 64) (s.peek (offOf c.cell) 320) (s.reg R.PUU_NORM_LIMIT).toNat
      (s.puu u).run = some r → c.op = 1 → r.finished = false → s.unitClock u = true →
      (∀ n, place a ≠ .hwin n) →
      ∃ t, exec (.begin unit) s = .next t
        ∧ (t.puu u).run = some { r with status := if o.1 = 0 then ST.OK else if o.1 = 1 then ST.NORM_SKIP else ST.RANGE, finished := true }
        ∧ t.mem = (match o.2 with
          | some bs => (s.homeWrite a bs).mem
          | none => s.mem)
        ∧ (o.1 = 1 → s.counted t F.PUU_STATS.SKIPPED_STEPS u)
        ∧ (fieldAt c.desc 24 8 < fieldAt (s.peek a 64) 0 8 → o = (2, none)))

/-- R152, R153, R155: one commit group of APPLY or REPAIR, on arrays outside the tiers with no export and no parked gradients.
A block whose tags both name the base lap has its new moments and its tag's first word written, and in the next group its
weights and the tag's second; REPAIR rolls a block forward that holds new moments beside old weights; a block with any other
tags is refused and no byte of it changes. -/
def Obligations.UpdateGroupsCommit : Prop :=
  ∀ (s : State) (unit : BitVec 4) (r : PuuRun), s.mapsCanonical = true → s.quiet → s.clean → mapWf puuDefault s.puus = true →
    let u := unit.toNat
    let c := r.cmd
    let j := r.block
    let k := scalars c.desc r.record
    let grads := gradients c.gfmt (c.blockLen j) (s.peek (offOf c.g + 16384 * c.gwidth * j) (c.gwidth * c.blockLen j))
    let tag := offOf c.tag + 16 * j
    let act := r.blockAct (s.peekNat tag 8) (s.peekNat (tag + 8) 8)
    let moments := s.momentGroup r k j grads
    let weights := (s.weightGroup r k j grads).1
    (s.puu u).run = some r → r.finished = false → r.replayed = true → s.unitClock u = true → (s.puu u).journal = none → r.parkFrom = none →
    c.gpark = false → c.export_ = 0 → j < c.blocks → c.inTier = false → bitOf (fieldAt r.record 56 8) 0 = false →
    (c.op = 2 → r.half = false → act = .update → c.kind ≠ 3 → ∃ t, exec (.apply unit 1) s = .next t
        ∧ t.mem = (s.homeWrites (moments.1 ++ [moments.2])).mem ∧ (t.puu u).run = some { r with half := true })
      ∧ (c.op = 2 → r.half = true → ∃ t, exec (.apply unit 1) s = .next t
        ∧ t.mem = (s.homeWrites (weights.1 ++ [weights.2])).mem
        ∧ (t.puu u).run = some { r with block := j + 1, half := false, updated := r.updated + 1 })
      ∧ (c.op = 3 → r.half = false → act = .roll → ∃ t, exec (.repair unit 1) s = .next t
        ∧ t.mem = (s.homeWrites (weights.1 ++ [weights.2])).mem
        ∧ (t.puu u).run = some { r with block := j + 1, rolled := r.rolled + 1, rolledParams := r.rolledParams + c.blockLen j })
      ∧ (c.op = 2 → r.half = false → act = .refused → ∃ t, exec (.apply unit 1) s = .next t ∧ t.mem = s.mem
        ∧ s.counted t F.PUU_STATS.BLOCKS_REFUSED u
        ∧ (t.puu u).run = some { r with block := j + 1, refused := r.refused + 1, first := Nat.min r.first j })

/-- R144: a command that has done all it does and has no DONE action leaves its unit: its result record, where it has one, is
in memory with its status; it is counted, and the context that waits for it goes on with that status. R161: PUU_COMMIT.GO
checks the staged parking pair of the selected unit. A good pair is taken at once by an idle unit with an empty ring, and by a
busy one when PUU_PENDING_COMMIT_TAKEN finds it idle; a bad one changes nothing but COMMIT_ST and the count of refused commits.
-/
def Obligations.UpdateCommandsEndAndParkingPair : Prop :=
  (∀ (s : State) (unit : BitVec 4) (stall parkWait n : Nat) (r : PuuRun) (rd : Rg) (dl : Nat), s.mapsCanonical = true → s.quiet →
      s.clean → mapWf puuDefault s.puus = true →
      let u := unit.toNat
      let c := r.cmd
      (s.puu u).run = some r → r.finished = true → c.aborted = false → c.done = false → s.unitClock u = true →
      s.puuNoArea u c = false → r.cycles = some n → (s.ctx c.hart).wait = .puu rd u c.id dl →
      ∃ t, exec (.puuCommandComplete unit stall parkWait) s = .next t
        ∧ (t.puu u).run = none ∧ s.counted t F.PUU_STATS.CMDS_DONE u
        ∧ (t.ctx c.hart).st = .ready ∧ (t.ctx c.hart).pc = (s.ctx c.hart).pc + 4
        ∧ (rd ≠ 0 → mapWf zero64 (s.ctx c.hart).x = true → (t.ctx c.hart).xr rd = BitVec.ofNat 64 r.status.toNat)
        ∧ t.mem = (if c.result = 0 then s.mem
            else (s.homeWrite (offOf c.result) (r.result r.status (n + (stall + parkWait)) parkWait)).mem))
  ∧ ((∀ (s : State) (src : Source), s.mapsCanonical = true → s.quiet → s.opens R.PUU_COMMIT → mapWf puuDefault s.puus = true →
      let u := s.selv F.PUU_SEL.UNIT
      let base := s.stgOld R.PUU_PARK_BASE u
      let slots := s.stgOld R.PUU_PARK_SLOTS u
      let n := wordGet slots 12 0
      let good := (n = 0 ∨ (4 ≤ n ∧ n ≤ 4096)) ∧ (wordGet base 36 16 + n) * 65536 ≤ 0x1800000000
      (s.puu u).commit = none →
      ∃ t, exec (.puuCommit src 1) s = .next t ∧ t.mem = s.mem
        ∧ (good → s.puuBusy u = false → t.reg R.PUU_PARK_BASE u = base ∧ t.reg R.PUU_PARK_SLOTS u = slots
            ∧ t.fld F.PUU_STATE.COMMIT_ST u = 0)
        ∧ (good → s.puuBusy u = true → (t.puu u).commit = some (base, slots) ∧ t.fld F.PUU_STATE.COMMIT_ST u = 2
            ∧ t.reg R.PUU_PARK_BASE u = s.reg R.PUU_PARK_BASE u)
        ∧ (¬ good → t.fld F.PUU_STATE.COMMIT_ST u = 1 ∧ s.counted t F.ERR_STATS.REFUSED_COMMITS ∧ t.puus = s.puus
            ∧ t.reg R.PUU_PARK_BASE u = s.reg R.PUU_PARK_BASE u))
    ∧ (∀ (s : State) (unit : BitVec 4) (base slots : Word64), s.mapsCanonical = true → s.quiet →
      mapWf puuDefault s.puus = true →
      let u := unit.toNat
      (s.puu u).commit = some (base, slots) → s.puuBusy u = false →
      ∃ t, exec (.puuPendingCommitTaken unit) s = .next t ∧ t.mem = s.mem ∧ (t.puu u).commit = none
        ∧ t.reg R.PUU_PARK_BASE u = base ∧ t.reg R.PUU_PARK_SLOTS u = slots ∧ t.fld F.PUU_STATE.COMMIT_ST u = 0))

/-! ### Memory and tiers: chapter 07 -/

/-- R166, R167, R169, R175, R183, R302. A block of a stack whose CRC-32C over command, address and data is right is no longer
kept; one that fails is sent again and counted, and after three re-sends its channel retrains. A retrain counts itself; the
access of a block that then fails once more ends as an uncorrectable line (here one that nobody reads). A corrected row, tier
unit or SRAM word counts in its counter; a corrected row that reaches the limit is copied while its bank has a spare row of its
four left, and else sets SPARE_EXHAUSTED. ROW_SPARE_COMPLETE ends a copy: the row is spared, logged and counted. No byte of
memory changes. -/
def Obligations.CorrectedErrorsAndRowSparing : Prop :=
  ∀ (s : State), s.mapsCanonical = true → s.quiet → s.heldWrites = [] → s.splQueue = [] →
    (∀ (addr : BitVec 48) (command : Byte) (data : List Byte) (crc : Word32) (k off : Nat),
        let a := addr.toNat / 64 * 64
        let others := s.blocks.filter fun b => b.addr != a
        let n := ((s.blocks.find? fun b => b.addr == a).map (·.failed)).getD 0
        place a = .stack k off → (∀ b ∈ s.blocks, b.addr = a → b.retraining = false) →
        (crc32c (blockBytes command a data) = crc.toNat →
          exec (.stackCrcResend ⟨addr, command, data, crc⟩) s = .next { s with blocks := others })
        ∧ (crc32c (blockBytes command a data) ≠ crc.toNat → n < 3 → exec (.stackCrcResend ⟨addr, command, data, crc⟩) s
            = .next (({ s with blocks := others ++ [⟨a, n + 1, false⟩] } : State).count F.MEM_ERR_STATS.CRC_RESENDS k))
        ∧ (crc32c (blockBytes command a data) ≠ crc.toNat → 3 ≤ n →
            exec (.stackCrcResend ⟨addr, command, data, crc⟩) s = .next { s with blocks := others ++ [⟨a, n + 1, true⟩] }))
      ∧ (∀ (k : BitVec 4) (ok : Bool) (addr : BitVec 48) (off : Nat) (b : Block),
          let a := addr.toNat / 64 * 64
          place a = .stack k.toNat off → (s.blocks.find? fun b => b.addr == a && b.retraining) = some b → s.localEntry = none →
          ∃ t, exec (.stackChannelRetrain k ok addr .scrub) s = .next t ∧ t.mem = s.mem
            ∧ t.blocks = s.blocks.filter (fun b => b.addr != a) ∧ s.counted t F.MEM_ERR_STATS.RETRAINS k.toNat
            ∧ (ok = true → t.poisoned = s.poisoned)
            ∧ (ok = false → t.poisoned = setInsert a s.poisoned ∧ s.counted t F.MEM_ERR_STATS.UNCORRECTED k.toNat
                ∧ s.logged t { cause := .memUe, cls := 2, addr := some (s.global a), status := 0 }))
      ∧ (∀ row, mapWf (fun _ => 0) s.rowErrors = true →
          let n := mapGet (fun _ => 0) (rowKey row) s.rowErrors + 1
          let inBank (q : Nat) : Bool := bankOf q == bankOf (rowKey row)
          let used := (s.spared.filter inBank).length + (s.sparing.filter fun q => inBank (rowKey q)).length
          let due : Prop := s.fldOld F.MEM_ROW_CE_LIMIT.LIMIT ≤ n ∧ row ∉ s.sparing
          ∃ t, exec (.patrolScrub (.row row)) s = .next t ∧ t.mem = s.mem
            ∧ s.counted t F.MEM_ERR_STATS.CORRECTED row.stack.toNat
            ∧ mapGet (fun _ => 0) (rowKey row) t.rowErrors = n
            ∧ (due → used < 4 → t.sparing = s.sparing ++ [row])
            ∧ (due → 4 ≤ used → t.sparing = s.sparing ∧ t.fld F.MEM_STATE.SPARE_EXHAUSTED row.stack.toNat = 1)
            ∧ (¬ due → t.sparing = s.sparing))
      ∧ (∀ u, s.flag F.TIER_INFO.PRESENT u.toNat = true →
          exec (.patrolScrub (.tier u)) s = .next (s.count F.TIER_STATS.CORRECTED u.toNat))
      ∧ exec (.patrolScrub .sram) s = .next (s.count F.ERR_STATS.SRAM_CORRECTED)
      ∧ (∀ row, s.sparing.contains row = true →
          ∃ t, exec (.rowSpareComplete row) s = .next t ∧ t.mem = s.mem ∧ t.sparing = s.sparing.filter (· != row)
            ∧ t.spared = s.spared ++ [rowKey row] ∧ s.counted t F.MEM_ERR_STATS.ROWS_SPARED row.stack.toNat
            ∧ t.fld F.MEM_ROW_LOG.VALID row.stack.toNat = 1)

/-- R168, R169, R301, R302: a line of a stack that the scrub finds uncorrectable is marked and its report logged as MEM_UE of
class JOB with its address; with no LOCAL tag nothing is poisoned, and its bytes stay. The far tier's link going down takes the
unit's window (R177): an access in flight aborts its context, with a TIER_UE record of its address. Zeroing done sets INIT_DONE
and the whole capacity as zeroed (R179). Once 65,536 ticks have passed since a group's last update, each of its UTIL fields
reads the bytes its unit moved since over its peak, in 1/256 steps, at most 255; before that nothing changes (R181). R170 to
R172, R380, Table 07-4: a sample with a reading makes the hottest reading the stack's temperature and moves its thermal state
by the thresholds in force; a CRITICAL stack stops its pair's clocks; three samples without a reading give SENSOR_FAIL. -/
def Obligations.StackHeatMarksAndTierEvents : Prop :=
  (∀ (s : State), s.mapsCanonical = true → s.quiet →
      (∀ (addr : BitVec 48) (k off : Nat), place addr.toNat = .stack k off → s.localEntry = none →
        ∃ t, exec (.memUe addr .scrub) s = .next t ∧ t.mem = s.mem
          ∧ t.poisoned = setInsert (addr.toNat / 64 * 64) s.poisoned
          ∧ s.counted t F.MEM_ERR_STATS.UNCORRECTED k
          ∧ s.logged t { cause := .memUe, cls := 2, addr := some (s.global addr.toNat), status := 0 })
        ∧ (∀ port : BitVec 1, s.flag F.TIER_INFO.PRESENT (8 + port.toNat) = true →
          ∃ t, exec (.farTierLinkDown port []) s = .next t ∧ t.mem = s.mem ∧ t.flag F.TIER_INFO.PRESENT (8 + port.toNat) = false
            ∧ t.fld F.TIER_INFO.FAIL (8 + port.toNat) = 5 ∧ t.tierBytes (8 + port.toNat) = 0)
        ∧ (∀ (port : BitVec 1) (addr : BitVec 48) (h : Hart) (off : Nat), s.flag F.TIER_INFO.PRESENT (8 + port.toNat) = true →
          place addr.toNat = .far port.toNat off → (s.ctx (hartKey h)).st = .parked → s.localEntry = none → s.engines = [] →
          ∃ t, exec (.farTierLinkDown port [(addr, .hart h)]) s = .next t ∧ t.mem = s.mem
            ∧ (t.ctx (hartKey h)).st = .aborted ∧ t.tierBytes (8 + port.toNat) = 0
            ∧ s.logged t { cause := .tierUe, cls := 2, hart := some (hartKey h), addr := some (s.global addr.toNat),
                           status := ST.ABORTED })
        ∧ (∀ (unit : BitVec 4) (t0 : Nat), assocGet unit.toNat s.zeroing = some t0 → s.flag F.TIER_INFO.PRESENT unit.toNat = true →
          ∃ t, exec (.tierZeroingDone unit) s = .next t ∧ t.mem = s.mem
            ∧ t.zeroing = s.zeroing.filter (fun e => e.1 != unit.toNat)
            ∧ t.fld F.TIER_INIT.ZEROED_MIB unit.toNat = s.fld F.TIER_INFO.CAPACITY unit.toNat * 1024
            ∧ t.tierBytes unit.toNat = s.fld F.TIER_INFO.CAPACITY unit.toNat * 2 ^ 30)
        ∧ (∀ g : UtilGroup,
          let n := s.pwr.ticks - s.traffic.since g
          let used (m : Mover) (peak : Nat) : Nat :=
            Nat.min 255 (mapGet (fun _ => 0) m.key s.traffic.moved * 1000 * 256 / (n * peak))
          (n < 65536 → exec (.utilUpdate g) s = .next s)
            ∧ (65536 ≤ n → ∃ t, exec (.utilUpdate g) s = .next t ∧ t.mem = s.mem ∧ t.traffic = s.traffic.restart g s.pwr.ticks
              ∧ (g = .stack → ∀ k, k < 16 → t.fld F.MEM_STATE.UTIL k = used (.stack k) 2400000)
              ∧ (g = .link → ∀ p, p < 32 →
                  t.fld F.LNK_PORT_STATE.UTIL_TX p = used (.tx p) (if s.isGen1 p then 43750 else 93750)
                    ∧ t.fld F.LNK_PORT_STATE.UTIL_RX p = used (.rx p) (if s.isGen1 p then 43750 else 93750))
              ∧ (g = .tier → (∀ u, u < 8 → 0 < s.tierRate u → t.fld F.TIER_STATS.UTIL u = used (.tier u) (s.tierRate u))
                  ∧ (∀ u, 8 ≤ u → u < 10 → 0 < s.tierRate u →
                      t.fld F.TIER_STATS.UTIL u = used (.tier u) (2 * s.tierRate u))))))
  ∧ (∀ (s : State) (stack : BitVec 4) (readings : List (Option (BitVec 10))), s.mapsCanonical = true → s.quiet →
      s.powered = true →
      let k := stack.toNat
      let vals := (List.zip [0, 1, 2, 3] readings).filterMap fun r => r.2.map fun v => s.trimmed 1 (36 + 4 * k + r.1) v.toNat
      let hot := 4 * s.fldOld F.MEM_THERM.HOT
      let crit := 4 * s.fldOld F.MEM_THERM.CRIT
      let temp := maxOf vals
      let was := s.fld F.MEM_STATE.THERM k
      ∃ t, exec (.stackThermalSample stack readings) s = .next t ∧ t.mem = s.mem
        ∧ (vals ≠ [] → (temp < 1024 → t.fld F.MEM_STATE.TEMP k = temp) ∧ t.fld F.MEM_STATE.THERM k = thermState was temp hot crit
            ∧ (crit ≤ temp → t.fld F.MEM_STATE.THERM k = 2 ∧ t.pairStopped k = true)
            ∧ (temp < hot → temp + 12 < hot → temp < crit → was ≠ 2 → t.fld F.MEM_STATE.THERM k = 0))
        ∧ (vals = [] → 2 ≤ mapGet (fun _ => 0) k s.pwr.thermMiss → t.fld F.MEM_STATE.THERM k = 3 ∧ t.pairStopped k = true))

/-! ### Commits and registers: R9 to R12, R309 to R311 -/

/-- R184: at MEM_COMMIT the device checks that HOT is 50 to 100, CRIT is 60 to 105 and HOT + 5 is at most CRIT; on failure it
refuses the whole commit, sets REFUSED and keeps the active thresholds, and a successful commit takes them and clears REFUSED.
-/
def Obligations.ThermalThresholdsAreChecked : Prop :=
  ∀ (s : State) (src : Source), s.mapsCanonical = true → s.quiet → s.opens R.MEM_COMMIT →
    let w := s.stgOld R.MEM_THERM
    let hot := wordGet w 15 8
    let crit := wordGet w 23 16
    let good := 50 ≤ hot ∧ hot ≤ 100 ∧ 60 ≤ crit ∧ crit ≤ 105 ∧ hot + 5 ≤ crit
    ∃ t, exec (.memCommit src 1) s = .next t ∧ t.mem = s.mem
      ∧ (good → t.fld F.MEM_THERM.HOT = hot ∧ t.fld F.MEM_THERM.CRIT = crit ∧ t.fld F.MEM_COMMIT.REFUSED = 0)
      ∧ (¬ good → t.reg R.MEM_THERM = s.reg R.MEM_THERM ∧ t.fld F.MEM_COMMIT.REFUSED = 1
          ∧ s.counted t F.ERR_STATS.REFUSED_COMMITS)

/-- R236, R355, R380, R384: the other commits. Each takes its staged values when its check passes, and otherwise keeps the
active ones, sets its REFUSED (LNK_COMMIT: its STATUS) and counts a refused commit. -/
def Obligations.CommitsTakeOrKeep : Prop :=
  ∀ (s : State) (src : Source), s.mapsCanonical = true → s.quiet →
    (s.opens R.HIF_COMMIT →
      let b := s.stgOld R.HIF_HWIN_BASE
      let z := s.stgOld R.HIF_HWIN_SIZE
      let good := wordGet z 51 21 * 2 ^ 21 ≤ 2 ^ 44 ∧ wordGet b 51 21 * 2 ^ 21 + wordGet z 51 21 * 2 ^ 21 ≤ 2 ^ 52
      ∃ t, exec (.hifCommit src 1) s = .next t ∧ t.mem = s.mem
        ∧ (good → t.reg R.HIF_HWIN_BASE = b ∧ t.reg R.HIF_HWIN_SIZE = z ∧ t.fld F.HIF_COMMIT.REFUSED = 0)
        ∧ (¬ good → t.reg R.HIF_HWIN_BASE = s.reg R.HIF_HWIN_BASE ∧ t.reg R.HIF_HWIN_SIZE = s.reg R.HIF_HWIN_SIZE
            ∧ t.fld F.HIF_COMMIT.REFUSED = 1 ∧ s.counted t F.ERR_STATS.REFUSED_COMMITS))
      ∧ (s.opens R.PWR_COMMIT →
        let w := s.stgOld R.PWR_TJ
        let stop := wordGet w 23 16
        let pace := wordGet w 15 8
        let good := 80 ≤ pace ∧ pace ≤ 110 ∧ 90 ≤ stop ∧ stop ≤ 120 ∧ pace + 5 ≤ stop
        ∃ t, exec (.pwrCommit src 1) s = .next t ∧ t.mem = s.mem
          ∧ (good → t.reg R.PWR_TJ = w ∧ t.fld F.PWR_COMMIT.REFUSED = 0)
          ∧ (¬ good → t.reg R.PWR_TJ = s.reg R.PWR_TJ ∧ t.fld F.PWR_COMMIT.REFUSED = 1
              ∧ s.counted t F.ERR_STATS.REFUSED_COMMITS))
      ∧ (s.opens R.MGT_TEL_COMMIT →
        let b := s.stgOld R.MGT_TEL_BASE
        let n := wordGet (s.stgOld R.MGT_TEL_CFG) F.MGT_TEL_CFG.ENTRIES.hi F.MGT_TEL_CFG.ENTRIES.lo
        let good := b.toNat % 256 = 0 ∧ s.isSelf b.toNat = true ∧ s.telPlace (offOf b.toNat) (256 * n) = true
        ∃ t, exec (.mgtTelCommit src 1) s = .next t ∧ t.mem = s.mem
          ∧ (good → t.reg R.MGT_TEL_BASE = b ∧ t.fld F.MGT_TEL_CFG.ENTRIES = n ∧ t.fld F.MGT_TEL_COMMIT.REFUSED = 0)
          ∧ (¬ good → t.reg R.MGT_TEL_BASE = s.reg R.MGT_TEL_BASE ∧ t.fld F.MGT_TEL_COMMIT.REFUSED = 1
              ∧ s.counted t F.ERR_STATS.REFUSED_COMMITS))
      ∧ (s.opens R.LNK_COMMIT → s.tagChecks ≠ ST.OK →
        ∃ t, exec (.lnkCommit src 1) s = .next t ∧ t.mem = s.mem ∧ t.fld F.LNK_COMMIT.STATUS = s.tagChecks.toNat
          ∧ s.counted t F.ERR_STATS.REFUSED_COMMITS ∧ t.self = s.self
          ∧ ∀ i, i < 64 → t.reg R.LNK_TAG_ENTRY i = s.reg R.LNK_TAG_ENTRY i)
      ∧ (s.opens R.LNK_COMMIT → s.tagChecks = ST.OK → s.self ≠ 0xFFFF →
        wordGet (s.stgOld R.LNK_ID) 13 6 * 64 + wordGet (s.stgOld R.LNK_ID) 5 2 * 4 + s.fld F.LNK_ID.POSITION = s.self →
        ∃ t, exec (.lnkCommit src 1) s = .next t ∧ t.mem = s.mem ∧ t.fld F.LNK_COMMIT.STATUS = ST.OK.toNat
          ∧ ∀ i, i < 64 → (s.stgTag i).1 = 1 → t.fld F.LNK_TAG_ENTRY.STATE i = 1
              ∧ t.fld F.LNK_TAG_ENTRY.TAG i = (s.stgTag i).2.2.1 ∧ t.fld F.LNK_TAG_PORTS.PORTS i = (s.stgTag i).2.2.2)

/-- R356, R328: a write of HIF_BIAS_CMD with GO is refused when COUNT is 0, when FIRST + COUNT exceeds 786,432 or while
BIAS_STATE.BUSY reads 1, and nothing but the refusal's record changes. -/
def Obligations.BadBiasCommandRefused : Prop :=
  ∀ (s : State) (src : Source) (value : Word64), s.quiet → s.opens R.HIF_BIAS_CMD → wordGet value 63 63 = 1 →
    (wordGet value 19 0 = 0 ∨ 786432 < wordGet value 51 32 + wordGet value 19 0 ∨ s.flag F.HIF_BIAS_STATE.BUSY = true) →
    exec (.biasFlip src value) s = .next (s.refuse src 0 R.HIF_BIAS_CMD value)

/-- What a GO bit starts (R204, R216, R266, R276, R328, R332, R346, R376, R385) when its write passes. -/
def Obligations.GoBitsStartTheirWork : Prop :=
  ∀ (s : State) (src : Source), s.mapsCanonical = true → s.quiet →
    (∀ value : Word64, s.opens R.HIF_BIAS_CMD → wordGet value 63 63 = 1 → wordGet value 19 0 ≠ 0 →
      wordGet value 51 32 + wordGet value 19 0 ≤ 786432 → s.flag F.HIF_BIAS_STATE.BUSY = false →
      ∃ t, exec (.biasFlip src value) s = .next t ∧ t.mem = s.mem
        ∧ (wordGet value 62 62 = 1 → t.flag F.HIF_BIAS_STATE.BUSY = true
            ∧ t.host.flip = some (wordGet value 51 32, wordGet value 19 0) ∧ t.host.hostBias = s.host.hostBias)
        ∧ (wordGet value 62 62 = 0 → ∀ g, g ∈ t.host.hostBias ↔
            (g ∈ s.host.hostBias ∨ (wordGet value 51 32 ≤ g ∧ g < wordGet value 51 32 + wordGet value 19 0))))
      ∧ (∀ first n, s.host.flip = some (first, n) →
        ∃ t, exec .biasFlipDone s = .next t ∧ t.mem = s.mem ∧ t.host.flip = none ∧ t.flag F.HIF_BIAS_STATE.BUSY = false
          ∧ ∀ g, g ∈ t.host.hostBias ↔ (g ∈ s.host.hostBias ∧ ¬ (first ≤ g ∧ g < first + n)))
      ∧ (∀ n, s.opens R.HIF_BOOT_CTL → s.phase = 2 → 1 ≤ n → n ≤ 2 ^ 28 →
        ∃ t, exec (.bootGo src (BitVec.ofNat 64 (2 ^ 63 + n))) s = .next t ∧ t.mem = s.mem ∧ t.phase = 3
          ∧ t.fld F.HIF_BOOT_CTL.LENGTH = n)
      ∧ (s.opens R.TIM_LAUNCH_CTL → s.pendingLaunch = none → exec (.launchCancel src 1) s = .next s)
      ∧ (∀ value : Word64, s.opens R.TIM_CFG → ∃ t, exec (.timCfgWrite src value) s = .next t ∧ t.mem = s.mem
        ∧ t.sync = { s.sync with changed := true } ∧ t.fld F.TIM_CFG.SYNC_OUT_EN = wordGet value 7 7)
      ∧ (∀ value : Word64, s.opens R.HIF_MBOX_ADDR → ∃ t, exec (.mboxAddrWrite src value) s = .next t ∧ t.mem = s.mem
        ∧ t.host = { s.host with mboxHeld := none } ∧ t.flag F.HIF_MBOX_ADDR.ENABLE = (wordGet value F.HIF_MBOX_ADDR.ENABLE.hi F.HIF_MBOX_ADDR.ENABLE.lo == 1))
      ∧ (∀ delay, s.opens R.PWR_REST → 1000 ≤ delay → delay < 2 ^ 40 →
        ∃ t, exec (.forceAwake src (BitVec.ofNat 64 (2 ^ 40 + delay))) s = .next t ∧ t.mem = s.mem
          ∧ ∀ c, c < 32 → t.resting c = false)
      ∧ (∀ value : Word64, s.opens R.MGT_WDOG → src = .mgmt → wordGet value 63 63 = 1 →
        1000000 ≤ wordGet value F.MGT_WDOG.PERIOD.hi F.MGT_WDOG.PERIOD.lo →
        ∃ t, exec (.watchdogKick src value) s = .next t ∧ t.mem = s.mem ∧ t.mgt = { s.mgt with kickAt := s.pwr.ticks })

/-- R9 to R12, R308, R310, R316, R411, for nine registers of RW fields alone, open: a 64-bit write in range stores its fields
and changes no other register, an aligned 32-bit write in range does so in its half alone, a write out of range changes nothing
but the refusal's record (R308), and a read sends their word and changes nothing. An access of another size or alignment is
refused with KIND 1 and sends zero, a write to a closed COL_CFG with KIND 5. A write of MEM_THERM in range changes its staged
thresholds alone, which a commit of the same tick does not yet see. DSU_SEL keeps its old effect in the tick of its write and
selects the new unit from the next. A read of HIF_STATS sends its word and leaves in its RC counters what hardware added in the
tick of the read (the model's choice, log entry 53). -/
def Obligations.RegisterAccesses : Prop :=
  ∀ (s : State) (src : Source) (value : Word64), s.mapsCanonical = true → s.quiet →
    (∀ (off : Word32) d, off.toNat ∈ [R.DSU_PIVOT_TAU, R.PUU_NORM_LIMIT, R.MEM_ROW_CE_LIMIT, R.COL_CFG, R.TIM_LEAD, R.TIM_ASYM,
        R.PWR_LIMIT, R.HIF_MBOX_POLL, R.HIF_CACHE_TIMEOUT] → s.opens off.toNat → regDesc off.toNat = some d →
        let old := s.reg off.toNat
        let put (m v : Word64) : Word64 := (old &&& ~~~(d.mask .rw &&& m)) ||| (v &&& (d.mask .rw &&& m))
        (s.outOfRange src off.toNat (value &&& d.defined) = false →
          ∃ t, exec (.registerWrite src off 8 value) s = .next t ∧ t.mem = s.mem ∧ t.hostMem = s.hostMem ∧ t.harts = s.harts
            ∧ t.reg off.toNat = put (BitVec.allOnes 64) value ∧ ∀ o u, keyOf o u ≠ off.toNat → t.reg o u = s.reg o u)
        ∧ (s.outOfRange src off.toNat (value &&& d.defined) = true →
          exec (.registerWrite src off 8 value) s = .next (s.refuse src 0 off.toNat value))
        ∧ (∀ hi : BitVec 1,
          let m : Word64 := BitVec.ofNat 64 ((2 ^ 32 - 1) * 2 ^ (32 * hi.toNat))
          let v : Word64 := BitVec.ofNat 64 (value.toNat % 2 ^ 32 * 2 ^ (32 * hi.toNat))
          s.outOfRange src off.toNat (((old &&& d.mask .rw &&& ~~~m) ||| (v &&& m)) &&& d.defined) = false →
          ∃ t, exec (.registerWrite src (off + BitVec.ofNat 32 (4 * hi.toNat)) 4 value) s = .next t ∧ t.mem = s.mem
            ∧ t.hostMem = s.hostMem ∧ t.harts = s.harts
            ∧ t.reg off.toNat = put m v ∧ ∀ o u, keyOf o u ≠ off.toNat → t.reg o u = s.reg o u)
        ∧ exec (.registerRead src off 8) s = .next (s.emit (.readData src (old &&& d.defined))))
      ∧ (∀ (off : Word32) (size : Nat), s.dark = false → off.toNat < 0x10000000 → ((size ≠ 4 ∧ size ≠ 8) ∨ off.toNat % size ≠ 0) →
        exec (.registerWrite src off size value) s
            = .next (s.refuse src 1 off.toNat (if size = 4 then BitVec.ofNat 64 (value.toNat % 2 ^ 32) else value))
          ∧ exec (.registerRead src off size) s = .next ((s.refuse src 1 off.toNat 0).emit (.readData src 0)))
      ∧ (s.dark = false → s.regClosed R.COL_CFG = true →
        exec (.registerWrite src (BitVec.ofNat 32 R.COL_CFG) 8 value) s = .next (s.refuse src 5 R.COL_CFG value))
      ∧ (s.opens R.MEM_THERM → 50 ≤ wordGet value 15 8 → wordGet value 15 8 ≤ 100 → 60 ≤ wordGet value 23 16 →
        wordGet value 23 16 ≤ 105 →
        ∃ t, exec (.registerWrite src (BitVec.ofNat 32 R.MEM_THERM) 8 value) s = .next t
        ∧ t.mem = s.mem ∧ t.regs = s.regs ∧ wordGet (t.stg R.MEM_THERM) 15 8 = wordGet value 15 8
        ∧ wordGet (t.stg R.MEM_THERM) 23 16 = wordGet value 23 16 ∧ t.stgOld R.MEM_THERM = s.stgOld R.MEM_THERM
        ∧ ∀ o u, keyOf o u ≠ R.MEM_THERM → t.stg o u = s.stg o u)
      ∧ (s.opens R.DSU_SEL → ∃ t, exec (.registerWrite src (BitVec.ofNat 32 R.DSU_SEL) 8 value) s = .next t ∧ t.mem = s.mem
        ∧ t.selv F.DSU_SEL.UNIT = s.selv F.DSU_SEL.UNIT ∧ t.oneTick.selv F.DSU_SEL.UNIT = wordGet value 4 0)
      ∧ (s.opens R.HIF_STATS → ∃ t, exec (.registerRead src (BitVec.ofNat 32 R.HIF_STATS) 8) s = .next t ∧ t.mem = s.mem
        ∧ t.outbox = s.outbox ++ [.readData src (s.reg R.HIF_STATS)] ∧ t.reg R.HIF_STATS = s.hwWord R.HIF_STATS 0
        ∧ ∀ o u, keyOf o u ≠ R.HIF_STATS → t.reg o u = s.reg o u)

/-! ### The global memory at its home: chapter 08 -/

/-- R186 to R190, R197: a request that its home can perform, in a package that is READY. LOAD and GET answer with the bytes and
change none; STORE and PUT write exactly the bytes they carry; AMO, CAS and FADD answer with what stood there (FADD with a
plain acknowledge) and write their result, CAS only where the expected value stood. R186, R197, R203, R208, in a package where
no request waits and no region changes: a request is refused with ST_NOT_READY before READY, with ST_RANGE where Table 08-1
does not reach and with ST_REFUSED_OWNER, counted and logged, where its region's state does not allow it; memory stays. A
HAND_REQ of the owner of an OWNED region begins its change, which a tick that finds its 20 ticks passed makes and counts, and
no other region's state; of anyone else it is refused (R201, R202). -/
def Obligations.HomeRequestsAtTheirHome : Prop :=
  (∀ (s : State) (port : BitVec 5) (pk : Packet), s.mapsCanonical = true → s.quiet → s.clean → s.bootReady = true →
      s.delivers port pk → s.heldWrites = [] → s.changes = [] → s.clearing = none →
      let a := offOf pk.word.toNat
      let n := sizeOf_ pk.sub
      let old (n : Nat) := s.peek a n
      let half := pk.data.length / 2
      s.remoteReach a (requestOp pk).1 = true → s.regionsAllow a (requestOp pk).1 pk.src.toNat = true → a ≤ 0x0C0040000000 - 4096 →
      (pk.type = PT.LOAD → exec (.loadReq port pk) s = .next ((s.countLines a n false).reply pk ST.OK (old n)))
        ∧ (pk.type = PT.GET →
          exec (.getReq port pk) s = .next ((s.countLines a (ofLe pk.data) false).reply pk ST.OK (old (ofLe pk.data))))
        ∧ (pk.type = PT.STORE → pk.data.length ≤ 4096 →
          ∃ t, exec (.storeReq port pk) s = .next t ∧ t.mem = memPut s.mem a pk.data)
        ∧ (pk.type = PT.PUT → pk.data.length ≤ 4096 →
          ∃ t, exec (.putReq port pk) s = .next t ∧ t.mem = memPut s.mem a pk.data)
        ∧ (pk.type = PT.AMO → ∀ k, (requestOp pk).1 = .amo k 8 (ofLe pk.data) →
          exec (.amoReq port pk) s = .next (((s.countLines a 8 false).writeBytes a
            (leBytes 8 (amoResult k 8 (ofLe (old 8)) (ofLe pk.data)))).reply pk ST.OK (old 8)))
        ∧ (pk.type = PT.CAS →
          (ofLe (old half) = ofLe (pk.data.take half) % 2 ^ (8 * half) →
            exec (.casReq port pk) s = .next (((s.countLines a half false).writeBytes a
              (leBytes half (ofLe (pk.data.drop half)))).reply pk ST.OK (old half)))
          ∧ (ofLe (old half) ≠ ofLe (pk.data.take half) % 2 ^ (8 * half) →
            exec (.casReq port pk) s = .next ((s.countLines a half false).reply pk ST.OK (old half))))
        ∧ (pk.type = PT.FADD →
          exec (.faddReq port pk) s = .next (((s.countLines a 320 false).writeBytes a (((ofCell true (old 320)).add true
            (decodeFp fp64 (BitVec.ofNat 64 (ofLe pk.data)).toNat)).bytes true)).reply pk ST.OK (old 320))))
  ∧ ((∀ (s : State) (port : BitVec 5) (pk : Packet), s.mapsCanonical = true → s.quiet → s.resetting = none → s.delivers port pk →
      s.heldWrites = [] → s.changes = [] → s.clearing = none →
      let a := offOf pk.word.toNat
      (∀ c ty, (c, ty) ∈ [(Instr.loadReq port pk, PT.LOAD), (.storeReq port pk, PT.STORE), (.putReq port pk, PT.PUT),
          (.getReq port pk, PT.GET), (.amoReq port pk, PT.AMO), (.casReq port pk, PT.CAS), (.faddReq port pk, PT.FADD)] →
        pk.type = ty →
        (s.bootReady = false → exec c s = .next (s.reply pk ST.NOT_READY []))
          ∧ (s.bootReady = true → s.remoteReach a (requestOp pk).1 = false → exec c s = .next (s.reply pk ST.RANGE []))
          ∧ (s.bootReady = true → s.remoteReach a (requestOp pk).1 = true →
            s.regionsAllow a (requestOp pk).1 pk.src.toNat = false →
            ∃ t, exec c s = .next t ∧ t.mem = s.mem ∧ s.counted t F.FAB_STATS.REFUSED_OWNER
              ∧ t.flag F.FAB_REFUSED_LOG.VALID = true))
        ∧ (pk.type = PT.HAND → s.bootReady = true → s.regionGoverned (regionOf a) = true →
          let cur := s.region (regionOf a)
          let op := ofLe pk.data
          let owner := if bitsOf op 15 0 = 0xFFFF then pk.src.toNat else bitsOf op 15 0
          let new : Nat × Nat := if bitsOf op 17 16 = 2 then (if owner = s.self then (0, 0) else (2, owner)) else (bitsOf op 17 16, 0)
          ¬ (cur.state = new.1 ∧ cur.owner.toNat = new.2) →
          (cur.state = 2 → cur.owner.toNat = pk.src.toNat → exec (.handReq port pk) s = .next
              { s with changes := [⟨regionOf a, new.1, BitVec.ofNat 16 new.2, some (s.now + 20), .packet pk⟩] })
            ∧ (¬ (cur.state = 2 ∧ cur.owner.toNat = pk.src.toNat) → ∃ t, exec (.handReq port pk) s = .next t ∧ t.mem = s.mem
              ∧ t.regions = s.regions ∧ t.changes = [] ∧ s.counted t F.FAB_STATS.REFUSED_OWNER)))
    ∧ (∀ (s : State) (c : Change) (due : Nat), s.mapsCanonical = true → s.quiet → mapWf regionDefault s.regions = true →
      s.pending = [] → s.heldWrites = [] → s.clearing = none → s.changes = [c] → c.due = some due → c.told = .nobody →
      s.now + 2 < 2 ^ 64 →
      ∃ t, step s = .next t
        ∧ (due ≤ s.now → t.changes = [] ∧ (t.region c.region).state = c.state ∧ (t.region c.region).owner = c.owner
            ∧ s.counted t F.FAB_STATS.HANDOFFS ∧ ∀ r, r ≠ c.region → t.region r = s.region r)
        ∧ (s.now + 2 < due → t.changes = [c] ∧ t.regions = s.regions)))

/-- R207, R204: a response whose TXN names an outstanding operation is kept for its context with its status and data; any other
is discarded and counted. FAB_REGION_CLEAR.GO starts a clear, and REGION_CLEAR_DONE ends one whose time has come: every region
it took up, and that no later hand-off has set, is LOCAL. -/
def Obligations.ResponsesAndRegionClear : Prop :=
  (∀ (s : State) (port : BitVec 5) (pk : Packet) (c : Instr) (ty : BitVec 6), s.mapsCanonical = true → s.quiet →
    s.delivers port pk → (c, ty) ∈ [(Instr.dataRsp port pk, PT.DATA), (.ackRsp port pk, PT.ACK)] → pk.type = ty →
    (s.ropOwner pk.txn.toNat = none → exec c s = .next (s.count F.FAB_STATS.LATE_RESP))
      ∧ (∀ k r, s.ropOwner pk.txn.toNat = some k → (s.ctx k).rops = [r] →
        exec c s = .next (s.onCtx k fun x =>
          { x with rops := [{ r with reply := some (BitVec.ofNat 16 pk.word.toNat, pk.data) }] })))
  ∧ (∀ (s : State) (src : Source), s.mapsCanonical = true → s.quiet → s.opens R.FAB_REGION_CLEAR → s.clearing = none →
    ∃ t, exec (.regionClear src 1) s = .next t ∧ t.mem = s.mem ∧ t.clearing = some s.now
      ∧ t.flag F.FAB_REGION_CLEAR.CLEARING = true)
  ∧ (∀ (s : State) (t0 : Nat), s.mapsCanonical = true → s.quiet → mapWf regionDefault s.regions = true →
    s.clearing = some t0 → s.clearEnd t0 ≤ s.now → s.heldWrites = [] →
    ∃ t, exec .regionClearDone s = .next t ∧ t.mem = s.mem ∧ t.clearing = none
      ∧ t.flag F.FAB_REGION_CLEAR.CLEARING = false
      ∧ ∀ r, t0 + s.regionRank r / 4 ≤ s.now → (mapGet regionDefault r s.regions).at_ ≤ t0 + s.regionRank r / 4 + 20 →
          t.region r = ⟨0, 0, 0⟩)

/-- R231: a router counts a hop: a packet for another endpoint that arrives with HOPS = 8 is dropped and counted in
ROUTE_DROPS; one with fewer, under an ACTIVE tag of its port, is queued at the port it is routed to with HOPS one higher. -/
def Obligations.TransitCountsHops : Prop :=
  ∀ (s : State) (port : BitVec 5) (pk : Packet) (i : Nat), s.mapsCanonical = true → s.quiet →
    let p := port.toNat
    s.isUp p = true → (s.port p).rx = [] → malformed pk = false → pk.type ≠ PT.TIME → pk.type ≠ PT.LAUNCH → pk.type ≠ PT.POISON →
    s.drainingEntry pk.tag.toNat = none → s.activeEntry pk.tag.toNat = some i →
    bitOf (s.fld F.LNK_TAG_PORTS.PORTS i) p = true → pk.dest.toNat ≠ s.self →
    (pk.hops.toNat = 8 → exec (.packetTransit port pk) s = .next (s.count F.LNK_PORT_STATS.ROUTE_DROPS p))
      ∧ (∀ pk' ps o, pk.hops.toNat ≠ 8 → s.nextPorts pk = (pk', .ports ps) → s.choosePort pk' ps = .ok o →
        exec (.packetTransit port pk) s = .next ((s.setPort o { s.port o with
          queue := (s.port o).queue ++ [{ pk' with hops := pk.hops + 1, pool := false }] }).pump o))

/-! ### Links: chapter 09 -/

/-- R210, R216, Table 09-6, R232: full training of a port allowed the generation makes it UP and sends its first PARAM flit, a
failed one makes it DOWN with its buffers empty; a DOWN port trains again after 100,000,000 ticks and not earlier; a fast
retrain that fails goes on as a full one and one that works is UP again, where it sends PARAM flits alone until the peer's has
come and holds what it held (R218); RETRAIN of an enabled port begins training with its buffers discarded. A routing entry of
the node table is replaced whole. R237, R199: a DRAINING entry whose time has come is FREE; with LOCAL every region of the
package becomes LOCAL. Earlier nothing changes. -/
def Obligations.PortsTrainAndDrainsEnd : Prop :=
  (∀ (s : State) (port : BitVec 5) (src : Source), s.mapsCanonical = true → s.quiet → mapWf portDefault s.ports = true →
      let p := port.toNat
      (∀ g, s.portState p = 1 → (s.port p).trained = false → s.self ≠ 0xFFFF → genAllowed (s.fld F.LNK_PORT_CFG.GEN p) g = true →
        ∃ t, exec (.portTrainingDone port (some g)) s = .next t ∧ t.mem = s.mem ∧ t.isUp p = true ∧ t.isGen1 p = g
          ∧ s.sends t p 3 1)
        ∧ (s.portState p = 1 → (s.port p).trained = false → s.self ≠ 0xFFFF →
          ∃ t, exec (.portTrainingDone port none) s = .next t ∧ t.mem = s.mem ∧ t.portState p = 0 ∧ (t.port p).queue = []
            ∧ (t.port p).replay = [] ∧ (t.port p).since = s.now)
        ∧ (s.portState p = 0 → s.flag F.LNK_PORT_CFG.ENABLE p = true →
          ((s.port p).since + 100000000 ≤ s.now →
            ∃ t, exec (.portTrainingRetry port) s = .next t ∧ t.mem = s.mem ∧ t.portState p = 1 ∧ (t.port p).trained = false)
          ∧ (s.now < (s.port p).since + 100000000 → exec (.portTrainingRetry port) s = .next s))
        ∧ (s.portState p = 3 → (s.port p).full = false →
          exec (.fastRetrainDone port false) s = .next (s.setPort p { s.port p with full := true }))
        ∧ (s.portState p = 3 → (s.port p).full = false → s.self ≠ 0xFFFF →
          ∃ t, exec (.fastRetrainDone port true) s = .next t ∧ t.mem = s.mem ∧ t.isUp p = true ∧ (t.port p).peerSeen = false
            ∧ (t.port p).replay = (s.port p).replay ∧ s.sends t p 3 1)
        ∧ (∀ value : Word64, s.opens R.LNK_PORT_CFG → wordGet value 0 0 = 1 → wordGet value 3 3 = 1 → wordGet value 2 1 ≠ 3 →
          let q := s.selv F.LNK_PORT_SEL.PORT
          ∃ t, exec (.retrain src value) s = .next t ∧ t.mem = s.mem ∧ t.portState q = 1 ∧ (t.port q).queue = []
            ∧ (t.port q).replay = [] ∧ (t.port q).rx = [] ∧ t.fld F.LNK_PORT_CFG.GEN q = wordGet value 2 1)
        ∧ (∀ value : Word64, s.opens R.LNK_ROUTE_ENTRY → s.selv F.LNK_ROUTE_SEL.TABLE = 0 → wordGet value 31 12 = 0 →
          let i := s.selv F.LNK_ROUTE_SEL.INDEX
          i ≤ 3 → ∃ t, exec (.routeEntryWrite src value) s = .next t ∧ t.mem = s.mem ∧ t.ports = s.ports
            ∧ t.flag F.LNK_ROUTE_ENTRY.VALID i = (wordGet value F.LNK_ROUTE_ENTRY.VALID.hi F.LNK_ROUTE_ENTRY.VALID.lo == 1)
            ∧ t.fld F.LNK_ROUTE_ENTRY.PORTS i = wordGet value 31 0))
  ∧ (∀ (s : State) (entry : BitVec 6), s.mapsCanonical = true → s.quiet →
      let i := entry.toNat
      s.fld F.LNK_TAG_ENTRY.STATE i = 2 →
      (s.now < s.fld F.LNK_TAG_TIME.TICK i → exec (.tagDrainEnd entry) s = .next s)
        ∧ (s.fld F.LNK_TAG_TIME.TICK i ≤ s.now → ∃ t, exec (.tagDrainEnd entry) s = .next t ∧ t.mem = s.mem
          ∧ t.fld F.LNK_TAG_ENTRY.STATE i = 0 ∧ (∀ j, j < 64 → j ≠ i → t.reg R.LNK_TAG_ENTRY j = s.reg R.LNK_TAG_ENTRY j)
          ∧ (s.flag F.LNK_TAG_ENTRY.LOCAL i = true → ∀ r, s.clearing = none → t.region r = ⟨0, 0, 0⟩)
          ∧ (s.flag F.LNK_TAG_ENTRY.LOCAL i = false → t.regions = s.regions)))

/-- R217 to R221: flits at an UP port with nothing to send, once the peer's PARAM flit has come. A bad flit of any row is
counted and answered with one NAK until a flit is accepted again; a good flit's ACK releases the held flits up to it; a DATA
flit in sequence is taken into the receive buffer and one out of sequence is answered with a NAK; a NAK and 4,096 ticks without
an ACK send every held flit again; a first PARAM flit tells the peer and isolates the port when the peer check fails; PARAM
flits go out when due. -/
def Obligations.FlitsAreAnswered : Prop :=
  ∀ (s : State) (port : BitVec 5) (flit : List Byte) (marked : Bool), s.mapsCanonical = true → s.quiet →
    mapWf portDefault s.ports = true →
    let p := port.toNat
    let q := s.port p
    let h := fieldAt flit 0 8
    let good := s.badFlit p flit marked = false
    s.isUp p = true → q.queue = [] → q.txRest = [] →
    (∀ c ∈ [Instr.dataFlit port flit marked, .nak port flit marked, .idleFlit port flit marked, .param port flit marked], ¬ good → q.peerSeen = true →
      ∃ t, exec c s = .next t ∧ t.mem = s.mem ∧ s.counted t F.LNK_PORT_STATS.CRC_ERRS p ∧ (t.port p).nakSent = true
        ∧ (q.nakSent = true → t.outbox = s.outbox) ∧ (q.nakSent = false → s.sends t p 2 1))
      ∧ (∀ e rest, good → bitsOf h 39 37 = 0 → q.replay = e :: rest → bitsOf h 51 40 = e.1 →
        ∃ t, exec (.idleFlit port flit marked) s = .next t ∧ t.mem = s.mem ∧ (t.port p).replay = rest ∧ (t.port p).resends = 0
          ∧ t.outbox = s.outbox)
      ∧ (good → bitsOf h 39 37 = 1 →
        (bitsOf h 63 52 = (q.rxSeq + 1) % 4096 →
          let r := parseAll 16 (q.partial_ ++ flitPayload flit (Nat.min (bitsOf h 18 15) (s.flitSlots p)))
          ∃ t, exec (.dataFlit port flit marked) s = .next t ∧ t.mem = s.mem ∧ (t.port p).rxSeq = bitsOf h 63 52
            ∧ (t.port p).rx = q.rx ++ r.1 ∧ (t.port p).partial_ = r.2 ∧ t.outbox = s.outbox)
        ∧ (bitsOf h 63 52 ≠ (q.rxSeq + 1) % 4096 → q.nakSent = false → q.peerSeen = true →
          ∃ t, exec (.dataFlit port flit marked) s = .next t ∧ t.mem = s.mem ∧ (t.port p).rx = q.rx
            ∧ (t.port p).rxSeq = q.rxSeq ∧ s.sends t p 2 1))
      ∧ (good → bitsOf h 39 37 = 2 → (∀ e ∈ q.replay, e.1 ≠ bitsOf h 51 40) → q.replay ≠ [] → q.resends < 15 → q.peerSeen = true →
        ∃ t, exec (.nak port flit marked) s = .next t ∧ t.mem = s.mem ∧ s.counted t F.LNK_PORT_STATS.REPLAYS p
          ∧ s.sends t p 1 q.replay.length ∧ (t.port p).resends = q.resends + 1)
      ∧ (∀ e, q.replay.head? = some e → e.2.2.2 + 4096 ≤ s.now → q.resends < 15 → q.peerSeen = true →
        ∃ t, exec (.replayTimeout port) s = .next t ∧ t.mem = s.mem ∧ s.counted t F.LNK_PORT_STATS.REPLAYS p
          ∧ s.sends t p 1 q.replay.length ∧ (t.port p).resends = q.resends + 1)
      ∧ (good → bitsOf h 39 37 = 3 → q.peerSeen = false → bitsOf h 63 52 = 0 → bitsOf h 18 15 = 2 →
        zeroAt flit 40 (16 * s.flitSlots p - 32) = true →
        ∃ t, exec (.param port flit marked) s = .next t ∧ t.mem = s.mem ∧ (t.port p).peerSeen = true
          ∧ t.fld F.LNK_PORT_STATE.PEER_EP p = fieldAt (slice flit 8 32) 2 2
          ∧ t.portState p = if s.peerOk p (slice flit 8 32) then 2 else 4)
      ∧ (q.peerSeen = false ∨ q.paramAt + 1048576 ≤ s.now →
        ∃ t, exec (.paramPeriodicSend port) s = .next t ∧ t.mem = s.mem ∧ (t.port p).paramAt = s.now ∧ s.sends t p 3 1)

/-! ### Transfers: chapter 10 -/

/-- R244: a SEND, RECV or ROUND descriptor posted in its cluster's SRAM with room in the unit is read and its completion word
set to zero; one that passes the checks in order is accepted as the next transfer, any other completes at once with the first
failing check's status and is counted. -/
def Obligations.PostedTransfersAreChecked : Prop :=
  ∀ (s : State) (src : Source) (unit : BitVec 5) (addr : Word64) (c : Instr) (kind : Nat), s.mapsCanonical = true → s.quiet →
    s.clean →
    (c, kind) ∈ [(Instr.send src unit addr, 0), (.recv src unit addr, 1), (.round src unit addr, 2)] →
    let k := unit.toNat
    let a := offOf addr.toNat
    let d := s.peek a 64
    let x : Xfer := ⟨k, d, s.now + s.fld F.COL_CFG.XLIM, s.fld F.COL_CFG.RETRY, .waitEntry, [], 0, false⟩
    let begun := (s.countLines a 64 false).putNat x.doneAt 8 0 x.core
    s.opens (R.COL_POST + 8 * k) → s.isSelf addr.toNat = true → a % 64 = 0 → (∃ o, place a = .csram k o) →
    x.kind = kind → s.unitQueued k < 256 → s.wordPlace (fieldAt d 32 8) = true → s.colFenced k = false →
    (begun.xferCheck x = ST.OK → exec c s = .next (begun.acceptXfer x).settle
        ∧ (kind = 2 → (begun.acceptXfer x).xfer s.nextXfer = some { x with phase := .round }))
      ∧ (begun.xferCheck x ≠ ST.OK → ∃ t, exec c s = .next t ∧ t.xfers = s.xfers ∧ t.nextXfer = s.nextXfer
        ∧ s.counted t F.COL_UNIT_STATS.DONE k
        ∧ t.mem = (begun.homeWrite x.doneAt (leBytes 8 (completionWord (begun.xferCheck x) 0))).mem)

/-- R245, R251: control packets for the package. An RTS that finds no RECV is answered BUSY, one that fits a RECV is bound to
it; a CTS binds its SEND, a BUSY makes it wait from this tick, a MISMATCH or a CANCEL ends it with its status; one that names
no live SEND is counted as late. -/
def Obligations.ControlPacketsMoveTransfers : Prop :=
  ∀ (s : State) (port : BitVec 5) (pk : Packet) (id : Nat) (x : Xfer), s.mapsCanonical = true → s.quiet → s.clean →
    s.delivers port pk → pk.type = PT.COL_CTL → s.xfers = [(id, x)] → s.tiles = [] →
    let d := pk.data
    let comm := fieldAt d 0 2
    let seq := fieldAt d 4 4
    let step := fieldAt d 8 4
    let sref := fieldAt d 20 4
    (pk.sub = 0 → s.findRecv comm seq step = none →
      exec (.rts port pk) s = .next (s.sendCtl pk.src.toNat 2 (busyPayload (keyBytes comm seq step) sref)))
      ∧ (pk.sub = 0 → s.findRecv comm seq step = some (id, x) →
        matchCause x (s.sigOf x) pk.src.toNat (fieldAt d 12 1) (fieldAt d 16 4) (fieldAt d 24 8) = none →
        ∃ t, exec (.rts port pk) s = .next t ∧ t.mem = s.mem
          ∧ t.xfers = [(id, { x with srcs := x.srcs ++ [⟨pk.src.toNat, sref, fieldAt d 13 1 % 16, [], x.count == 0⟩] })])
      ∧ (∀ at_ busy, pk.sub = 1 → s.sendNamed pk = some (id, x) → x.phase = .rts at_ busy →
        ∃ t, exec (.cts port pk) s = .next t ∧ t.mem = s.mem
          ∧ t.xfers = [(id, { x with phase := .bound (fieldAt d 24 4) false })])
      ∧ (∀ at_ busy, pk.sub = 2 → s.sendNamed pk = some (id, x) → x.phase = .rts at_ busy →
        exec (.busy port pk) s = .next { s with xfers := [(id, { x with phase := .rts s.now true })] })
      ∧ (pk.sub = 3 → s.sendNamed pk = some (id, x) →
        ∃ t, exec (.mismatch port pk) s = .next t ∧ t.xfers = []
          ∧ t.mem = (s.homeWrite x.doneAt (leBytes 8 (completionWord ST.COLL_MISMATCH x.chunks))).mem)
      ∧ (pk.sub = 4 → s.sendNamed pk = some (id, x) →
        ∃ t, exec (.cancel port pk) s = .next t ∧ t.xfers = []
          ∧ t.mem = (s.homeWrite x.doneAt (leBytes 8 (completionWord (BitVec.ofNat 16 (fieldAt d 12 2)) x.chunks))).mem)
      ∧ (s.sendNamed pk = none → ∀ c n, (c, n) ∈ [(Instr.cts port pk, (1 : BitVec 6)), (.busy port pk, 2), (.mismatch port pk, 3)] →
        pk.sub = n → exec c s = .next (s.count F.FAB_STATS.LATE_RESP))

/-- R246 to R248, R253: data and ends of transfers. COL_DATA of a COPY writes its bytes at their index in the RECV's extent and
no others but the completion word; a RECV whose sources are whole completes with ST_OK; a transfer past its stopwatch ends with
ST_TIMEOUT; an RTS goes out again RETRY ticks after a BUSY, not earlier; a tile that no transfer took for XLIM ticks is dropped
and counted. -/
def Obligations.TransfersEnd : Prop :=
  ∀ (s : State) (id : Nat) (x : Xfer), s.mapsCanonical = true → s.quiet → s.clean → s.xfers = [(id, x)] →
    let word (st : Half) := (s.homeWrite x.doneAt (leBytes 8 (completionWord st x.chunks))).mem
    (∀ (port : BitVec 5) (pk : Packet) (r : XSrc) (e g : Nat), s.delivers port pk → pk.type = PT.COL_DATA →
      x.phase = .open_ e g → pk.txn.toNat = e * 128 + g → g < 128 → x.srcs = [r] → r.ep = pk.src.toNat → x.op = 0 →
      x.baton = false → pk.word.toNat + pk.data.length ≤ x.count → pk.data ≠ [] →
      ∃ t, exec (.colData port pk) s = .next t ∧ t.mem = (s.homeWrite (x.local_ + pk.word.toNat) pk.data).mem
        ∧ t.xfers = [(id, { x with srcs := [XSrc.grow x.count pk.word.toNat pk.data.length r] })])
      ∧ (∀ e g, x.phase = .open_ e g → x.srcs.length = x.nsrc → (x.srcs.all (·.whole)) = true →
        ∃ t, exec (.transferComplete id) s = .next t ∧ t.xfers = [] ∧ t.mem = word ST.OK)
      ∧ (∀ at_, x.phase = .rts at_ true → x.deadline ≤ s.now →
        ∃ t, exec (.transferTimeout id) s = .next t ∧ t.xfers = [] ∧ t.mem = word ST.TIMEOUT
          ∧ s.counted t F.COL_UNIT_STATS.TIMEOUTS x.unit)
      ∧ (s.now < x.deadline → exec (.transferTimeout id) s = .next s)
      ∧ (∀ at_, x.phase = .rts at_ true →
        (s.now < at_ + x.retry → exec (.rtsRetry id) s = .next s)
        ∧ (at_ + x.retry ≤ s.now → s.ownPeer x = true → s.findRecv x.comm x.seq x.step = none →
          ∃ t, exec (.rtsRetry id) s = .next t ∧ t.mem = s.mem ∧ s.counted t F.COL_UNIT_STATS.RTS_RETRIES x.unit
            ∧ t.xfers = [(id, { x with phase := .rts s.now true })]))
      ∧ (∀ (unit : BitVec 5) (tile : Tile), s.tiles = [tile] → tile.unit = unit.toNat →
        tile.since + s.fld F.COL_CFG.XLIM ≤ s.now →
        ∃ t, exec (.relayOrphanTimeout unit) s = .next t ∧ t.mem = s.mem ∧ t.tiles = []
          ∧ s.counted t F.COL_UNIT_STATS.RELAY_ORPHANS unit.toNat)

/-- R257, R259, R413: an ARRIVE that completes the finish line at the root releases it, and a RELEASE does so at a member:
every context that waits on the communicator goes on with the status, the lap is done, the laggard and the package's lag are
told. -/
def Obligations.FinishLineReleases : Prop :=
  ∀ (s : State) (port : BitVec 5) (pk : Packet) (i : Nat) (c : Comm), s.mapsCanonical = true → s.quiet → s.delivers port pk →
    pk.type = PT.COL_CTL → s.commOf (fieldAt pk.data 0 2) = some (i, c) → s.comms = [(i, c)] →
    let a := Arrive.ofBytes pk.data
    let released (t : State) (a : Arrive) : Prop :=
      t.mem = s.mem ∧ t.comms = [(i, { c with lap := none, arrived := 0, atNode := none, atGroup := none, atRoot := none, lapDone := some a.lap })]
        ∧ t.fld F.COL_LAGGARD.ENDPOINT i = a.lastEp % 2 ^ 16 ∧ t.fld F.COL_LAG.LAG_LAST i = Nat.min (2 ^ 24 - 1) (c.ownTick - a.firstTick)
        ∧ t.harts = s.harts.map fun e => (e.1, finishWake c.comm ST.OK e.2)
    (pk.sub = 6 → a.status = ST.OK → c.root ≠ s.self → c.groupLeader s.self ≠ s.self →
      c.nodeLeader s.self ≠ s.self →
      ∃ t, exec (.release port pk) s = .next t ∧ released t a)
      ∧ (∀ own, pk.sub = 5 → c.members = [s.self, pk.src.toNat] → s.self < pk.src.toNat → c.atRoot = some own →
        pk.src.toNat / 64 ≠ s.self / 64 → own.count = 1 → a.count = 1 → (a.joinTo (some own)).status = ST.OK →
        ∃ t, exec (.arrive port pk) s = .next t ∧ released t (a.joinTo (some own)))

/-! ### The block as a whole -/

/-- R264, log entries 1 and 4: a step takes the command at the front of the queue and is its exec with the queue's rest; on an
empty queue one nanosecond passes (the model's choice, log entry 1): the counter advances by one tick, and by none or two where
the rate and the correction under way, clipped to 200 ppm, have gathered a whole tick (R267, R270). -/
def Obligations.StepTakesFrontCommand : Prop :=
  ∀ s : State, (∀ c rest, s.pending = c :: rest → step s = exec c { s with pending := rest })
    ∧ (s.pending = [] →
        let y := s.sync
        let p := y.phase + max (-3355) (min 3355 (y.rate + if 0 < y.left then y.slew else 0))
        let n := if 2 ^ 24 ≤ p then 2 else if p ≤ -(2 ^ 24) then 0 else 1
        ∃ t, step s = .next t ∧ t.pending = [] ∧ t.now = (s.now + n) % 2 ^ 64 ∧ t.pwr.ticks = s.pwr.ticks + 1
          ∧ t.sync.left = y.left - 1 ∧ t.sync.was = s.now)

/-- What reset leaves: the counter at 0 (R264, R315), no command waiting, every context EMPTY (R61), every region LOCAL (R199),
no line marked, no stack fenced, the boot phase CONFIG with nothing loaded, the endpoint ID 0xFFFF, and every register but the
five the straps and pins give at the value its table prints; all memories and maps canonical. That an unlisted byte reads 0 is
the model's choice (log entry 7), and so are the straps taken at reset (log entry 6). -/
def Obligations.ResetState : Prop :=
  let s := State.reset
  s.now = 0 ∧ s.pending = [] ∧ s.outbox = [] ∧ s.memCanonical = true ∧ s.mapsCanonical = true ∧ s.quiet ∧ s.clean
    ∧ (∀ k, (s.ctx k).st = .empty) ∧ (∀ r, (s.region r).state = 0)
    ∧ (∀ key, key ∉ strapRegs.map Prod.fst → mapGet regReset key s.regs = regReset key)
    ∧ s.image = none ∧ s.running = none ∧ s.pendingLaunch = none ∧ s.localEntry = none ∧ s.fencedStacks = []
    ∧ s.fld F.HIF_BOOT_STATUS.PHASE = 1 ∧ s.self = 0xFFFF ∧ s.fld F.MEM_THERM.HOT = 85 ∧ s.fld F.MEM_THERM.CRIT = 95
    ∧ s.flag F.ERR_CFG.CTX_POISON = true

/-- Every command completes: it answers a next state, and every report due within it has been made (R168, R301). -/
def Obligations.EveryCommandCompletes : Prop :=
  ∀ (c : Instr) (s : State), ∃ t, exec c s = .next t ∧ t.quiet

/-- Log entry 7: memory, host memory and the boot buffer stay in their canonical form through every step. -/
def Obligations.StepKeepsMemoryCanonical : Prop :=
  ∀ s t : State, s.memCanonical = true → step s = .next t → t.memCanonical = true

/-- R300, R303, Table 13-2: a fault of a unit with no job on the package. The unit is fenced, what it runs ends with
ST_ABORTED, and one record of the cause is logged; a failed die-to-die path fences the whole package, a failed memory
controller its stack. -/
def Obligations.UnitFaultsFence : Prop :=
  ∀ s : State, s.mapsCanonical = true → s.quiet → s.clean → s.dark = false → s.localEntry = none →
    (∀ (eng : BitVec 10) (r : EngRun), mapWf engineDefault s.engines = true → (s.engine eng.toNat).array = some r →
      ∃ t, exec (.engineColumnFault eng) s = .next t ∧ (t.engine eng.toNat).fenced = true ∧ (t.engine eng.toNat).array = none
        ∧ wordGet (t.reg R.CMP_ENG_REC0 eng.toNat) 63 48 = ST.ABORTED.toNat
        ∧ s.logged t { ErrInfo.of .engineFault with core := eng.toNat / 4, status := ST.ABORTED })
      ∧ (∀ unit : BitVec 5, mapWf dsuDefault s.dsus = true →
        ∃ t, exec (.dsuLaneFault unit) s = .next t ∧ t.mem = s.mem ∧ (t.dsu unit.toNat).fenced = true
          ∧ s.logged t { ErrInfo.of .dsuFault with core := 8 * unit.toNat, status := ST.ABORTED })
      ∧ (∀ unit : BitVec 4, mapWf puuDefault s.puus = true →
        ∃ t, exec (.puuUnitFault unit) s = .next t ∧ (t.puu unit.toNat).fenced = true ∧ (t.puu unit.toNat).run = none
          ∧ s.logged t { ErrInfo.of .puuFault with core := 16 * unit.toNat, status := ST.ABORTED })
      ∧ (∀ unit : BitVec 5, (∀ e ∈ s.xfers, e.2.unit ≠ unit.toNat) →
        ∃ t, exec (.colUnitFault unit) s = .next t ∧ t.mem = s.mem ∧ t.fencedCols = setInsert unit.toNat s.fencedCols
          ∧ s.logged t { ErrInfo.of .colFault with core := 8 * unit.toNat })
      ∧ (∀ unit : BitVec 4, mapWf digDefault s.digs = true →
        ∃ t, exec (.digEngineFault unit) s = .next t ∧ (t.dig unit.toNat).fenced = true
          ∧ (t.dig unit.toNat).queue = (s.dig unit.toNat).queue.tail
          ∧ s.logged t { ErrInfo.of .digFault with core := 16 * unit.toNat, status := ST.ABORTED })
      ∧ (∀ stack : BitVec 4, mapWf puuDefault s.puus = true → mapWf digDefault s.digs = true →
        ∃ t, exec (.memControllerFail stack) s = .next t ∧ t.fencedStacks = [stack.toNat] ∧ (t.puu stack.toNat).run = none
          ∧ (∀ a, place a = .stack stack.toNat (a % 0x1800000000) → t.poisonIn a 1 = some (a / 64 * 64))
          ∧ s.logged t { ErrInfo.of .memCtrlFail with core := 16 * stack.toNat, status := ST.ABORTED })
      ∧ (s.splRun = none → s.splQueue = [] →
        ∃ t, exec .splEngineFault s = .next t ∧ t.mem = s.mem ∧ t.fencedSplit = true
          ∧ s.logged t { ErrInfo.of .splFault with status := ST.ABORTED })
      ∧ (∃ t, exec .d2dPathFail s = .next t ∧ t.mem = s.mem ∧ t.packageFenced = true ∧ s.logged t (ErrInfo.of .d2dFail))

/-! ### Time and launches: chapter 11 -/

/-- R266, R267, R270, Table 11-2: an exchange is due every 2^20 ticks and asks the parent; three without an answer leave
LOCKED. A request is answered with the parent's counter, depth and state. An answer gives offset, delay and depth; a package's
first one, with no launch pending or on, sets the counter, and any other makes the offset the correction of the next 2^20
ticks. The first answer enters SYNCING, the fourth good one in a row of a locked parent locks, and an offset over 64 ticks
falls back to SYNCING. HOLDOVER past 2^22 ticks accepts no launch. A root that follows SYNC_IN takes the way to the nearest
multiple of 2^20 as its correction; SYNC_OUT, in the configuration in effect, pulses when the counter has crossed a multiple.
-/
def Obligations.TimeIsKept : Prop :=
  ∀ s : State, s.mapsCanonical = true → s.quiet →
    let y := s.sync
    let p := y.parent
    let st := s.fld F.TIM_STATE.SYNC
    let due := ∀ t0, y.last = some t0 → t0 + 1048576 ≤ s.now
    (∀ frac, y.changed = false → y.root = false → due → y.sent = none → y.missed < 3 → s.isUp p = true →
      exec (.syncExchange frac) s = .next
        (({ s with sync := { y with last := some s.now, sent := some (s.now, frac.toNat) } } : State).enqueue p
          (s.mkPacket 0 (s.fld F.LNK_PORT_STATE.PEER_EP p) PT.TIME 0 0 0 0
            (leBytes 8 s.now ++ [BitVec.ofNat 8 frac.toNat] ++ List.replicate 7 0))))
      ∧ (∀ frac, y.changed = false → y.root = false → due → y.sent.isSome = true → y.missed = 2 → s.isUp p = false → st = 2 →
        ∃ t, exec (.syncExchange frac) s = .next t ∧ t.mem = s.mem ∧ t.fld F.TIM_STATE.SYNC = 3
          ∧ s.counted t F.TIM_STATS.SYNC_LOSS)
      ∧ (∀ frac t0, y.last = some t0 → s.now < t0 + 1048576 → exec (.syncExchange frac) s = .next s)
      ∧ (∀ port pk frac turnaround, s.delivers port pk → pk.type = PT.TIME → pk.sub = 0 → 16 ≤ pk.data.length → s.now < 2 ^ 64 →
        ∃ out, exec (.syncReq port pk frac turnaround) s = .next (s.enqueue port.toNat out) ∧ out.type = PT.TIME ∧ out.sub = 1
          ∧ out.dest = pk.src ∧ fieldAt out.data 0 8 = fieldAt pk.data 0 8 ∧ fieldAt out.data 16 8 = s.now
          ∧ fieldAt out.data 26 1 = s.fld F.TIM_STATE.DEPTH ∧ fieldAt out.data 27 1 = (if y.root then 0 else st)
          ∧ fieldAt out.data 32 4 = turnaround.toNat)
      ∧ (∀ port pk frac t1 f1, s.delivers port pk → pk.type = PT.TIME → pk.sub = 1 → y.sent = some (t1, f1) → y.root = false →
        port.toNat = p → fieldAt pk.data 0 8 = t1 → fieldAt pk.data 8 2 % 16 = f1 →
        let T1 : Int := 16 * t1 + f1
        let T2 : Int := 16 * fieldAt pk.data 16 8 + fieldAt pk.data 24 2 % 16
        let T3 : Int := T2 + fieldAt pk.data 32 4
        let T4 : Int := 16 * s.now + frac.toNat
        let twice := (T2 - T1) - (T4 - T3) - toSigned 16 (s.fld F.TIM_ASYM.ASYM)
        let first := y.set = false ∧ s.pendingLaunch = none ∧ s.launchOn = false
        twice % 2 = 0 →
        ∃ t, exec (.syncRsp port pk frac) s = .next t ∧ t.mem = s.mem ∧ t.sync.sent = none
          ∧ t.fld F.TIM_STATE.OFFSET = satSigned 16 (twice / 2)
          ∧ t.fld F.TIM_STATE.DELAY = Nat.min 65535 (((T2 - T1) + (T4 - T3)) / 32).toNat
          ∧ t.fld F.TIM_STATE.DEPTH = Nat.min 15 (fieldAt pk.data 26 1 + 1)
          ∧ (¬ first → t.now = s.now ∧ t.sync.slew = twice / 2 ∧ t.sync.left = 1048576)
          ∧ (first → t.now = ((T4 + twice / 2) / 16).toNat % 2 ^ 64 ∧ t.sync.set = true)
          ∧ (st = 0 → t.fld F.TIM_STATE.SYNC = 1)
          ∧ (st = 1 → y.good = 3 → twice.natAbs ≤ 64 → fieldAt pk.data 27 1 = 2 → t.fld F.TIM_STATE.SYNC = 2)
          ∧ (st = 2 → 2048 < twice.natAbs → t.fld F.TIM_STATE.SYNC = 1 ∧ s.counted t F.TIM_STATS.SYNC_LOSS))
      ∧ (st = 3 → y.root = false → y.holdAt + 4194304 ≤ s.now →
        ∃ t, exec .holdoverLimit s = .next t ∧ t.launchable = false ∧ t.mem = s.mem ∧ t.regs = s.regs)
      ∧ (s.now < y.holdAt + 4194304 → exec .holdoverLimit s = .next s)
      ∧ (∀ frac : BitVec 4, y.root = true → y.src = true →
        let T : Int := 16 * s.now + frac.toNat
        ∃ m : Int, m % 2 ^ 24 = 0 ∧ (m - T).natAbs ≤ 2 ^ 23
          ∧ exec (.syncInEdge frac) s = .next { s with sync := { y with slew := m - T, left := 1048576 } })
      ∧ (∀ frac : BitVec 4, (y.root && y.src) = false → exec (.syncInEdge frac) s = .next s)
      ∧ exec .syncOutPulse s = .next (if y.out = true ∧ y.was / 2 ^ 20 ≠ s.now / 2 ^ 20
          then { s with outbox := s.outbox ++ [.syncOut s.now] } else s)

/-- R271 to R273, R275, R276, Tables 11-4 and 11-15: a posted record that passes every check is pending, one that fails is
decided with the first failing check's reason, its key refused and counted; a post of a bad address is refused with KIND 3. A
cancel and a REFUSE of its key drop the pending launch with their reasons; a key is kept until its retention ends and not
longer. R73, R74, R274: at its START the pending launch starts, and not earlier. On an idle package each stack slot of the
declared cores, in order, starts one thread: READY at ENTRY, its number in a0, ARG in a1, its stack pointer in sp, every other
register zero; no more threads than the launch has. -/
def Obligations.LaunchesAreDecidedAndStart : Prop :=
  (∀ (s : State) (src : Source), s.mapsCanonical = true → s.quiet → s.clean →
      (∀ addr : Word64, s.opens R.TIM_LAUNCH_POST → s.pendingLaunch = none →
        let a := offOf addr.toNat
        let r := s.peek a 256
        let u := s.countLines a 256 false
        let fits := s.isSelf addr.toNat = true ∧ a % 64 = 0 ∧ s.extentIn isStackCsram a 256 = true
        (fits → u.launchReason r s.now = none →
          ∃ t, exec (.launchPost src addr) s = .next t ∧ t.pendingLaunch = some ⟨r, 0⟩ ∧ t.mem = s.mem ∧ t.running = s.running)
        ∧ (∀ reason, fits → u.launchReason r s.now = some reason → recNotify r = 0 →
          ∃ t, exec (.launchPost src addr) s = .next t ∧ t.pendingLaunch = none ∧ t.mem = s.mem
            ∧ t.fld F.TIM_LAUNCH_STATE.REASON = reason
            ∧ t.fld F.TIM_LAUNCH_STATE.STATUS = (if reason = 7 then ST.RANGE else ST.FALSE_START).toNat
            ∧ s.counted t F.TIM_STATS.FALSE_STARTS ∧ t.keyKnown (recTag r) (recStart r) = true)
        ∧ (¬ fits → exec (.launchPost src addr) s = .next (s.refuse src 3 R.TIM_LAUNCH_POST addr)))
        ∧ (∀ (value : Word64) (l : Launch), s.opens R.TIM_LAUNCH_CTL → wordGet value 0 0 = 1 → s.pendingLaunch = some l →
          s.now < recStart l.bytes → recNotify l.bytes = 0 →
          ∃ t, exec (.launchCancel src value) s = .next t ∧ t.mem = s.mem ∧ t.pendingLaunch = none ∧ t.running = s.running
            ∧ t.fld F.TIM_LAUNCH_STATE.REASON = 12 ∧ s.counted t F.TIM_STATS.FALSE_STARTS)
        ∧ (∀ (port : BitVec 5) (pk : Packet), s.delivers port pk → pk.type = PT.LAUNCH → pk.sub = 0 →
          let start := fieldAt pk.data 0 8
          let tag := fieldAt pk.data 8 2
          s.running = none →
          (∀ l, s.pendingLaunch = some l → s.now < recStart l.bytes) →
          (s.keyKnown tag start = true → exec (.refuse port pk) s = .next s)
          ∧ (s.keyKnown tag start = false → s.pendingLaunch = none →
            ∃ t, exec (.refuse port pk) s = .next t ∧ t.mem = s.mem
              ∧ ⟨tag, start, Nat.max start (s.now + 20000), fieldAt pk.data 12 2⟩ ∈ t.keys)
          ∧ (∀ l, s.keyKnown tag start = false → s.pendingLaunch = some l → recTag l.bytes = tag → recStart l.bytes = start →
            recNotify l.bytes = 0 →
            ∃ t, exec (.refuse port pk) s = .next t ∧ t.mem = s.mem ∧ t.pendingLaunch = none
              ∧ t.fld F.TIM_LAUNCH_STATE.REASON = 13 ∧ t.fld F.TIM_LAUNCH_STATE.ORIGIN = fieldAt pk.data 12 2))
        ∧ (∀ (tag : Half) (start : Word64),
          ∃ t, exec (.refuseKeyRetentionEnd tag start) s = .next t ∧ t.mem = s.mem ∧ t.regs = s.regs
            ∧ ∀ k, k ∈ t.keys ↔ k ∈ s.keys ∧ ¬ (k.tag = tag.toNat ∧ k.start = start.toNat ∧ k.keep < s.now)))
  ∧ (∀ (s : State) (l : Launch) (m : Image), s.mapsCanonical = true → s.quiet → s.pendingLaunch = some l →
      let r := l.bytes
      (s.now < recStart r → exec .startCount s = .next s)
        ∧ (recStart r ≤ s.now → s.image = some m → s.harts = [] → s.engines = [] → s.dsus = [] → s.puus = [] → s.xfers = [] →
          s.comms = [] → m.ncomm = 0 → m.pxCores = [] → m.c ≤ 124 → recNotify r = 0 →
          ∃ t, exec .startCount s = .next t ∧ t.mem = s.mem ∧ t.pendingLaunch = none
            ∧ (t.running.map (·.bytes)) = some r ∧ s.counted t F.TIM_STATS.ACCEPTED
            ∧ t.fld F.TIM_LAUNCH_STATE.STATUS = ST.OK.toNat
            ∧ (∀ j k, j < recThreads r → m.slots[j]? = some k →
              t.ctx k = Ctx.thread0 m.entry (recT0 r + j) (recArg r) (m.sp (coreOf k) (ctxOf k)) (recT0 r + j))
            ∧ (∀ k, k ∉ m.slots.take (recThreads r) → (t.ctx k).st = .empty)))

/-! ### Digests and splits: chapters 11 and 12 -/

/-- R282, R283, Table 11-7: a well-placed post of each kind is queued at its digest engine, a seventeenth refused with KIND 3.
The oldest command ends while the package has its power (R370): one that fits writes its digest and ST_OK and sets the bound
digests its flags name, one that does not writes ST_RANGE alone, and a fenced engine ends it with ST_ABORTED. -/
def Obligations.DigestsAreComputed : Prop :=
  ∀ (s : State) (src : Source) (unit : BitVec 4), s.mapsCanonical = true → s.quiet → s.clean →
    mapWf digDefault s.digs = true →
    let k := unit.toNat
    let q := (s.dig k).queue
    (∀ (addr : Word64) (c : Instr) (op : Byte),
      (c, op) ∈ [(Instr.leaves src unit addr, 0), (.root src unit addr, 1), (.full src unit addr, 2), (.bind src unit addr, 3)] →
      let a := offOf addr.toNat
      let d : DigCmd := ⟨s.peek a 64, src⟩
      s.opens (R.DIG_POST + 8 * k) → s.isSelf addr.toNat = true → a % 64 = 0 → place a = .stack k (a % 0x1800000000) →
      s.byteAt a = op → s.doneOk d.doneAt = true →
      (q.length < 16 → exec c s = .next ((s.countLines a 64 false).setDig k { s.dig k with queue := q ++ [d] }))
      ∧ (16 ≤ q.length →
        exec c s = .next ((s.refuse src 3 (R.DIG_POST + 8 * k) addr).count F.DIG_STATS.REFUSED)))
      ∧ (q = [] → exec (.digestCommandComplete unit) s = .next s)
      ∧ (∀ c rest, s.powered = true → q = c :: rest →
        let word (st : Half) (u : State) := (u.homeWrite (offOf c.doneAt) (leBytes 8 (completionWord st 0))).mem
        let out := c.result (s.peek (offOf c.src_) c.srcLen)
        ∃ t, exec (.digestCommandComplete unit) s = .next t ∧ (t.dig k).queue = rest ∧ s.counted t F.DIG_STATS.DONE
          ∧ (s.digFenced k = true → t.mem = word ST.ABORTED s)
          ∧ (s.digFenced k = false → s.digCheck c ≠ ST.OK → t.mem = word ST.RANGE s ∧ s.counted t F.DIG_STATS.REFUSED)
          ∧ (s.digFenced k = false → s.digCheck c = ST.OK → t.mem = word ST.OK (s.homeWrite (offOf c.out) out)
            ∧ ∀ j i, j < 2 → i < 8 → bitOf (c.u 1 1) (j + 1) = true →
              t.reg (R.DIG_BOUND + 8 * (8 * j + i)) = BitVec.ofNat 64 (fieldAt out (8 * i) 8)))

/-- R289, R290, R299: posts to an idle, unfenced split engine. A SEAL, CHECK or RESTORE starts; a START that passes its checks
writes its header, protects every granule of its extents and runs, one that fails ends with its status; an ABANDON ends the
running START with ST_ABORTED, lifts its protection and completes; a ninth command is refused with KIND 3. -/
def Obligations.SplitPostsAct : Prop :=
  ∀ (s : State) (src : Source) (addr : Word64), s.mapsCanonical = true → s.quiet → s.poisoned = [] → s.fencedStacks = [] →
    s.resetting = none → s.blocks = [] → s.sparing = [] → s.heldWrites = [] →
    let a := offOf addr.toNat
    let c : SplCmd := ⟨s.peek a 128, src, false⟩
    let u := s.countLines a 128 false
    let word (st : Half) (u : State) := (u.homeWrite (offOf c.doneAt) (leBytes 8 (completionWord st 0))).mem
    s.opens R.SPL_POST → s.isSelf addr.toNat = true → a % 64 = 0 → s.extentIn isStackCsram a 128 = true →
    s.doneOk c.doneAt = true → s.splFenced = false →
    (∀ (i : Instr) (op : Nat), (i, op) ∈ [(Instr.seal src addr, 1), (.check src addr, 2), (.restore src addr, 3)] →
      (s.byteAt a).toNat = op →
      (s.splRun = none → s.splQueue = [] → exec i s = .next { u with splRun := some ⟨c, s.now, [], false⟩ })
      ∧ (8 ≤ s.splQueue.length → exec i s = .next (u.refuse src 3 R.SPL_POST addr)))
      ∧ (s.byteAt a = 0 → s.splRun = none → s.splQueue = [] → s.protectedGranules = [] →
        (∀ m i exts, u.startCheck c = ST.OK → s.commOf c.comm = some (i, m) →
          exts = (List.range c.count).map (extentAt (s.peek (offOf c.table) (16 * c.count))) →
          let gs := granulesOf (offOf c.image) exts
          let hdr := u.splHeader c m
          ∃ t, exec (.start src addr) s = .next t ∧ t.splRun = some ⟨c, s.now, gs, false⟩
            ∧ (∀ g, g ∈ t.protectedGranules ↔ g ∈ gs.map Prod.fst)
            ∧ t.mem = ((s.homeWrite (offOf c.image) (hdr.take 64)).homeWrite (offOf c.image + 64) (hdr.drop 64)).mem)
        ∧ (u.startCheck c ≠ ST.OK →
          ∃ t, exec (.start src addr) s = .next t ∧ t.splRun = none ∧ t.protectedGranules = [] ∧ s.counted t F.SPL_STATS.REFUSED
            ∧ t.mem = word (u.startCheck c) s))
      ∧ (∀ r, s.byteAt a = 4 → s.splFields c = true → s.splQueue = [] → s.splRun = some r → r.cmd.op = 0 →
        ∃ t, exec (.abandon src addr) s = .next t ∧ t.splRun = none ∧ t.protectedGranules = [] ∧ s.counted t F.SPL_STATS.ABANDONED
          ∧ t.mem = word ST.OK (s.homeWrite (offOf r.cmd.doneAt) (leBytes 8 (completionWord ST.ABORTED 0))))

/-- R290 to R299: the split engine's work. A copied granule's bytes stand in the image and nothing else changed, and its
protection is lifted, a priority copy counted; a failed copy ends the START with ST_ABORTED and lifts all. A waiting write's
granule is asked for once, up to 64. A START that has copied all writes its digest and completes, and ends with ST_ABORTED
where its image's place is gone or a digest engine it needs is fenced. A SEAL ends with its status, a CHECK of an image here
writes its summary, a RESTORE that fails its checks tells its status and first rank, and an OP that Table 12-2 has not gives
ST_RANGE. R291: a write that waits on a granule whose request found the queue full asks again: it joins the requests while
fewer than 64 wait and it does not wait already. -/
def Obligations.SplitEngineWorks : Prop :=
  (∀ (s : State) (r : SplRun), s.mapsCanonical = true → s.memCanonical = true → s.quiet → s.poisoned = [] → s.fencedStacks = [] →
      s.resetting = none → s.blocks = [] → s.sparing = [] → s.heldWrites = [] → s.splQueue = [] → s.splRun = some r →
      let word (st : Half) (u : State) := (u.homeWrite (offOf r.cmd.doneAt) (leBytes 8 (completionWord st 0))).mem
      let copied (t : State) (g a : Nat) : Prop :=
        t.splRun = some { r with left := r.left.filter (fun e => e.1 != g), copied := (r.left.filter fun e => e.1 != g).isEmpty }
          ∧ g ∉ t.protectedGranules ∧ (∀ x, x ≠ g → (x ∈ t.protectedGranules ↔ x ∈ s.protectedGranules))
          ∧ (∀ i < 2 ^ 21, mapGet memDefault (a + i) t.mem = mapGet memDefault (g * 2 ^ 21 + i) s.mem)
          ∧ (∀ x, (x < a ∨ a + 2 ^ 21 ≤ x) → mapGet memDefault x t.mem = mapGet memDefault x s.mem)
      let inMemory (x : Nat) := ∀ o, place x ≠ .hwin o
      (∀ g a, inMemory (g * 2 ^ 21) → inMemory a → s.kindAt a ≠ .none →
        (∀ rest, r.left = (g, a) :: rest → s.splPrio = [] → ∃ t, exec (.granuleCopyDone true) s = .next t ∧ copied t g a)
        ∧ (∀ rest, s.splPrio = g :: rest → assocGet g r.left = some a →
          ∃ t, exec (.priorityCopyDone true) s = .next t ∧ copied t g a ∧ s.counted t F.SPL_STATS.COW_COPIES))
        ∧ (∀ g a rest, r.left = (g, a) :: rest → s.splPrio = [] →
          ∃ t, exec (.granuleCopyDone false) s = .next t ∧ t.splRun = none ∧ t.protectedGranules = [] ∧ t.mem = word ST.ABORTED s
            ∧ s.counted t F.SPL_STATS.ABANDONED)
        ∧ (r.copied = false → exec .splitStartComplete s = .next s)
        ∧ (r.copied = true → s.protectedGranules = [] →
          let a := offOf r.cmd.image
          let len := s.peekNat (a + 40) 8
          let can : Prop := s.imagePlace r.cmd.image (4096 + len) = true ∧ ∀ k ∈ hashEngines len, s.digFenced k = false
          ∃ t, exec .splitStartComplete s = .next t ∧ t.splRun = none
            ∧ (can → s.counted t F.SPL_STATS.SPLITS_DONE
                ∧ t.mem = word ST.OK (s.homeWrite (a + 128) (digestOf (s.peek (a + 4096) len))))
            ∧ (¬ can → s.counted t F.SPL_STATS.ABANDONED ∧ t.mem = word ST.ABORTED s))
        ∧ (s.protectedGranules = [] → r.cmd.op ≠ 0 →
          ∃ t, exec .splitCommandComplete s = .next t ∧ t.splRun = none
            ∧ (r.cmd.op = 1 → t.mem = word (s.seal r.cmd).1 (s.seal r.cmd).2)
            ∧ (r.cmd.op = 2 → s.splFields r.cmd = true → s.isSelf r.cmd.image = true → s.imagePlace r.cmd.image 4096 = true →
              (∀ k, s.digFenced k = false) →
              t.mem = word ST.OK (s.homeWrite (offOf r.cmd.table)
                (s.summary r.cmd.image (s.checkImage r.cmd.image) (s.peek (offOf r.cmd.image) 4096))))
            ∧ (5 ≤ r.cmd.op ∨ (r.cmd.op = 2 ∧ s.splFields r.cmd = false) → t.mem = word ST.RANGE s)
            ∧ (∀ st rank laps, r.cmd.op = 3 → s.restoreCheck r.cmd s.fresh = (st, rank, laps) → st ≠ ST.OK →
              t.mem = word st s ∧ t.fld F.SPL_RESTORE_LOG.STATUS = st.toNat
                ∧ t.fld F.SPL_RESTORE_LOG.FIRST_RANK = rank % 2 ^ 14)))
  ∧ (∀ (s : State) (g : Nat), s.quiet → g ∈ s.protectedGranules → (∃ h ∈ s.heldWrites, h.granule = g) → s.copyingGranule ≠ some g →
      g ∉ s.splPrio →
      (s.splPrio.length < 64 → exec (.priorityRequestRetry g) s = .next { s with splPrio := s.splPrio ++ [g] })
        ∧ (64 ≤ s.splPrio.length → exec (.priorityRequestRetry g) s = .next s))

/-! ### Errors and resets: chapter 13 -/

/-- R305, R306, R239: a job's POISON with no transfer in flight. A first one under the installation is counted and recorded,
noted with its cause and origin, every thread of the package is aborted and a pending launch of the tag is dropped with reason
11; one met again, or this package's own coming back, aborts nothing. -/
def Obligations.PoisonStopsTheJob : Prop :=
  ∀ (s : State) (port : BitVec 5) (pk : Packet) (e : Nat), s.mapsCanonical = true → s.quiet → s.clean →
    s.delivers port pk → pk.type = PT.POISON → s.activeEntry pk.tag.toNat = some e → s.flag F.LNK_TAG_ENTRY.LOCAL e = true →
    s.xfers = [] → s.engines = [] →
    let origin := fieldAt pk.data 0 2
    (s.poisonMet = false → origin ≠ s.self → origin ∉ s.origins → s.localEntry = some e →
      ∃ t, exec (.poison port pk) s = .next t ∧ t.poisonMet = true ∧ s.counted t F.ERR_STATS.POISON_RECV
        ∧ s.counted t F.ERR_STATS.RECORDS ∧ origin ∈ t.origins
        ∧ (s.flag F.ERR_POISON.VALID = false → t.flag F.ERR_POISON.VALID = true ∧ t.fld F.ERR_POISON.ORIGIN = origin
            ∧ t.fld F.ERR_POISON.CAUSE = fieldAt pk.data 2 1 ∧ t.fld F.ERR_POISON_TICK.TICK = fieldAt pk.data 8 8)
        ∧ (∀ k, (s.ctx k).st ≠ .empty → (t.ctx k).st = .aborted)
        ∧ (∀ l, s.pendingLaunch = some l → recTag l.bytes = s.jobTag → t.pendingLaunch = none)
        ∧ (s.busyHarts = [] → t.image = none ∧ t.flag F.HIF_BOOT_STATUS.LOADED = false))
      ∧ ((s.poisonMet = true ∨ origin = s.self) →
        ∃ t, exec (.poison port pk) s = .next t ∧ t.mem = s.mem ∧ t.harts = s.harts ∧ t.pendingLaunch = s.pendingLaunch
          ∧ t.poisonMet = s.poisonMet)

/-- R313 to R319, Table 13-7: the host asks for each domain on a package with no launch running. A context abort aborts its
context and records it; a core, cluster and compute reset empty the contexts of their scope and zero its SRAM, change no other
memory and no other context; a package reset drops launches and image and lifts the fence; a cold reset empties everything but
host memory and fuses. While the domain runs, ERR_RESET_STATE says so. R318, R345, R347, R404, R408: a domain's end with no
access and no split command waiting for it. Memory and registers answer again and an aborted context is EMPTY; a package reset
lasts while PKG_RST_N is low and ends in WAIT_IMAGE, or in the STOPPED phase it found; a cold reset ends when tick 0's
conditions hold, at counter 0, and not before. -/
def Obligations.ResetDomainsClearAndEnd : Prop :=
  (∀ s : State, s.mapsCanonical = true → s.memCanonical = true → s.quiet → s.clean → s.opens R.ERR_RESET → s.launchOn = false →
      s.localEntry = none → s.engines = [] → s.splRun = none →
      let src := Source.host
      let runs (t : State) (d n : Nat) := t.resetting = some (d, n) ∧ t.fld F.ERR_RESET_STATE.DOMAIN = d ∧ t.fld F.ERR_RESET_STATE.TARGET = n
      let zeroed (t : State) (inside : Nat → Prop) := (∀ a, inside a → mapGet memDefault a t.mem = 0)
        ∧ (∀ a, ¬ inside a → mapGet memDefault a t.mem = mapGet memDefault a s.mem)
      let emptied (k : Nat) : Ctx := { Ctx.empty with nextOp := (s.ctx k).nextOp }
      let cleared (t : State) (inside : Nat → Prop) := (∀ k, inside k → t.ctx k = emptied k) ∧ (∀ k, ¬ inside k → t.ctx k = s.ctx k)
      (∀ target : BitVec 15, (s.ctx target.toNat).st = .ready →
        ∃ t, exec (.contextAbort src target) s = .next t ∧ t.mem = s.mem ∧ runs t 0 target.toNat ∧ (t.ctx target.toNat).st = .aborted
          ∧ s.logged t { cause := .resetReq, cls := 1, hart := some target.toNat, status := ST.ABORTED }
          ∧ ∀ k, k ≠ target.toNat → t.ctx k = s.ctx k)
        ∧ (∀ core : BitVec 8, ∃ t, exec (.coreReset src core) s = .next t ∧ runs t 1 core.toNat
          ∧ cleared t (fun k => isPx k = false ∧ coreOf k = core.toNat) ∧ zeroed t (fun a => ∃ o, place a = .lsram core.toNat o))
        ∧ (∀ cluster : BitVec 5, ∃ t, exec (.clusterReset src cluster) s = .next t ∧ runs t 2 cluster.toNat
          ∧ cleared t (fun k => isPx k = false ∧ clusterOfHart k = cluster.toNat)
          ∧ zeroed t (fun a => (∃ o, place a = .csram cluster.toNat o) ∨ ∃ g o, g / 8 = cluster.toNat ∧ place a = .lsram g o))
        ∧ (∃ t, exec (.computeReset src) s = .next t ∧ runs t 3 0 ∧ cleared t (fun k => isPx k = false)
          ∧ zeroed t (fun a => (∃ g o, place a = .csram g o) ∨ ∃ g o, place a = .lsram g o) ∧ t.dsus = [] ∧ t.digs = [] ∧ t.xfers = [])
        ∧ (∃ t, exec (.packageReset src) s = .next t ∧ t.resetting = some (4, 0) ∧ (∀ k, t.ctx k = emptied k) ∧ t.pendingLaunch = none
          ∧ t.running = none ∧ t.image = none ∧ t.bootMem = [] ∧ t.flag F.ERR_STATUS.PACKAGE_FENCED = false
          ∧ (∀ a, (∃ k o, place a = .stack k o) → mapGet memDefault a t.mem = mapGet memDefault a s.mem))
        ∧ (∃ t, exec (.coldReset src) s = .next t ∧ t.resetting = some (5, 0) ∧ t.mem = [] ∧ t.harts = [] ∧ t.image = none
          ∧ t.hostMem = s.hostMem ∧ t.dark = true ∧ t.outbox = s.outbox))
  ∧ (∀ s : State, s.mapsCanonical = true → s.quiet → s.heldWrites = [] → s.splQueue = [] → s.unloadDue = false →
      (s.resetting = none → exec .resetComplete s = .next s)
        ∧ (∀ d n, s.resetting = some (d, n) → d ≤ 3 →
          ∃ t, exec .resetComplete s = .next t ∧ t.mem = s.mem ∧ t.regs = s.regs ∧ t.resetting = none
            ∧ (d = 0 → isPx n = false → (s.ctx n).st = .aborted → (t.ctx n).st = .empty ∧ (t.ctx n).pc = (s.ctx n).pc)
            ∧ (d ≠ 0 → t.harts = s.harts))
        ∧ (∀ n, s.resetting = some (4, n) →
          (s.flag F.MGT_PINS.PKG_RST_N = false → exec .resetComplete s = .next s)
          ∧ (s.flag F.MGT_PINS.PKG_RST_N = true →
            ∃ t, exec .resetComplete s = .next t ∧ t.mem = s.mem ∧ t.resetting = none
              ∧ t.phase = if s.phase = 6 then 6 else 2))
        ∧ (∀ n, s.resetting = some (5, n) →
          (s.coldReady = false → exec .resetComplete s = .next s)
          ∧ (s.coldReady = true →
            ∃ t, exec .resetComplete s = .next t ∧ t.mem = s.mem ∧ t.resetting = none ∧ t.now = 0 ∧ t.dark = false)))

/-! ### The host interface: chapter 14 -/

/-- R324, R326 to R329, R331, R335, R338: BAR2 writes fill boot memory in WAIT_IMAGE and are counted away in every other phase;
host reads of BAR2 give the boot memory in WAIT_IMAGE and zero later, of BAR4 the mailbox page; a host write of BAR4 other than
one of CONS is counted away too. The host's register commands find the two at offsets of the model's choice (log entry 4). A
CXL.mem access of one line flips its granule to host bias, then reads or writes; without CXL.mem it does nothing. The HDM
decoder takes one way, 1,536 GiB and a base of 256 MiB multiples only, and holds the base and size it was given. A host-window
access that ends in error ends its reader and is recorded as TIER_UE, an expiry counted. Configuration writes set what they
name while the link is up (register places: log entry 63). -/
def Obligations.HostAccessesAct : Prop :=
  ∀ s : State, s.mapsCanonical = true → s.quiet → s.clean → s.dark = false → mapWf ctxDefault s.harts = true →
    (∀ (off : Word32) (data : List Byte), off.toNat + data.length ≤ 2 ^ 28 →
      (s.phase = 2 → exec (.bar2Write off data) s = .next { s with bootMem := memPut s.bootMem off.toNat data })
      ∧ (s.phase ≠ 2 → exec (.bar2Write off data) s = .next (s.count F.HIF_STATS.BAR_DROPS)))
      ∧ (∀ off : Word32, off.toNat % 8 = 0 → off.toNat < 2 ^ 28 →
        exec (.registerRead .host (off + BitVec.ofNat 32 0x10000000) 8) s = .next (s.emit (.readData .host
          (BitVec.ofNat 64 (if s.phase = 2 then ofLe ((List.range 8).map fun i => mapGet memDefault (off.toNat + i) s.bootMem) else 0)))))
      ∧ (∀ off : Word32, off.toNat % 8 = 0 → off.toNat < 4096 →
        exec (.registerRead .host (off + BitVec.ofNat 32 0x20000000) 8) s = .next (s.emit (.readData .host
          (BitVec.ofNat 64 (s.page off.toNat 8))))
        ∧ ∀ value, exec (.registerWrite .host (off + BitVec.ofNat 32 0x20000000) 8 value) s = .next (s.count F.HIF_STATS.BAR_DROPS))
      ∧ (∀ (addr : Word64) (len : Nat) (data : List Byte),
        let a := addr.toNat
        let on := s.flag F.HIF_LINK.CXL = true ∧ s.flag F.HIF_LINK.MEM_EN = true ∧ s.host.memActive = true ∧ s.host.hdm.isSome = true
        let g := regionOf a
        let u := s.autoFlip g
        (g ∈ u.host.hostBias ∧ (g ∉ s.host.hostBias → s.counted u F.HIF_STATS.AUTO_FLIPS))
        ∧ (on → 0 < len → a % 64 + len ≤ 64 → a + len ≤ 0x18000000000 →
          exec (.hostCxlMemAccess addr len none) s = .next ((u.countLines a len false).emit (.cxlData (s.peek a len) false)))
        ∧ (on → data ≠ [] → a % 64 + data.length ≤ 64 → a + data.length ≤ 0x18000000000 →
          exec (.hostCxlMemAccess addr len (some data)) s = .next (u.writeBytes a data))
        ∧ (¬ on → ∀ d, exec (.hostCxlMemAccess addr len d) s = .next s))
      ∧ (∀ (ways : Nat) (base size : Word64), s.flag F.HIF_LINK.CXL = true →
        let good := ways = 1 ∧ size.toNat = 0x18000000000 ∧ base.toNat % 2 ^ 28 = 0
        (good → exec (.hdmDecoderCommit ways base size) s =
          .next { s with host := { s.host with hdm := some base.toNat, hdmError := false,
                                               cxl := { s.host.cxl with hdmBase := base, hdmSize := size, hdmCtl := 0x200 } } })
        ∧ (¬ good → exec (.hdmDecoderCommit ways base size) s =
          .next { s with host := { s.host with hdm := none, hdmError := true,
                                               cxl := { s.host.cxl with hdmBase := base, hdmSize := size, hdmCtl := 0x200 } } }))
      ∧ (∀ addr : BitVec 48, s.kindAt addr.toNat = .hwin → s.localEntry = none →
        ∃ t, exec (.hostWindowTimeout addr true .hostRead) s = .next t ∧ t.mem = s.mem ∧ t.harts = s.harts
          ∧ s.counted t F.HIF_STATS.CACHE_TIMEOUTS
          ∧ s.logged t { cause := .tierUe, cls := 2, addr := some (s.global addr.toNat) })
      ∧ (∀ (addr : BitVec 48) (core : BitVec 8) (c : BitVec 7), s.kindAt addr.toNat = .hwin → s.localEntry = none → s.engines = [] →
        let k := hartKey (.ctx core c)
        (s.ctx k).st = .parked →
        ∃ t, exec (.hostWindowTimeout addr false (.hart (.ctx core c))) s = .next t ∧ (t.ctx k).st = .aborted ∧ t.mem = s.mem
          ∧ s.logged t { cause := .tierUe, cls := 2, hart := some k, addr := some (s.global addr.toNat), status := ST.ABORTED })
      ∧ (s.fld F.HIF_LINK.WIDTH ≠ 0 →
        (∀ on, s.flag F.HIF_LINK.CXL = true →
          exec (.configWrite (.cacheEnable on)) s = .next ((s.setFld F.HIF_LINK.CACHE_EN (b2n on)).mboxReleased)
          ∧ exec (.configWrite (.memEnable on)) s = .next (s.setFld F.HIF_LINK.MEM_EN (b2n on)))
        ∧ (∀ on, exec (.configWrite (.msixEnable on)) s = .next { s with msixOn := on })
        ∧ (∀ v, exec (.configWrite (.deviceControl2 v)) s = .next { s with host := { s.host with devCtl2 := v &&& devCap2 } })
        ∧ (∀ v : Half, bitsOf v.toNat 7 5 ≤ 2 → bitsOf v.toNat 14 12 ≤ 5 → exec (.configWrite (.deviceControl v)) s =
          .next { s with host := { s.host with cxl := { s.host.cxl with devCtl := v } } })
        ∧ (∀ (i : BitVec 3) v, exec (.configWrite (.aer i v)) s =
          .next { s with host := { s.host with cxl := { s.host.cxl with aer := s.host.cxl.aer.set i.toNat v } } }))

/-- R332 to R337, R348: the mailbox and the event ring. A line read by snoop or poll whose SEQ is the last one read is passed
over; a new one is counted, and its operation waits; the snooped line is the one at ADDR, and a poll that timed out (R331) only
starts the next interval. An operation waits, runs, or is answered NOT_READY, MAILBOX_BUSY or RANGE. The oldest reply is
written with its SEQ, OP and status, ends its operation and signals vector 1. The oldest record not yet forwarded goes into the
ring and signals vector 0, or is dropped and counted when 122 stand; the host's CONS is taken unless it would leave more than
122 standing. -/
def Obligations.MailboxAndEventsMove : Prop :=
  ∀ s : State, s.mapsCanonical = true → s.quiet → s.dark = false → mapWf memDefault s.host.page = true →
    let vector (u : State) (v : Nat) := u.msix u.msixOn v
    (s.mboxMode = 2 → s.host.polledAt = none → exec (.mailboxPoll none) s =
        .next { s with host := { s.host with polledAt := some s.pwr.ticks } })
      ∧ (∀ (c : Instr) (a : Word64) (l : List Byte), l.length = 64 →
      (c = .mailboxSnoop ⟨a, l⟩ ∧ s.mboxMode = 1 ∧ a.toNat = s.mboxAddr)
        ∨ (c = .mailboxPoll (some l) ∧ s.mboxMode = 2 ∧ s.host.polledAt = none) →
      let h := s.host
      let op := lineOp l
      ∃ t, exec c s = .next t ∧ t.mem = s.mem ∧ t.host.lastSeq = lineSeq l
        ∧ (s.mboxMode = 1 → t.host.mboxHeld = some a.toNat) ∧ (s.mboxMode = 2 → t.host.polledAt = some s.pwr.ticks)
        ∧ (lineSeq l = h.lastSeq → t.regs = s.regs ∧ t.host.ops = h.ops ∧ t.host.replies = h.replies ∧ t.host.run = h.run)
        ∧ (lineSeq l ≠ h.lastSeq → s.counted t F.HIF_STATS.NOTIFY
          ∧ (op ≤ 2 → lineOk l = true → t.host.ops = h.ops ++ [l] ∧ t.host.replies = h.replies)
          ∧ (op ≤ 2 → lineOk l = false → t.host.replies = h.replies ++ [replyTo l ST.RANGE])
          ∧ (5 < op → t.host.replies = h.replies ++ [replyTo l ST.RANGE])
          ∧ (3 ≤ op → op ≤ 5 →
            (s.bootReady = false → t.host.replies = h.replies ++ [replyTo l ST.NOT_READY])
            ∧ (s.bootReady = true → h.run.isSome = true → t.host.replies = h.replies ++ [replyTo l ST.MAILBOX_BUSY])
            ∧ (s.bootReady = true → h.run = none → lineOk l = false → t.host.replies = h.replies ++ [replyTo l ST.RANGE])
            ∧ (s.bootReady = true → h.run = none → lineOk l = true → t.host.run = some ⟨l, false⟩
              ∧ t.flag F.HIF_MBOX_STATE.BUSY = true ∧ t.host.replies = h.replies))))
      ∧ (∀ r rest, s.host.replies = r :: rest →
        ∃ t u, exec .mailboxReply s = .next t ∧ t = vector u 1 ∧ t.mem = s.mem ∧ t.host.replies = rest
          ∧ t.page MBP.REPLY 8 = r.seq % 2 ^ 64 ∧ t.page (MBP.REPLY + 8) 2 = r.status.toNat ∧ t.page (MBP.REPLY + 10) 1 = r.op % 256
          ∧ (r.own = true → t.host.run = none ∧ t.flag F.HIF_MBOX_STATE.BUSY = false) ∧ (r.own = false → t.host.run = s.host.run))
      ∧ (∀ (n : Nat) (ws : List Word64) rest, s.forward = (n, ws) :: rest → ws.length = 4 → s.mgmtRuns = true →
        let prod := s.page MBP.PROD 4
        let full := (prod + 2 ^ 32 - s.page MBP.CONS 4) % 2 ^ 32 = 122
        ∃ t u, exec .eventRecordForward s = .next t ∧ t.mem = s.mem ∧ t.log = s.log ∧ t.forward = rest
          ∧ (¬ full → t = vector u 0 ∧ t.page MBP.PROD 4 = (prod + 1) % 2 ^ 32 ∧ t.page MBP.DROPS 4 = s.page MBP.DROPS 4
            ∧ ∀ j < 4, t.page (MBP.RING + 32 * (prod % 122) + 8 * j) 8 = (ws.getD j 0).toNat)
          ∧ (full → t.page MBP.PROD 4 = prod ∧ t.page MBP.DROPS 4 = (s.page MBP.DROPS 4 + 1) % 2 ^ 32
            ∧ s.counted t F.HIF_STATS.EVENT_DROPS ∧ t.outbox = s.outbox))
      ∧ (∀ value : Word32,
        let ahead := (s.page MBP.PROD 4 + 2 ^ 32 - value.toNat) % 2 ^ 32
        (122 < ahead → exec (.eventRingConsWrite value) s = .next s)
        ∧ (ahead ≤ 122 → ∃ t, exec (.eventRingConsWrite value) s = .next t ∧ t.page MBP.CONS 4 = value.toNat
          ∧ t.page MBP.PROD 4 = s.page MBP.PROD 4 ∧ t.regs = s.regs ∧ t.mem = s.mem ∧ t.outbox = s.outbox))

/-- R334, R351 to R354: the operations of the mailbox. NOP, LAUNCH and CANCEL leave the waiting list with a reply, LAUNCH and
CANCEL acting as the registers do. A LOAD that fails a check changes nothing and is answered with the check's status; one that
passes loads the image. UNLOAD is refused while a launch is pending or its threads run. RESET starts the domain it names. -/
def Obligations.MailboxOperationsRun : Prop :=
  ∀ s : State, s.mapsCanonical = true → s.quiet → s.clean →
    let h := s.host
    s.forward = [] →
    (∀ l rest, h.ops = l :: rest →
      let taken : State := { s with host := { h with ops := rest } }
      let answered (t : State) (st : Half) := t.host.ops = rest ∧ t.host.replies = h.replies ++ [replyTo l st]
      (lineOp l = 0 → exec .mboxNop s = .next (taken.addReply (replyTo l ST.OK)))
      ∧ (lineOp l = 1 → s.pendingLaunch = none →
        let a := offOf (lineArg l).toNat
        let fits := s.isSelf (lineArg l).toNat = true ∧ a % 64 = 0 ∧ s.extentIn isStackCsram a 256 = true
        (fits → (s.countLines a 256 false).launchReason (s.peek a 256) s.now = none →
          ∃ t, exec .mboxLaunch s = .next t ∧ t.pendingLaunch = some ⟨s.peek a 256, 0⟩ ∧ t.mem = s.mem ∧ answered t ST.OK)
        ∧ (¬ fits → ∃ t, exec .mboxLaunch s = .next t ∧ t.pendingLaunch = none ∧ t.mem = s.mem
          ∧ t.regs = (s.refuse .host 3 R.TIM_LAUNCH_POST (lineArg l)).regs ∧ answered t ST.RANGE))
      ∧ (lineOp l = 2 →
        (s.pendingLaunch = none → exec .mboxCancel s = .next (taken.addReply (replyTo l ST.OK)))
        ∧ (∀ p, s.pendingLaunch = some p → s.now < recStart p.bytes → recNotify p.bytes = 0 →
          ∃ t, exec .mboxCancel s = .next t ∧ t.pendingLaunch = none ∧ t.mem = s.mem ∧ t.fld F.TIM_LAUNCH_STATE.REASON = 12
            ∧ answered t ST.OK)))
      ∧ (∀ l, h.run = some ⟨l, false⟩ → h.replies = [] → s.mgmtRuns = true →
        let arg := (lineArg l).toNat
        let m := s.img (offOf (fieldAt (s.peek (offOf arg) 256) 0 8))
        (lineOp l = 3 →
          (∀ e, s.loadCheck arg = some e → exec .load s = .next (s.ends l e))
          ∧ (s.loadCheck arg = none → ∃ t, exec .load s = .next t ∧ t.mem = (s.loadCopy m).2.mem
            ∧ t.host.replies = [replyTo l (s.loadCopy m).1 true] ∧ t.host.run = some ⟨l, true⟩
            ∧ ((s.loadCopy m).1 = ST.OK → t.flag F.HIF_BOOT_STATUS.LOADED = true ∧ t.comms.length = m.f 13 1
              ∧ (t.image.map (·.prog)) = some (digestOf (s.peek m.at_ m.total)))))
        ∧ (lineOp l = 4 →
          ((s.pendingLaunch.isSome || s.launchBusy) = true →
            exec .unload s = .next (s.addReply { replyTo l ST.NO_FIT true with res := 0 }))
          ∧ ((s.pendingLaunch.isSome || s.launchBusy) = false → s.engines = [] →
            ∃ t, exec .unload s = .next t ∧ t.mem = s.mem ∧ t.image = none ∧ t.flag F.HIF_BOOT_STATUS.LOADED = false
              ∧ (∀ k, isCollective k = true → (t.ctx k).st = .empty) ∧ t.host.replies = [replyTo l ST.OK true]))
        ∧ (lineOp l = 5 →
          let d := wordGet (lineArg l) 18 16
          let n := wordGet (lineArg l) 14 0
          (resetTargetOk d n = false → ∃ t, exec .mboxReset s = .next t ∧ t.mem = s.mem ∧ t.resetting = none ∧ t.harts = s.harts
            ∧ t.host.replies = [replyTo l ST.RANGE true])
          ∧ (resetTargetOk d n = true → d ≤ 3 → s.busyHarts = [] → s.xfers = [] →
            ∃ t, exec .mboxReset s = .next t ∧ t.resetting = some (d, n) ∧ t.host.replies = [replyTo l ST.OK true])
          ∧ (d = 4 → n = 0 → ∃ t, exec .mboxReset s = .next t ∧ t.resetting = some (4, 0) ∧ t.host.replies = [])))

/-! ### Boot, attestation and fuses: chapters 14 and 15 -/

/-- R343 to R346, R361, R364, R406, Table 14-9: the configuration read reports its header, the records used and the bytes read,
the identity key exists, and a shortage of reserves stops boot; the trained link shows in HIF_LINK and opens WAIT_IMAGE; a
firmware image that fails is dropped, its status and the attempt counted, one that passes starts TRAIN; at READY, once no error
record waits to be forwarded (R382), the page holds READY_TICK, device memory is active and each tier unit shows what its
training found: a listed DIMM at its highest rate that passed, an expander of up to 4 TiB, or why it is absent (R174 to R177).
-/
def Obligations.BootAdvances : Prop :=
  ∀ s : State, s.mapsCanonical = true → s.quiet → s.dark = false → s.resetting = none → mapWf memDefault s.host.page = true →
    (∀ bytes : List Byte, s.phase = 1 → s.flag F.MGT_PINS.TESTEN = false → s.cfg.done = false →
      let hdr := slice bytes 0 64
      ∃ t, exec (.configReadDone bytes) s = .next t ∧ t.mem = s.mem ∧ t.cfg.done = true ∧ t.flag F.SEC_STATUS.ID_READY = true
        ∧ t.flag F.HIF_CFG_STATUS.HEADER_VALID = cfgHeaderOk hdr ∧ t.flag F.MGT_RESERVE_STATUS.MAP_VALID = true
        ∧ t.fld F.HIF_CFG_STATUS.BYTES_READ = (if cfgHeaderOk hdr = true then Nat.max 64 (fieldAt hdr 12 4) else 64)
        ∧ (cfgHeaderOk hdr = false → t.fld F.HIF_CFG_STATUS.RECORDS = 0 ∧ t.cfg.cert = none ∧ t.fld F.SEC_STATUS.CERT = 0)
        ∧ (fuseAssign.2 = false → t.phase = 1)
        ∧ (fuseAssign.2 = true → t.phase = 6 ∧ t.fld F.HIF_BOOT_STATUS.STATUS = ST.RESERVE_EXHAUSTED.toNat))
      ∧ (∀ bytes : List Byte, s.phase ≠ 1 → exec (.configReadDone bytes) s = .next s)
      ∧ (∀ (cxl : Bool) (w : BitVec 5) (r : BitVec 8), w.toNat ∈ [4, 8, 16] → r.toNat ∈ [8, 16, 32] → s.cfg.done = true →
        s.flag F.MGT_PINS.PERST_N = true → s.fld F.HIF_LINK.WIDTH = 0 →
        ∃ t, exec (.upstreamLinkTrained cxl w r) s = .next t ∧ t.mem = s.mem ∧ t.flag F.HIF_LINK.CXL = cxl
          ∧ t.fld F.HIF_LINK.WIDTH = w.toNat ∧ t.fld F.HIF_LINK.RATE = r.toNat ∧ (s.phase = 1 → t.phase = 2)
          ∧ (s.phase ≠ 1 → t.phase = s.phase))
      ∧ (s.phase = 3 →
        let n := s.fld F.HIF_BOOT_CTL.LENGTH
        let b := s.bootImage n
        let st := s.fwCheck b n
        ∃ t, exec .firmwareVerifyDone s = .next t ∧ t.mem = s.mem ∧ t.fld F.HIF_BOOT_STATUS.STATUS = st.toNat
          ∧ (st ≠ ST.OK → t.phase = 2 ∧ t.bootMem = [] ∧ s.counted t F.HIF_BOOT_STATUS.ATTEMPTS ∧ t.mrs = s.mrs)
          ∧ (st = ST.OK → t.phase = 4 ∧ t.flag F.SEC_STATUS.RUN_VALID = true ∧ t.fld F.SEC_STATUS.RUN_SLOT = fieldAt b 10 1
            ∧ t.fld F.SEC_STATUS.SVN_IMAGE = fieldAt b 12 2))
      ∧ (s.phase ≠ 3 → exec .firmwareVerifyDone s = .next s)
      ∧ (∀ u : TierFound, s.phase = 4 → s.mgt.hung = false → s.forward = [] → tierUnit u ≤ 9 → s.host.cold = true →
        let k := tierUnit u
        let absent (t : State) (why : Nat) := t.flag F.TIER_INFO.PRESENT k = false ∧ t.fld F.TIER_INFO.FAIL k = why
        ∃ t, exec (.bootReady [u]) s = .next t ∧ t.mem = s.mem ∧ t.phase = 5 ∧ t.page MBP.READY_TICK 8 = s.now % 2 ^ 64
          ∧ t.host.memActive = true ∧ (s.host.memActive = false → t.host.hostBias = [])
          ∧ t.flag F.TIER_INFO.INIT_DONE k = false
          ∧ (∀ n, u = .empty n → absent t 0)
          ∧ (∀ n ty ranks width (cap : Half) passed, u = .dimm n ty ranks width cap passed →
            let listed := ((ty = 1 ∧ ranks ∈ [1, 2, 4]) ∨ (ty = 2 ∧ ranks ∈ [2, 4])) ∧ width ∈ [4, 8] ∧ 16 ≤ cap.toNat ∧ cap.toNat ≤ 256
            let rates : List Half := if ty = 1 then [6400, 5600, 4800] else [8800, 8000]
            (¬ listed → absent t 2)
            ∧ (listed → (∀ r ∈ rates, r ∉ passed) → absent t 1)
            ∧ (listed → ∀ r ∈ rates, r ∈ passed → (∀ q ∈ rates, q ∈ passed → q.toNat ≤ r.toNat) →
              t.flag F.TIER_INFO.PRESENT k = true ∧ t.fld F.TIER_INFO.TYPE k = ty.toNat ∧ t.fld F.TIER_INFO.RATE k = r.toNat
                ∧ t.fld F.TIER_INFO.CAPACITY k = cap.toNat))
          ∧ (∀ n kind link (cap : Word32), u = .device n kind link cap →
            (kind ≠ 0 → absent t (kind.toNat + 1)) ∧ (kind = 0 → link = none → absent t 1)
            ∧ (kind = 0 → ∀ g w, link = some (g, w) → t.flag F.TIER_INFO.PRESENT k = true ∧ t.fld F.TIER_INFO.TYPE k = 3
                ∧ t.fld F.TIER_INFO.RATE k = g.toNat ∧ t.fld F.TIER_INFO.WIDTH k = w.toNat
                ∧ t.fld F.TIER_INFO.CAPACITY k = Nat.min 4096 cap.toNat)))

/-- R330, R366: what the two data object exchanges answer. Discovery names the protocols, the CDAT its entries in order and an
object error after them, in the standard's layouts (log entry 34); an abort drops the request being signed. GET_CERT returns
the served certificate, QUOTE starts one signature over its snapshot, which is returned with it or with ST_ABORTED and zeros; a
request of an instance that is busy, or of more than 16 KiB, sets its Error, with which it answers nothing until an abort (log
entry 34). -/
def Obligations.DoeAnswers : Prop :=
  ∀ s : State, s.quiet → s.doeServed = true → s.sec.doeError = [] →
    let faulty (i : Nat) : State := { s with sec := { s.sec with doeError := [i] } }
    let busy := s.sec.signing.isSome = true
    (∀ inst : BitVec 1, (inst = 0 ∨ ¬ busy) →
      exec (.doeDiscovery inst 0) s = .next (s.emit (.doe inst.toNat (doeObject 0x0001 0 [1, 0, 0, 1]))))
      ∧ exec (.doeDiscovery 0 1) s = .next (s.emit (.doe 0 (doeObject 0x0001 0 [0x98, 0x1E, 2, 0])))
      ∧ (busy → ∀ index, exec (.doeDiscovery 1 index) s = .next (faulty 1))
      ∧ (∀ (inst : BitVec 1) index, exec (.doeDiscovery inst index) (faulty inst.toNat) = .next (faulty inst.toNat))
      ∧ exec (.doeAbort 0) (faulty 0) = .next s
      ∧ exec (.cdatTableAccess 1) s = .next (s.emit (.doe 0 (doeObject 0x1E98 2
          ([0, 0, 2, 0] ++ [0, 0, 24, 0, 1, 0, 0, 0] ++ leBytes 8 0 ++ leBytes 8 0x18000000000))))
      ∧ (∀ handle : Half, 6 ≤ handle.toNat → exec (.cdatTableAccess handle) s = .next (faulty 0))
      ∧ exec (.doeAbort 0) s = .next s
      ∧ exec (.doeAbort 1) s = .next { s with sec := { s.sec with signing := none } }
      ∧ (∀ p : List Byte,
        let head (st : Half) := [1] ++ slice p 1 1 ++ leBytes 2 st.toNat ++ slice p 4 4
        (attOk 1 p = true → ¬ busy →
          (∀ c, s.fld F.SEC_STATUS.CERT = 1 → s.cfg.cert = some c →
            exec (.getCert p) s = .next (s.attest (head ST.OK ++ leBytes 4 c.length ++ List.replicate 4 0 ++ c)))
          ∧ (s.fld F.SEC_STATUS.CERT ≠ 1 →
            exec (.getCert p) s = .next (s.attest (head ST.OK ++ List.replicate 8 0))))
        ∧ (attOk 2 p = true → ¬ busy →
          (fieldAt p 72 2 ≠ 0 →
            exec (.quote p) s = .next { s with sec := { s.sec with signing := some (s.quoteBody p) } })
          ∧ (fieldAt p 72 2 = 0 → exec (.quote p) s = .next (s.attest (head ST.RANGE))))
        ∧ (∀ op c, (op, c) ∈ [(1, Instr.getCert p), (2, .quote p), (3, .extend p)] → fieldAt p 1 1 = op →
          (busy ∨ 16384 < 8 + p.length) → exec c s = .next (faulty 1)))
      ∧ (∀ p : List Byte, s.sec.signing = some p →
        (∃ t sig, exec (.quoteSigned true) s = .next t ∧ sig.length = 4627 ∧ t.sec.signing = none ∧ t.mem = s.mem ∧ t.regs = s.regs
          ∧ t.outbox = s.outbox ++ [.doe 1 (doeObject Config.vendorId.toNat 1 (p ++ sig ++ [0]))])
        ∧ exec (.quoteSigned false) s = .next (({ s with sec := { s.sec with signing := none } } : State).attest
            (splice p 2 (leBytes 2 ST.ABORTED.toNat) ++ List.replicate 4628 0)))

/-- R367: an EXTEND of the right form with INDEX 12 to 15 extends that register with its VALUE and answers the new count and
ST_OK; one with any other INDEX answers ST_RANGE and extends nothing. -/
def Obligations.ExtendUpdatesMeasurement : Prop :=
  ∀ (s : State) (p : List Byte), s.quiet → s.doeServed = true → s.sec.signing = none → s.doeFaulty 1 = false → attOk 3 p = true →
    mapWf mrDefault s.mrs = true →
    let i := fieldAt p 8 1
    let answer (st : Half) (rest : List Byte) :=
      Out.doe 1 (doeObject Config.vendorId.toNat 1 ([1] ++ slice p 1 1 ++ leBytes 2 st.toNat ++ slice p 4 4 ++ rest))
    (12 ≤ i → i ≤ 15 → ∃ t, exec (.extend p) s = .next t ∧ t.mem = s.mem ∧ t.regs = s.regs
        ∧ t.mr i = ⟨sha3 ((s.mr i).value ++ slice p 16 64), ((s.mr i).count + 1) % 2 ^ 32⟩
        ∧ (∀ j, j ≠ i → t.mr j = s.mr j) ∧ t.outbox = s.outbox ++ [answer ST.OK (leBytes 8 (t.mr i).count)])
      ∧ ((i < 12 ∨ 15 < i) → exec (.extend p) s = .next { s with outbox := s.outbox ++ [answer ST.RANGE []] })

/-- R358, R359: a fuse command from the host with nothing being programmed. Revoking a slot already revoked completes at once;
another begins while a sound programmed slot would be left; an advance begins to a number above the fuses' and at most the
image's. Any other is refused, and so is one from a thread. An advance blows its bits one after another, each in its time (log
entry 8); a command that ends has blown its bits for good, and one that a reset stops has blown the bit in progress and shows
INTERRUPTED. -/
def Obligations.FusesProgram : Prop :=
  ∀ s : State, s.mapsCanonical = true → s.quiet → s.opens R.SEC_FUSE_CMD → s.sec.fuse = none →
    let refused (t : State) (src : Source) (w : Word64) := t = s.refuse src 0 R.SEC_FUSE_CMD w
    (∀ slot : BitVec 7,
      let n := slot.toNat
      let left := ∃ i, i < 4 ∧ i ≠ n ∧ programmed i = true ∧ s.revoked i = false
      ∃ t, exec (.fuseRevoke .host slot) s = .next t ∧ t.mem = s.mem
        ∧ (4 ≤ n → refused t .host (fuseWord 1 n))
        ∧ (n < 4 → s.revoked n = true → t.sec = s.sec ∧ t.fld F.SEC_FUSE_STATE.LAST_OP = 1)
        ∧ (n < 4 → s.revoked n = false → left → t.sec = { s.sec with fuse := some (1, n), fuseAt := s.pwr.ticks } ∧ t.fld F.SEC_FUSE_STATE.STEPS_LEFT = 1)
        ∧ (n < 4 → s.revoked n = false → ¬ left → refused t .host (fuseWord 1 n)))
      ∧ (∀ svn : BitVec 7,
        let n := svn.toNat
        let good := s.sec.svn < n ∧ n ≤ s.fld F.SEC_STATUS.SVN_IMAGE ∧ s.flag F.SEC_STATUS.RUN_VALID = true
        ∃ t, exec (.fuseAdvance .host svn) s = .next t ∧ t.mem = s.mem
          ∧ (good → t.sec = { s.sec with fuse := some (2, n), fuseAt := s.pwr.ticks } ∧ t.fld F.SEC_FUSE_STATE.STEPS_LEFT = n - s.sec.svn)
          ∧ (¬ good → refused t .host (fuseWord 2 n)))
      ∧ (∀ (h : Hart) (slot : BitVec 7), exec (.fuseRevoke (.hart h) slot) s =
          .next (s.refuse (.hart h) 0 R.SEC_FUSE_CMD (fuseWord 1 slot.toNat)))
      ∧ exec .fuseProgramDone s = .next s
      ∧ (∀ op arg, (op = 1 ∨ op = 2 ∧ s.sec.svn < arg) → arg < 128 →
        let u : State := { s with sec := { s.sec with fuse := some (op, arg) } }
        ∃ t, exec .fuseProgramDone u = .next t ∧ t.mem = s.mem ∧ t.fld F.SEC_FUSE_STATE.STEPS_LEFT = 0
          ∧ (op = 1 → t.sec = { s.sec with revoked := s.sec.revoked.lor (2 ^ arg), fuse := none })
          ∧ (op = 2 → t.sec = { s.sec with svn := arg, fuse := none })
          ∧ (op = 2 → s.sec.svn + 1 < arg → s.sec.fuseAt + fuseTime 2 arg s.sec.svn ≤ s.pwr.ticks →
            u.fuseStep.sec = { u.sec with svn := s.sec.svn + 1, fuseAt := s.pwr.ticks }
              ∧ u.fuseStep.fld F.SEC_FUSE_STATE.STEPS_LEFT = arg - (s.sec.svn + 1))
          ∧ (op = 2 → u.fuseStopped.sec = { s.sec with svn := s.sec.svn + 1, fuse := none }
              ∧ u.fuseStopped.flag F.SEC_FUSE_STATE.INTERRUPTED = true))

/-! ### Power, management and pins: chapters 16 and 17 -/

/-- R368 to R370, R373, R405: an input sample shows its readings and the range they lie in; over 126.0 A in a 200-tick mean
every pair slows by four steps; an input out of range for its time, a rail and an overheated junction are power faults: latched
with their kind, counted, and the shutdown begins, once. 20,000 ticks later the rails are off and memory is gone; not earlier.
-/
def Obligations.InputPowerIsWatched : Prop :=
  ∀ s : State, s.mapsCanonical = true → s.quiet → s.clean → s.localEntry = none → s.pwr.alive = true → s.pwr.off = false →
    let faulted (t : State) (kind rail vin : Nat) := t.flag F.PWR_FAULT.VALID = true ∧ t.fld F.PWR_FAULT.KIND = kind
      ∧ t.fld F.PWR_FAULT.RAIL = rail ∧ t.fld F.PWR_FAULT.VIN_MV = vin ∧ s.counted t F.PWR_STATS.FAULTS
      ∧ t.pwr.stopping = some s.pwr.ticks ∧ t.mem = s.mem
    (∀ vin iin iin200 : Half,
      let v := vin.toNat
      ∃ t, exec (.inputSample vin iin iin200) s = .next t ∧ t.fld F.PWR_INPUT.VIN_MV = v ∧ t.fld F.PWR_INPUT.IIN = iin.toNat
        ∧ (t.flag F.PWR_INPUT.LOW = true ↔ 28000 ≤ v ∧ v < 30000) ∧ (t.flag F.PWR_INPUT.HIGH = true ↔ 40000 < v ∧ v ≤ 42000)
        ∧ (s.powered = true → iin200.toNat ≤ 1260 → 28000 ≤ v → v ≤ 42000 →
          t.pwr.stopping = none ∧ ∀ k, t.fld F.PWR_PAIR_STATE.POWER_STEP k = s.fld F.PWR_PAIR_STATE.POWER_STEP k)
        ∧ (s.powered = true → 1260 < iin200.toNat → s.pwr.limitAt = none → 28000 ≤ v → v ≤ 42000 →
          t.flag F.PWR_INPUT.CURRENT_LIMITED = true ∧ s.counted t F.PWR_STATS.CURRENT_LIMITS
          ∧ ∀ k < 16, t.fld F.PWR_PAIR_STATE.POWER_STEP k = Nat.min 20 (s.fld F.PWR_PAIR_STATE.POWER_STEP k + 4))
        ∧ (∀ u, s.powered = true → v < 28000 → s.pwr.lowSince = some u → u + 5000 ≤ s.pwr.ticks → faulted t 1 0 v)
        ∧ (∀ u, s.powered = true → 42000 < v → s.pwr.highSince = some u → u + 1000 ≤ s.pwr.ticks → faulted t 2 0 v))
      ∧ (s.pwr.stopping = none →
        let vin := s.fld F.PWR_INPUT.VIN_MV
        (∀ r : BitVec 6, ∃ t, exec (.railFault (some r) false) s = .next t ∧ faulted t 4 r.toNat vin)
        ∧ (∃ t, exec (.railFault none false) s = .next t ∧ faulted t 3 0 vin)
        ∧ (∀ r, ∃ t, exec (.railFault r true) s = .next t ∧ faulted t 5 0 vin)
        ∧ exec .powerOffComplete s = .next s)
      ∧ (∀ u, s.pwr.stopping = some u →
        (u < s.pwr.ticks → s.hw = [] → ∀ r hot, exec (.railFault r hot) s = .next s)
        ∧ (s.pwr.ticks < u + 20000 → exec .powerOffComplete s = .next s)
        ∧ (u + 20000 ≤ s.pwr.ticks → ∃ t, exec .powerOffComplete s = .next t ∧ t.mem = [] ∧ t.harts = [] ∧ t.dark = true
          ∧ t.pwr.off = true ∧ t.pwr.stopping = none ∧ t.outbox = s.outbox ++ [.powerOff]))

/-- R375 to R380: the pairs are paced and rest. Over 105% of the cap every step rises by two, over the cap by one, from 95% on
they stay, at the tenth evaluation below that each falls by one (UNIFORM policy). The hotter of a pair's two junctions, trimmed
(R374), is shown, stops the pair at STOP, and at PACE raises its thermal step. A cluster idle for DELAY ticks rests, not one
kept awake, busy, named by an accepted launch or idle for less; a locked PLL clocks its cluster. -/
def Obligations.ClocksFollowPowerAndHeat : Prop :=
  ∀ s : State, s.mapsCanonical = true → s.quiet → s.powered = true →
    (∀ (watts : BitVec 13) (pairWatts : List (BitVec 10)), s.fld F.PWR_LIMIT.POLICY = 0 → s.pwr.policy = 0 →
      let p := watts.toNat * 1000
      let l := Nat.min (s.fld F.PWR_LIMIT.WATTS * 1000) (120 * s.fld F.PWR_INPUT.VIN_MV)
      let was (k : Nat) := s.fld F.PWR_PAIR_STATE.POWER_STEP k
      ∃ t, exec (.powerEvaluation watts pairWatts) s = .next t ∧ t.mem = s.mem ∧ t.fld F.PWR_INPUT.PIN_W = watts.toNat
        ∧ ∀ k < 16, was k ≤ 20 →
          (105 * l < p * 100 → t.fld F.PWR_PAIR_STATE.POWER_STEP k = Nat.min 20 (was k + 2))
          ∧ (l < p → p * 100 ≤ 105 * l → t.fld F.PWR_PAIR_STATE.POWER_STEP k = Nat.min 20 (was k + 1))
          ∧ (p ≤ l → 95 * l ≤ p * 100 → t.fld F.PWR_PAIR_STATE.POWER_STEP k = was k)
          ∧ (p * 100 < 95 * l → s.pwr.below = 9 → t.fld F.PWR_PAIR_STATE.POWER_STEP k = was k - 1)
          ∧ (l < p → t.fld F.PWR_PAIR_STATE.STEP k
              = Nat.max (t.fld F.PWR_PAIR_STATE.POWER_STEP k) (s.fld F.PWR_PAIR_STATE.THERM_STEP k)))
      ∧ (∀ junctions : List (BitVec 10),
        let pick (i : Nat) : Nat := s.trimmed 1 i (junctions.getD i 0).toNat
        let tj (k : Nat) : Nat := Nat.max (pick (2 * k)) (pick (2 * k + 1))
        (∀ k < 16, tj k < 1024) →
        ∃ t, exec (.thermalPacingSample junctions) s = .next t ∧ t.mem = s.mem ∧ ∀ k < 16,
          t.fld F.PWR_PAIR_STATE.TJ k = tj k
          ∧ (4 * s.fldOld F.PWR_TJ.STOP ≤ tj k → t.pairStopped k = true ∧ k ∈ t.pwr.tjStop)
          ∧ (tj k + 12 < 4 * s.fldOld F.PWR_TJ.STOP → s.fld F.MEM_STATE.THERM k < 2 → t.pairStopped k = false)
          ∧ (4 * s.fldOld F.PWR_TJ.PACE ≤ tj k → k ∉ s.pwr.thermOn →
            t.fld F.PWR_PAIR_STATE.THERM_STEP k = Nat.min 20 (s.fld F.PWR_PAIR_STATE.THERM_STEP k + 1)))
      ∧ (∀ cluster : BitVec 5,
        let c := cluster.toNat
        let idle := s.flag F.PWR_REST.FORCE_AWAKE = false ∧ s.clusterBusy c = false ∧ assocGet c s.pwr.waking = none ∧ s.launchNames c = false
          ∧ mapGet (fun _ => 0) c s.pwr.busyAt + s.fld F.PWR_REST.DELAY ≤ s.pwr.ticks
        s.resting c = false →
        (idle → ∃ t, exec (.restEntry cluster) s = .next t ∧ t.mem = s.mem ∧ t.resting c = true ∧ t.clockOn c = false)
        ∧ (¬ idle → exec (.restEntry cluster) s = .next s))
      ∧ (∀ cluster : BitVec 5, exec (.pllLocked cluster) s =
          .next { s with pwr := { s.pwr with waking := s.pwr.waking.filter fun e => e.1 != cluster.toNat } })

/-- R383 to R385: the management processor. Over 80% of a window it is busy and the window counted, at 60% or less it is not,
between the two nothing changes. A snapshot due is written at its place in the ring with its number and tick, and no other byte
changes; while the processor has a duty before it (R382) it waits. Without a kick for PERIOD it hangs: recorded, counted, the
running operation answered with ST_ABORTED; after the restart it runs. -/
def Obligations.ManagementRuns : Prop :=
  ∀ s : State, s.mapsCanonical = true → s.memCanonical = true → s.quiet → s.clean → s.dark = false →
    (∀ percent : BitVec 7,
      let u := Nat.min 100 percent.toNat
      ∃ t, exec (.mgtUtilWindow percent) s = .next t ∧ t.mem = s.mem ∧ t.fld F.MGT_UTIL.UTIL = u
        ∧ (80 < u → t.flag F.MGT_UTIL.BUSY = true ∧ s.counted t F.MGT_UTIL.BUSY_WINDOWS)
        ∧ (u ≤ 60 → t.flag F.MGT_UTIL.BUSY = false)
        ∧ (60 < u → u ≤ 80 → t.flag F.MGT_UTIL.BUSY = s.flag F.MGT_UTIL.BUSY))
      ∧ (s.pwr.ticks < s.mgt.telAt + s.telPeriod → exec .telemetrySnapshot s = .next s)
      ∧ (s.flag F.MGT_TEL_CFG.ENABLE = true → s.mgt.telAt + s.telPeriod ≤ s.pwr.ticks → (s.mgmtFree = false ∨ s.host.run ≠ none) →
        ∃ t, exec .telemetrySnapshot s = .next t ∧ t.mem = s.mem ∧ t.mgt.telDue.isSome = true ∧ t.mgt.telAt = s.pwr.ticks)
      ∧ (∀ k o, s.flag F.MGT_TEL_CFG.ENABLE = true → s.mgt.telAt + s.telPeriod ≤ s.pwr.ticks → s.mgmtFree = true → s.host.run = none →
        let n := s.mgt.telN
        let a := offOf ((s.reg R.MGT_TEL_BASE).toNat + 256 * (n % Nat.max 1 (s.fld F.MGT_TEL_CFG.ENTRIES)))
        place a = .stack k o → o + 256 ≤ 0x1800000000 →
        ∃ t, exec .telemetrySnapshot s = .next t ∧ t.mgt.telN = (n + 1) % 2 ^ 64 ∧ t.mgt.telAt = s.pwr.ticks
          ∧ t.peekNat a 8 = n % 2 ^ 64 ∧ t.peekNat (a + 8) 8 = s.now % 2 ^ 64
          ∧ ∀ x, (x < a ∨ a + 256 ≤ x) → t.byteAt x = s.byteAt x)
      ∧ (s.pwr.ticks < s.mgt.kickAt + s.fld F.MGT_WDOG.PERIOD → exec .watchdogExpiry s = .next s)
      ∧ (s.mgt.kickAt + s.fld F.MGT_WDOG.PERIOD ≤ s.pwr.ticks → s.mgmtRuns = true → s.localEntry = none → s.engines = [] →
        ∃ t, exec .watchdogExpiry s = .next t ∧ t.mem = s.mem ∧ t.mgt.hung = true ∧ t.mgmtRuns = false
          ∧ s.counted t F.MGT_HANG.HANGS ∧ t.fld F.MGT_HANG.LAST_TICK = s.now % 2 ^ 48 ∧ s.logged t (ErrInfo.of .mgtHang)
          ∧ (s.host.run = none → t.host.replies = s.host.replies)
          ∧ (∀ l, s.host.run = some ⟨l, false⟩ → s.host.replies = [] → t.host.replies = [replyTo l ST.ABORTED true]))
      ∧ (s.mgt.hung = false → exec .mgtRestartDone s = .next s)
      ∧ (s.mgt.hung = true → s.forward = [] →
        exec .mgtRestartDone s = .next { s with mgt := { s.mgt with hung := false, kickAt := s.pwr.ticks } })

/-- R386, R387, Table 16-8: the I3C target while it has power. It takes, changes and drops its dynamic address, answers the
read-out commands when it has one and a NACK when not (layouts of log entry 26; GETSTATUS's two bytes are free), turns in-band
interrupts on and off, serves one register access at a time and returns its status and data once the access has been served. -/
def Obligations.I3cTargetAnswers : Prop :=
  ∀ s : State, s.quiet → s.pwr.alive = true →
    let i := s.i3c
    let nack : State := { s with outbox := s.outbox ++ [.i3cNack] }
    (∀ addr : BitVec 7,
      (i.dyn = none → exec (.entdaa addr) s = .next (({ s with i3c := { i with dyn := some addr.toNat } } : State).emit
          (.i3c (i3cPid ++ [Config.i3cBcr, Config.i3cDcr]))))
      ∧ (i.dyn ≠ none → exec (.entdaa addr) s = .next s)
      ∧ (∀ st : BitVec 7, i.straps = true → i.dyn = none → st.toNat = 0x30 + s.fld F.MGT_PINS.POS →
        exec (.setdasa st addr) s = .next { s with i3c := { i with dyn := some addr.toNat } })
      ∧ (∀ st : BitVec 7, (i.straps = false ∨ i.dyn ≠ none ∨ st.toNat ≠ 0x30 + s.fld F.MGT_PINS.POS) →
        exec (.setdasa st addr) s = .next nack)
      ∧ (i.dyn ≠ none → exec (.setnewda addr) s = .next { s with i3c := { i with dyn := some addr.toNat } })
      ∧ (i.dyn = none → exec (.setnewda addr) s = .next nack))
      ∧ exec .rstdaa s = .next { s with i3c := { i with dyn := none } }
      ∧ (∀ ev : Byte, (ev.toNat % 2 = 1 → exec (.enec ev) s = .next { s with i3c := { i with ibiOn := true } }
            ∧ exec (.disec ev) s = .next { s with i3c := { i with ibiOn := false } })
          ∧ (ev.toNat % 2 = 0 → exec (.enec ev) s = .next s ∧ exec (.disec ev) s = .next s))
      ∧ (∀ c bytes, (c, bytes) ∈ [(Instr.getpid, i3cPid), (.getbcr, [Config.i3cBcr]), (.getdcr, [Config.i3cDcr]), (.getmwl, [0, 16]),
            (.getmrl, [0, 16, 1])] →
          exec c s = .next (if i.dyn = none then nack else { s with outbox := s.outbox ++ [.i3c bytes] }))
      ∧ (∃ t, exec .getstatus s = .next t ∧ t.mem = s.mem ∧ t.regs = s.regs ∧ t.i3c = i
          ∧ (i.dyn = none → t.outbox = s.outbox ++ [.i3cNack])
          ∧ (i.dyn ≠ none → ∃ b, b.length = 2 ∧ t.outbox = s.outbox ++ [.i3c b]))
      ∧ (∀ bytes : List Byte, i.dyn ≠ none →
        let off := fieldAt bytes 1 4
        (bytes.length = 5 → fieldAt bytes 0 1 = 1 →
          ∃ t, exec (.i3cReadRequest bytes) s = .next t ∧ t.mem = s.mem ∧ t.i3c.at_ = s.pwr.ticks + 2000
            ∧ t.i3c.data = (s.regRead .bmc off 8).1 ∧ t.i3c.dyn = i.dyn
            ∧ (s.dark = true → t.i3c.status = ST.NOT_READY)
            ∧ (s.dark = false → off % 8 ≠ 0 → s.regClosed (off / 8 * 8) = false → s.mapsCanonical = true → t.i3c.status = ST.RANGE))
        ∧ (bytes.length ≠ 5 → exec (.i3cReadRequest bytes) s = .next nack)
        ∧ (bytes.length = 13 → fieldAt bytes 0 1 = 2 →
          let u := s.regWrite .bmc off 8 (BitVec.ofNat 64 (fieldAt bytes 5 8))
          exec (.i3cRegisterWrite bytes) s = .next (u.i3cServed (s.i3cStatus u off) none).settle)
        ∧ (bytes.length ≠ 13 → exec (.i3cRegisterWrite bytes) s = .next nack))
      ∧ ((i.dyn = none ∨ s.pwr.ticks < i.at_) → exec .i3cPrivateRead s = .next nack)
      ∧ (i.dyn ≠ none → i.at_ ≤ s.pwr.ticks → exec .i3cPrivateRead s =
          .next { s with outbox := s.outbox ++ [.i3c (leBytes 2 i.status.toNat ++ leBytes 8 i.data.toNat)] })

/-- R371, R375, R396, R397, R402, R404 to R409: a level taken on a pin. PWR_GOOD, COLD_RST_N and the reference falling begin a
cold reset, PKG_RST_N a package reset, PERST_N drops the upstream link's state; rising, each ends what it held once nothing
else does. A level a pin already has, a rejected pulse and every pin without the always-on domain change nothing but the
pulse's counter. That domain's power-up leaves the pins as their pulls do, its loss leaves nothing. -/
def Obligations.PinsAct : Prop :=
  ∀ s : State, s.mapsCanonical = true → s.quiet → s.clean → s.dark = false → s.pwr.alive = true → s.launchOn = false →
    let cold (t : State) (f : Fld) := t.resetting = some (5, 0) ∧ t.mem = [] ∧ t.harts = [] ∧ t.flag f = false ∧ t.hostMem = s.hostMem
    let high (f : Fld) := s.flag f = true
    let low (f : Fld) := s.flag f = false
    (high F.MGT_PINS.PWR_GOOD → ∃ t, exec .pwrGoodFall s = .next t ∧ cold t F.MGT_PINS.PWR_GOOD
        ∧ (s.pwr.stopping = none → t.pwr.stopping = some s.pwr.ticks))
      ∧ (high F.MGT_PINS.COLD_RST_N → ∃ t, exec .coldRstNAssert s = .next t ∧ cold t F.MGT_PINS.COLD_RST_N)
      ∧ (high F.MGT_PINS.REF_OK → ∃ t, exec .refclkLoss s = .next t ∧ cold t F.MGT_PINS.REF_OK
        ∧ s.counted t F.MGT_PIN_STATS.REF_LOSSES)
      ∧ (high F.MGT_PINS.PKG_RST_N → ∃ t, exec .pkgRstNAssert s = .next t ∧ t.resetting = some (4, 0) ∧ (∀ k, (t.ctx k).st = .empty)
        ∧ t.flag F.MGT_PINS.PKG_RST_N = false)
      ∧ (low F.MGT_PINS.PKG_RST_N → s.heldWrites = [] → s.splQueue = [] → s.unloadDue = false →
        exec .pkgRstNDeassert s = .next (s.setFld F.MGT_PINS.PKG_RST_N 1)
        ∧ ∃ t, exec .pkgRstNDeassert { s with resetting := some (4, 0) } = .next t ∧ t.resetting = none ∧ (t.phase = if s.phase = 6 then 6 else 2)
          ∧ t.flag F.MGT_PINS.PKG_RST_N = true ∧ t.mem = s.mem)
      ∧ (high F.MGT_PINS.PERST_N → s.fld F.HIF_LINK.WIDTH ≠ 0 →
        ∃ t, exec .perstNAssert s = .next t ∧ t.mem = s.mem ∧ t.harts = s.harts ∧ t.flag F.MGT_PINS.PERST_N = false
          ∧ t.reg R.HIF_LINK = 0 ∧ t.msixOn = false ∧ t.host.hdm = none ∧ t.sec.signing = none)
      ∧ (low F.MGT_PINS.PERST_N → exec .perstNDeassert s = .next (s.setFld F.MGT_PINS.PERST_N 1))
      ∧ (∀ (f : Fld) (pos : BitVec 2) (te dis : Bool) (c : Instr), low f →
        (c, f) ∈ [(Instr.pwrGoodRise pos te dis, F.MGT_PINS.PWR_GOOD), (.coldRstNDeassert pos te dis, F.MGT_PINS.COLD_RST_N),
          (.refclkRestored pos te dis, F.MGT_PINS.REF_OK)] →
        exec c s = .next (s.setFld f 1)
        ∧ ∃ t, exec c { s with resetting := some (5, 0) } = .next t ∧ t.flag f = true ∧ t.fld F.MGT_PINS.POS = pos.toNat
          ∧ t.flag F.MGT_PINS.TESTEN = te ∧ t.mem = s.mem
          ∧ ((s.setFld f 1).coldReady = true → t.resetting = none ∧ t.now = 0)
          ∧ ((s.setFld f 1).coldReady = false → t.resetting = some (5, 0) ∧ t.now = s.now))
      ∧ (∀ c f, (c, f) ∈ [(Instr.pwrGoodFall, F.MGT_PINS.PWR_GOOD), (.coldRstNAssert, F.MGT_PINS.COLD_RST_N),
            (.refclkLoss, F.MGT_PINS.REF_OK), (.pkgRstNAssert, F.MGT_PINS.PKG_RST_N), (.perstNAssert, F.MGT_PINS.PERST_N)] →
          low f → exec c s = .next s)
      ∧ (∀ pin, exec (.pinPulseRejected pin) s = .next (s.count (pinCounter pin)))
      ∧ exec .alwaysOnPowerUp s = .next s
      ∧ (∃ t, exec .alwaysOnPowerLoss s = .next t ∧ t.mem = [] ∧ t.harts = [] ∧ t.pwr.alive = false ∧ t.pwr.off = true
          ∧ t.hostMem = s.hostMem)
      ∧ (let off : State := { s with pwr := { s.pwr with alive := false } }
        (∃ t, exec .alwaysOnPowerUp off = .next t ∧ t.mem = s.mem ∧ t.pwr.alive = true ∧ t.flag F.MGT_PINS.COLD_RST_N = true
          ∧ t.flag F.MGT_PINS.PKG_RST_N = true ∧ t.flag F.MGT_PINS.REF_OK = true)
        ∧ exec .alwaysOnPowerLoss off = .next off
        ∧ ∀ pin, exec (.pinPulseRejected pin) off = .next off)
end

