-- ==== Sys2Proof/Laws/Link.lean ====
section
/-! SUPPORT. What sending and accepting packets can change: port records, the outbox, counters, the traffic record and the
detour rotation, and nothing else. -/

namespace Sys2Proof.Machine

/-- t differs from s only in what the ports of the package keep, count and send. -/
structure LinkStep (s t : State) : Prop where
  eq : t = { s with ports := t.ports, outbox := t.outbox, regs := t.regs, hw := t.hw, rotNode := t.rotNode,
                    rotGroup := t.rotGroup, traffic := t.traffic }

namespace LinkStep

theorem refl (s : State) : LinkStep s s := ⟨rfl⟩

theorem trans {s t u : State} (h1 : LinkStep s t) (h2 : LinkStep t u) : LinkStep s u := by
  constructor
  rw [h2.eq, h1.eq]

/-- What a link step leaves alone, field by field. -/
theorem mem {s t : State} (h : LinkStep s t) : t.mem = s.mem := by rw [h.eq]
theorem hostMem {s t : State} (h : LinkStep s t) : t.hostMem = s.hostMem := by rw [h.eq]
theorem bootMem {s t : State} (h : LinkStep s t) : t.bootMem = s.bootMem := by rw [h.eq]
theorem harts {s t : State} (h : LinkStep s t) : t.harts = s.harts := by rw [h.eq]
theorem ctx {s t : State} (h : LinkStep s t) (k : Nat) : t.ctx k = s.ctx k := by simp only [State.ctx, h.harts]
theorem ueDue {s t : State} (h : LinkStep s t) : t.ueDue = s.ueDue := by rw [h.eq]
theorem now {s t : State} (h : LinkStep s t) : t.now = s.now := by rw [h.eq]
theorem pending {s t : State} (h : LinkStep s t) : t.pending = s.pending := by rw [h.eq]
theorem poisoned {s t : State} (h : LinkStep s t) : t.poisoned = s.poisoned := by rw [h.eq]
theorem engines {s t : State} (h : LinkStep s t) : t.engines = s.engines := by rw [h.eq]
theorem regions {s t : State} (h : LinkStep s t) : t.regions = s.regions := by rw [h.eq]
theorem xfers {s t : State} (h : LinkStep s t) : t.xfers = s.xfers := by rw [h.eq]
theorem running {s t : State} (h : LinkStep s t) : t.running = s.running := by rw [h.eq]

end LinkStep

variable {s : State}

theorem State.setPort_link (p : Nat) (v : Port) : LinkStep s (s.setPort p v) := ⟨rfl⟩
theorem State.emit_link (o : Out) : LinkStep s (s.emit o) := ⟨rfl⟩
theorem State.count_link (f : Fld) (u n : Nat) : LinkStep s (s.count f u n) := ⟨rfl⟩
theorem State.setFld_link (f : Fld) (v u : Nat) : LinkStep s (s.setFld f v u) := ⟨rfl⟩

theorem State.moved_link (m : Mover) (n : Nat) : LinkStep s (s.moved m n) := by
  obtain ⟨t, h⟩ := s.moved_cases m n
  rw [h]; exact ⟨rfl⟩

theorem State.frame_link (p : Nat) (f : List Byte) : LinkStep s (s.frame p f) := by
  unfold State.frame
  simp only
  split <;> exact ⟨rfl⟩

theorem State.sendFlit_link (p seq ftype nslots : Nat) (payload : List Byte) :
    LinkStep s (s.sendFlit p seq ftype nslots payload) :=
  (State.setPort_link _ _).trans ((State.moved_link _ _).trans ((State.emit_link _).trans (State.frame_link _ _)))

theorem State.sendData_link (p nslots : Nat) (payload : List Byte) : LinkStep s (s.sendData p nslots payload) :=
  (State.setPort_link _ _).trans (State.sendFlit_link _ _ _ _ _)

theorem sendRest_link (p n : Nat) (s : State) : LinkStep s (sendRest p n s) := by
  induction n generalizing s with
  | zero => exact LinkStep.refl s
  | succ n ih =>
    rw [sendRest]
    simp only
    split
    · exact LinkStep.refl s
    · exact (State.setPort_link _ _).trans ((State.sendData_link _ _ _).trans (ih _))

theorem State.dropStale_link (p : Nat) : LinkStep s (s.dropStale p) := by
  unfold State.dropStale
  simp only
  split
  · exact LinkStep.refl s
  · split <;> split <;> exact ⟨rfl⟩

theorem pumpN_link (p n : Nat) (s : State) : LinkStep s (pumpN p n s) := by
  induction n generalizing s with
  | zero => exact sendRest_link _ _ _
  | succ n ih =>
    rw [pumpN]
    simp only
    split
    · exact sendRest_link _ _ _
    · split
      · exact sendRest_link _ _ _
      · exact (sendRest_link _ _ _).trans ((State.setPort_link _ _).trans (ih _))

theorem State.idleIfFull_link (p : Nat) : LinkStep s (s.idleIfFull p) := by
  unfold State.idleIfFull
  simp only
  split
  · exact State.sendFlit_link _ _ _ _ _
  · exact LinkStep.refl s

theorem State.pump_link (p : Nat) : LinkStep s (s.pump p) := by
  unfold State.pump
  simp only
  split
  · exact State.dropStale_link p
  · exact (State.dropStale_link p).trans ((pumpN_link _ _ _).trans (State.idleIfFull_link _))

theorem State.countSent_link (pk : Packet) (d : Bool) : LinkStep s (s.countSent pk d) := by
  unfold State.countSent; split
  · exact LinkStep.refl s
  · exact ⟨rfl⟩

theorem State.enqueue_link (p : Nat) (pk : Packet) : LinkStep s (s.enqueue p pk) :=
  (State.setPort_link _ _).trans (State.pump_link _)

theorem State.detour_link (pk : Packet) : LinkStep s (s.detour pk).2 := by
  unfold State.detour
  simp only
  repeat' split
  all_goals exact ⟨rfl⟩

/-- A packet sent by this package (R229): its routes and queues, and nothing else. -/
theorem State.send_link {t : State} {pk : Packet} (h : s.send pk = .ok t) : LinkStep s t := by
  unfold State.send at h
  split at h
  · cases h
  · revert h
    have hd := State.detour_link (s := s) pk
    generalize s.detour pk = r at hd
    obtain ⟨pk', s'⟩ := r
    simp only
    intro h
    split at h
    · split at h
      · cases h
        exact hd.trans ((State.countSent_link _ _).trans (State.enqueue_link _ _))
      · cases h
    · cases h

theorem State.sendQuiet_link (pk : Packet) : LinkStep s (s.sendQuiet pk) := by
  unfold State.sendQuiet
  split
  · rename_i t h; exact State.send_link h
  · exact LinkStep.refl s

theorem State.takeRx_link (p : Nat) (pk : Packet) : LinkStep s (s.takeRx p pk) := by
  unfold State.takeRx
  simp only
  split <;> exact ⟨rfl⟩

theorem State.forwardPacket_link (p : Nat) (pk : Packet) : LinkStep s (s.forwardPacket p pk) := by
  unfold State.forwardPacket
  split
  · exact ⟨rfl⟩
  · split
    · split
      · exact State.enqueue_link _ _
      · split <;> exact ⟨rfl⟩
    · exact ⟨rfl⟩

/-- A packet taken from a port (R226, R235): handed on, forwarded or dropped with its count. -/
theorem State.accept_link (p : Nat) (pk : Packet) : LinkStep s (s.accept p pk).2 := by
  have h1 := State.takeRx_link (s := s) p pk
  have hc : ∀ f, LinkStep s ((s.takeRx p pk).count f p) := fun f => h1.trans (State.count_link _ _ _)
  unfold State.accept
  simp only
  split
  · exact LinkStep.refl s
  · split
    · exact hc _
    · split
      · split
        · exact h1
        · exact hc _
      · split
        · exact hc _
        · split
          · exact hc _
          · split
            · exact hc _
            · split
              · exact h1
              · split
                · split
                  · exact h1
                  · exact hc _
                · exact h1.trans (State.forwardPacket_link _ _)

/-- A packet of the job (R234). -/
theorem State.sendJob_link {t : State} {pk : Packet} (h : s.sendJob pk = .ok t) : LinkStep s t := by
  unfold State.sendJob at h
  split at h
  · cases h
  · split at h
    · cases h
    · exact State.send_link h

/-- A flood on the UP ports (R239, R275). -/
theorem State.flood_link (pk : Packet) (except : Option Nat) (ok : Nat → Bool) : LinkStep s (s.flood pk except ok) := by
  unfold State.flood
  generalize List.range 32 = l
  induction l generalizing s with
  | nil => exact LinkStep.refl s
  | cons p l ih =>
    simp only [List.foldl_cons]
    split
    · exact (State.enqueue_link _ _).trans ih
    · exact ih

/-- A request of another endpoint routes and queues, or is answered at once with the status that refuses it (R203). -/
theorem LinkStep.ofSend {k n : Nat} (cls : Nat) (type : BitVec 6) (sub a : Nat) (data : List Byte) (hs : s.isSelf a = false) :
   ∃ u, LinkStep s u ∧ (s.sendRequest k n cls type sub a data = u ∨ ∃ st, s.sendRequest k n cls type sub a data = u.answer k n st []) := by
  unfold State.sendRequest
  simp only [hs, Bool.false_eq_true, if_false]
  split
  · rename_i t h
    exact ⟨t, State.sendJob_link h, .inl rfl⟩
  · exact ⟨s, LinkStep.refl s, .inr ⟨_, rfl⟩⟩

/-- A request of another endpoint leaves its context as it is but for the reply it may already have. -/
theorem State.sendRequest_far {k n : Nat} (cls : Nat) (type : BitVec 6) (sub a : Nat) (data : List Byte) (hs : s.isSelf a = false)
   (hw : mapWf ctxDefault s.harts = true) :
   let t := s.sendRequest k n cls type sub a data
   t.mem = s.mem ∧ t.ueDue = s.ueDue ∧ ∃ f : Rop → Rop, (∀ r, f r = { r with reply := (f r).reply }) ∧
    t.ctx k = { s.ctx k with rops := (s.ctx k).rops.map f } := by
  intro t
  obtain ⟨u, hl, h | ⟨st, h⟩⟩ := LinkStep.ofSend (k := k) (n := n) cls type sub a data hs
  · refine ⟨?_, ?_, id, fun r => rfl, ?_⟩
    · simp only [t, h, hl.mem]
    · simp only [t, h, hl.ueDue]
    · simp only [t, h, hl.ctx, List.map_id]
  · have hw' : mapWf ctxDefault u.harts = true := by rw [hl.harts]; exact hw
    refine ⟨?_, ?_, fun r => if r.num = n then { r with reply := some (st, []) } else r, ?_, ?_⟩
    · simp only [t, h, State.answer, State.onCtx_mem, hl.mem]
    · simp only [t, h, State.answer, State.onCtx_ueDue, hl.ueDue]
    · intro r; simp only; split <;> rfl
    · simp only [t, h, State.answer, State.onCtx, State.ctx_setCtx_same _ _ hw', hl.ctx]


end Sys2Proof.Machine
end

