-- ==== Sys2Proof/WellFormed.lean ====
section
/-! DEFINITION. Which commands their sender can form: operands for which the spec has an encoding, a length or a number. exec gives
every command a next state, these and any other. -/

namespace Sys2Proof

/-- Contexts 0 to 127 of cores 0 to 255 (R61), application cores 0 to 47 (R82). -/
def Hart.wf : Hart → Bool
  | .ctx _ _ => true
  | .px p => p.toNat < 48

/-- A thread that makes a register access exists. -/
def Source.wf : Source → Bool
  | .hart h => h.wf
  | .host | .mgmt | .bmc => true

/-- A packet carries at most 4,096 data bytes (Table 09-7). -/
def Packet.wf (p : Packet) : Bool := p.data.length ≤ 4096

/-- The reader of a marked line exists. -/
def Reader.wf : Reader → Bool
  | .hart h => h.wf
  | .remote _ p => p.wf
  | .engine _ _ | .heat _ | .update _ | .digest _ | .transfer _ | .split | .hostRead | .hostPartialWrite | .scrub | .record => true

/-- Tier units are 0 to 9 (Table 07-17). -/
def Corrected.wf : Corrected → Bool
  | .tier u => u.toNat < 10
  | .row _ | .sram => true

/-- DIMMs sit on channels 0 to 7, CXL devices on units 8 and 9, whose links train at 8, 16 or 32 GT/s and 4, 8 or 16 lanes (Tables 07-7,
07-18). -/
def TierFound.wf : TierFound → Bool
  | .empty u => u.toNat < 10
  | .dimm u _ _ _ _ _ => u.toNat < 8
  | .device u _ link _ =>
    (u.toNat == 8 || u.toNat == 9) && link.all fun l => [8, 16, 32].contains l.1.toNat && [4, 8, 16].contains l.2.toNat

/-- A word of opcodes custom-0 to custom-3, which the Xeol instructions have (R75). -/
def customWord (w : Word32) : Bool := [0x0B, 0x2B, 0x5B, 0x7B].contains (w.toNat % 128)

/-- A vector access has a size code of 0 to 2, and one of 64 bytes names an even register (R75, Table 03-7). -/
def vectorPair (size : BitVec 2) (v : Rg) : Bool := size != 3 && (size != 2 || v.toNat % 2 == 0)

/-- A flit is 256 bytes at Remal Link 2 and 128 at Remal Link 1 (R217). -/
def flitLength (f : List Byte) : Bool := f.length == 256 || f.length == 128

/-- The command is one that can be sent. -/
def Instr.wellFormed : Instr → Bool
  | .registerWrite src _ size _ => src.wf && 1 ≤ size && size ≤ 8
  | .standardInstruction h w => h.wf && !customWord w
  | .standardRemoteAccess h w => h.wf && !customWord w
  | .xldu h size _ _ => h.wf && size != 3
  | .xldv h size vd _ => h.wf && vectorPair size vd
  | .xstv h size _ vs => h.wf && vectorPair size vs
  | .xcasQ h rd _ rs2 => h.wf && rd.toNat % 2 == 0 && rs2.toNat % 2 == 0
  | .stackChannelRetrain _ _ _ r => r.wf
  | .memUe _ r => r.wf
  | .stackThermalSample _ readings => readings.length == 4
  | .stackCrcResend b => b.data.length == 64 && b.addr.toNat < 0x018000000000
  | .patrolScrub what => what.wf
  | .farTierLinkDown _ inFlight => inFlight.all fun e => e.2.wf
  | .tierZeroingDone unit => unit.toNat < 10
  | .priorityRequestRetry granule => granule < 2 ^ 27
  | .bar2Write off data => data != [] && off.toNat + data.length ≤ 2 ^ 28
  | .hostCxlMemAccess _ len data => match data with | none => 0 < len && len ≤ 64 | some d => 0 < d.length && d.length ≤ 64
  | .hostWindowTimeout _ _ r => r.wf
  | .mailboxSnoop line => line.bytes.length == 64
  | .mailboxPoll line => line.all fun l => l.length == 64
  | .configReadDone bytes => bytes.length ≤ 2 ^ 26
  | .upstreamLinkTrained _ width rate => [4, 8, 16].contains width.toNat && [8, 16, 32].contains rate.toNat
  | .bootReady tiers => tiers.all TierFound.wf
  | .powerEvaluation _ pairWatts => pairWatts.length == 16
  | .thermalPacingSample junctions => junctions.length == 32
  | .mgtUtilWindow percent => percent.toNat ≤ 100
  | .registerRead src _ size => src.wf && 1 ≤ size && size ≤ 8
  | .fenceI h | .xld h _ _ _ | .xst h _ _ _ | .xput h _ _ | .xget h _ _ | .xamoAdd h _ _ _ | .xamoMin h _ _ _
  | .xamoMax h _ _ _ | .xamoAnd h _ _ _ | .xamoOr h _ _ _ | .xamoSwap h _ _ _ | .xcasD h _ _ _ | .xfadd h _ _ _
  | .xfence h _ | .xhand h _ _ _ | .xyield h | .xbwait h _ _ _ | .xbwaitSatisfied h | .xsleep h _ _ | .xsleepTickReached h
  | .xfinish h _ _ _ | .xdsu h _ _ _ | .xpuu h _ _ _ _ | .xexit h | .remoteReply h _ | .remoteStopwatchExpiry h _
  | .waitStopwatchExpiry h | .quotaEntryFreed h | .unitQueueEntryFreed h | .contextAbortComplete h | .xtmma h _ _ _ _
  | .xtcvt h _ _ _ _ _ | .xtrd h _ _ _ _ _ | .xtzero h _ _ | .xtfill h _ _ _ | .xtspill h _ _ _ | .xtwait h _ _
  | .xtstat h _ _ _
    => h.wf
  | .puuCommit src _ | .memCommit src _ | .regionClear src _ | .retrain src _ | .lnkCommit src _ | .routeEntryWrite src _
  | .send src _ _ | .recv src _ _ | .round src _ _ | .timCfgWrite src _ | .launchPost src _ | .launchCancel src _
  | .leaves src _ _ | .root src _ _ | .full src _ _ | .bind src _ _ | .start src _ | .seal src _ | .check src _
  | .restore src _ | .abandon src _ | .contextAbort src _ | .coreReset src _ | .clusterReset src _ | .computeReset src
  | .packageReset src | .coldReset src | .biasFlip src _ | .hifCommit src _ | .mboxAddrWrite src _ | .bootGo src _
  | .fuseRevoke src _ | .fuseAdvance src _ | .pwrCommit src _ | .forceAwake src _ | .mgtTelCommit src _
  | .watchdogKick src _
    => src.wf
  | .loadReq _ pkt | .storeReq _ pkt | .putReq _ pkt | .getReq _ pkt | .amoReq _ pkt | .casReq _ pkt | .faddReq _ pkt
  | .handReq _ pkt | .dataRsp _ pkt | .ackRsp _ pkt | .packetTransit _ pkt | .rts _ pkt | .cts _ pkt | .busy _ pkt
  | .mismatch _ pkt | .cancel _ pkt | .colData _ pkt | .arrive _ pkt | .release _ pkt | .syncReq _ pkt _ _
  | .syncRsp _ pkt _ | .refuse _ pkt | .poison _ pkt
    => pkt.wf
  | .dataFlit _ flit _ | .nak _ flit _ | .idleFlit _ flit _ | .param _ flit _
    => flitLength flit
  | .engineInstructionStart _ _ | .engineInstructionComplete _ _ _ | .relayHandover _ | .engineColumnFault _ | .heatStart _
  | .fk _ _ _ | .id _ _ _ | .fd _ _ _ | .mass _ _ _ | .step _ _ _ | .heatComplete _ | .dsuLaneFault _ | .norm _ | .begin _
  | .apply _ _ | .repair _ _ | .puuCommandComplete _ _ _ | .puuPendingCommitTaken _ | .puuUnitFault _ | .utilUpdate _
  | .rowSpareComplete _ | .regionClearDone | .portTrainingDone _ _ | .portTrainingRetry _
  | .paramPeriodicSend _ | .replayTimeout _ | .fastRetrainDone _ _ | .tagDrainEnd _ | .rtsRetry _ | .transferTimeout _
  | .relayOrphanTimeout _ | .syncExchange _ | .holdoverLimit | .syncInEdge _ | .syncOutPulse | .refuseKeyRetentionEnd _ _
  | .startCount | .digestCommandComplete _ | .digEngineFault _ | .granuleCopyDone _ | .priorityCopyDone _
  | .splitStartComplete | .splEngineFault | .resetComplete | .d2dPathFail | .memControllerFail _ | .colUnitFault _
  | .eventRingConsWrite _ | .eventRecordForward | .hdmDecoderCommit _ _ _ | .biasFlipDone | .mboxNop | .mboxLaunch
  | .mboxCancel | .load | .unload | .mboxReset | .mailboxReply | .firmwareVerifyDone | .doeDiscovery _ _
  | .cdatTableAccess _ | .doeAbort _ | .getCert _ | .quote _ | .quoteSigned _ | .extend _ | .fuseProgramDone
  | .inputSample _ _ _ | .powerOffComplete | .railFault _ _ | .restEntry _ | .pllLocked _ | .telemetrySnapshot
  | .watchdogExpiry | .mgtRestartDone | .i3cReadRequest _ | .i3cRegisterWrite _ | .i3cPrivateRead | .entdaa _ | .setdasa _ _
  | .setnewda _ | .rstdaa | .enec _ | .disec _ | .getpid | .getbcr | .getdcr | .getstatus | .getmwl | .getmrl
  | .pwrGoodRise _ _ _ | .pwrGoodFall | .coldRstNAssert | .coldRstNDeassert _ _ _ | .pkgRstNAssert | .pkgRstNDeassert
  | .perstNAssert | .perstNDeassert | .refclkLoss | .refclkRestored _ _ _ | .pinPulseRejected _ | .configWrite _
  | .alwaysOnPowerUp | .alwaysOnPowerLoss | .transferComplete _ | .splitCommandComplete
    => true

end Sys2Proof
end

