-- ==== Sys2Proof/Tests/Slice0.lean ====
section
/-! SUPPORT. Tests: the commands no sender can form, the spec's worked examples, and for each obligation with hypotheses the states
and operands at which the theorem named after it applies the obligation, one for each of its clauses, all hypotheses decided. -/

set_option maxRecDepth 20000
set_option Elab.async false

namespace Sys2Proof.Tests

open Sys2Proof Sys2Proof.Machine

/-! ### Commands that no sender can form -/

/-- One line of each check of Instr.wellFormed is refused. -/
theorem test_ill_formed : ([
    .registerWrite (.hart (.px 48)) 0 8 0, .registerWrite .host 0 0 0, .registerWrite .host 0 9 0, .registerRead .host 0 9,
    .standardInstruction (.ctx 0 0) 0x0B, .standardRemoteAccess (.ctx 0 0) 0x7B, .xldu (.ctx 0 0) 3 1 2, .xldv (.ctx 0 0) 3 2 1,
    .xldv (.ctx 0 0) 2 3 1, .xstv (.ctx 0 0) 2 1 3, .xcasQ (.ctx 0 0) 1 2 4, .xcasQ (.ctx 0 0) 2 1 3, .xfence (.px 48) 0,
    .memUe 0 (.hart (.px 50)), .stackCrcResend ⟨0, 0, [1], 0⟩, .stackCrcResend ⟨0x018000000000, 0, List.replicate 64 0, 0⟩,
    .stackChannelRetrain 0 true 0 (.hart (.px 50)), .patrolScrub (.tier 10), .stackThermalSample 0 [none],
    .farTierLinkDown 0 [(0, .hart (.px 63))], .tierZeroingDone 10, .priorityRequestRetry (2 ^ 27), .bar2Write 0xFFFFFFF [1, 2],
    .bar2Write 0 [], .hostCxlMemAccess 0 65 none, .hostCxlMemAccess 0 1 (some []), .hostWindowTimeout 0 true (.hart (.px 50)),
    .mailboxSnoop ⟨0, [1]⟩, .mailboxPoll (some []), .upstreamLinkTrained true 5 8, .upstreamLinkTrained true 4 9, .bootReady [.empty 10],
    .bootReady [.dimm 8 1 1 4 64 []], .bootReady [.device 7 0 none 64], .bootReady [.device 8 0 (some (5, 16)) 64], .powerEvaluation 0 [],
    .thermalPacingSample [1], .mgtUtilWindow 101, .send (.hart (.px 48)) 0 0,
    .loadReq 0 ⟨0, 0, 0, 0, 0, 0, false, 0, 0, 0, 0, 0, List.replicate 4097 0⟩, .dataFlit 0 [0] false] : List Instr).map Instr.wellFormed
    = List.replicate 41 false := by decide +kernel

/-- A configuration memory longer than 64 MiB is refused. -/
theorem test_config_length (bytes : List Byte) (h : 2 ^ 26 < bytes.length) : (Instr.configReadDone bytes).wellFormed = false := by
  simp only [Instr.wellFormed, decide_eq_false_iff_not]; omega

/-- Commands that can be sent. -/
theorem test_well_formed : ([
    .registerWrite .host 0 8 0, .registerRead (.hart (.px 47)) 0 1, .standardInstruction (.ctx 0 0) 0x13, .xldu (.ctx 0 0) 2 1 2,
    .xldv (.ctx 0 0) 2 2 1, .xcasQ (.px 0) 2 4 6, .stackThermalSample 0 [none, some 1, none, none], .tierZeroingDone 9, .patrolScrub .sram,
    .mailboxPoll none, .bootReady [.dimm 7 1 1 4 64 [], .device 8 0 (some (32, 16)) 64], .priorityRequestRetry (2 ^ 27 - 1), .bar2Write 0xFFFFFFE [1, 2], .hostCxlMemAccess 0 64 none, .upstreamLinkTrained false 16 32,
    .mgtUtilWindow 100, .idleFlit 0 (List.replicate 256 0) false, .idleFlit 0 (List.replicate 128 0) false, .mboxNop] : List Instr).map
    Instr.wellFormed = List.replicate 19 true := by decide +kernel

/-- The table gives its rows no bits. -/
theorem test_table_word : decodeTableWord 0 0 = none ∧ decodeTableWord 32 0x13 = none := by decide

/-- 03, Tables 03-7 and 03-8: words assembled from their columns, funct7, rs2, rs1, funct3, rd, opcode. XAMO.SWAP, XLDV.32 in form,
XBWAIT, XEXIT; XEXIT with a register field that its row marks 0 is no instruction (R75). -/
theorem test_xeol_words : decodeXeol 0b0001000_00100_00011_101_00010_0001011 = some (.amo .swap 2 3 4)
    ∧ decodeXeol 0b0000010_00000_00010_001_00001_0001011 = some (.ldv 1 1 2)
    ∧ decodeXeol 0b0000001_00111_00110_000_00101_0101011 = some (.bwait 5 6 7)
    ∧ decodeXeol 0b0000110_00000_00000_000_00000_0101011 = some .exit
    ∧ decodeXeol 0b0000110_00000_00000_000_00001_0101011 = none := by decide +kernel

/-! ### Small states -/

/-- A READY context at the start of stack 0, both stopwatches at 1,000,000 ticks. -/
def c0 : Ctx := { Ctx.empty with st := .ready, pc := 0xFFFF000000000000, thread := some 0, xwlim := 1000000, xrlim := 1000000 }
/-- Context 0 of core 0. -/
def h0 : Hart := .ctx 0 0
/-- The reset state with one context. -/
def wc (c : Ctx) : State := { State.reset with harts := [(0, c)] }
/-- The same with these registers. -/
def wx (x : List (Nat × Word64)) : State := wc { c0 with x := x }
/-- An outstanding remote operation. -/
def r0 : Rop := ⟨0, 0, 0, .store, true, 100, none⟩
/-- A communicator of this package and another. -/
def comm0 : Comm := ⟨0x101, 0, 0, 0, 0x10, 0, 0, [0x10, 0x11], 2, 0, 0, none, none, 0, 0, none, none, none⟩
/-- A put descriptor in core 0's SRAM: 64 bytes of endpoint 0x11 at stack 0, locally core 0's SRAM at 0x1000. -/
def wput : State :=
  { wx [(5, 0xFFFF0D0000000000)] with
    mem := memPut [] 0x0D0000000000 (leBytes 8 0x0011000000000040 ++ leBytes 8 0xFFFF0D0000001000 ++ leBytes 4 64) }
/-- A run image with 64 solver lanes. -/
def lanes64 : Image := ⟨List.replicate 18 0 ++ [64, 0] ++ List.replicate 236 0, [], 0⟩
/-- An FK heat of one problem at 0x1000 of cluster 0's SRAM, its output record at 0x2000. -/
def heatDesc : List Byte :=
  [0, 1, 0, 0] ++ leBytes 4 256 ++ leBytes 8 0xFFFF0C0000001000 ++ leBytes 8 0xFFFF0C0000002000 ++ leBytes 4 128 ++ List.replicate 36 0
/-- The heat's descriptor at the start of cluster 0's SRAM, named in x5. -/
def wheat : State :=
  { wx [(5, 0xFFFF0C0000000000)] with mem := memPut [] 0x0C0000000000 heatDesc, image := some lanes64 }
/-- A BEGIN for lap 1 on unit 0: record and cell in stack 0, SCHED 0, CLIP_MAX and LR_MAX 1.0. -/
def beginDesc : List Byte :=
  [1, 0, 0, 0, 0, 0, 0, 0] ++ leBytes 8 0xFFFF000000010000 ++ leBytes 8 0xFFFF000000020000 ++ leBytes 8 1
    ++ leBytes 8 0x3FF0000000000000 ++ leBytes 8 0x3FF0000000000000 ++ List.replicate 80 0
/-- The command's descriptor in cluster 0's SRAM, named in x5. -/
def wbegin : State := { wx [(5, 0xFFFF0C0000000000)] with mem := memPut [] 0x0C0000000000 beginDesc }
/-- An XTMMA of one FP32 product in core 0's SRAM: A at 0x1000, B at 0x2000, K_LEN 1, LAST_K. -/
def mmaDesc : List Byte :=
  leBytes 8 0xFFFF0D0000001000 ++ leBytes 8 0xFFFF0D0000002000 ++ List.replicate 16 0 ++ leBytes 4 64 ++ leBytes 4 64
    ++ List.replicate 4 0 ++ leBytes 4 1 ++ List.replicate 4 0 ++ [0x11, 1, 1, 1] ++ List.replicate 8 0
/-- An output of one FP32 element at 0x1000 of core 0's SRAM (XTRD). -/
def rdDesc : List Byte := leBytes 8 0xFFFF0D0000001000 ++ leBytes 4 64 ++ [0, 0, 1, 0] ++ List.replicate 8 0 ++ [1, 1] ++ List.replicate 38 0
/-- An E4M3 output of one element at 0x1000 with its scale at 0x3000, from FP32 at 0x2000 (XTCVT). -/
def cvtDesc : List Byte :=
  leBytes 8 0xFFFF0D0000001000 ++ leBytes 4 64 ++ [8, 0, 4, 0] ++ leBytes 8 0xFFFF0D0000003000 ++ [1, 1, 1] ++ List.replicate 5 0
    ++ leBytes 8 0xFFFF0D0000002000 ++ leBytes 4 64 ++ List.replicate 20 0
/-- A descriptor at the start of core 0's SRAM, named in x5; x6 selects engine 0, slot 0. -/
def weng (d : List Byte) : State := { wx [(5, 0xFFFF0D0000000000)] with mem := memPut [] 0x0D0000000000 d }
/-- One accepted instruction of engine 0: not complete, or complete with a status. -/
def wtensor (st : Option Half) : State := wc { c0 with tensor := [(0, 0, st)] }
/-- ld x7, 0(x5) and sd x6, 0(x5) of stack 0 at 0x1000. -/
def wls : State := wx [(5, 0xFFFF000000001000), (6, 0x1122334455667788)]
/-- A halfword load whose reply, 0xFFFE, has come. -/
def ldRop : Rop := { r0 with kind := .load 2 true 7, posted := false, reply := some (0, [0xFE, 0xFF]) }
/-- A context that has all its entries out. -/
def wfull : Ctx := { c0 with x := [(5, 0x0011000000000001)], rops := (List.range 16).map fun i => { r0 with num := i, entry := i }, nextOp := 16 }
/-- 05: one body of the planar arm: PARENT, JTYPE 0 about z, PLACE_T x, PLACE_Q 1, mass and inertia of the link. -/
def armBody (parent : Byte) (x m i : Nat) : List Byte :=
  let one := leBytes 8 0x3FF0000000000000
  let zero (n : Nat) : List Byte := List.replicate (8 * n) 0
  [parent, 0, 0, 0, 0, 0, 0, 0] ++ (zero 2 ++ one) ++ (leBytes 8 x ++ zero 2) ++ (one ++ zero 3) ++ leBytes 8 m
    ++ (leBytes 8 0x3FE0000000000000 ++ zero 2) ++ (zero 1 ++ leBytes 8 i ++ leBytes 8 i ++ zero 3) ++ zero 2 ++ zero 1
/-- 05: the planar arm of three revolute joints with q = qd = u = 0, body 2's mass and inertia given. -/
def arm (op m i : Nat) : Prob :=
  { op := op, tau64 := 40, tau32 := 20,
    desc := [3, 0, 0, 0, 1, 0, 0, 0] ++ List.replicate 16 0 ++ leBytes 8 0xC0239EB851EB851F ++ List.replicate 32 0
      ++ armBody 0xFF 0 0x4000000000000000 0x3FD0000000000000
      ++ armBody 0 0x3FF0000000000000 0x4000000000000000 0x3FD0000000000000
      ++ armBody 1 0x3FF0000000000000 m i ++ List.replicate 192 0 }
/-- An engine instruction of context 0, slot 0. -/
def i0 (op : EngOp) (d : List Byte) : EngInstr := ⟨0, 0, op, 0, false, false, d, 0, 3, false, false, false, false⟩
/-- An EXACT FP32-range slot that holds 1.0 in its first element. -/
def slot1 : Slot := ⟨true, false, false, [(0, ⟨0x1000000000000001, 2 ^ 149⟩)]⟩
/-- Engine 0 with a queue, lanes and slot 0. -/
def wengs (q : List EngInstr) (a x : Option EngRun) (v : Slot) : State :=
  { State.reset with engines := [(0, { Engine.empty with slot0 := v, queue := q, array := a, xfer := x })] }
/-- An instruction that has run since tick 0. -/
def run0 (i : EngInstr) : EngRun := ⟨i, 0, false, none⟩
/-- One heat as issued: OP, one problem at 0x10000 of stack 0, strides 1,024, outputs at 0x20000. -/
def heatOf (op : Byte) : Heat :=
  ⟨0, 0, [op, 1, 0, 0] ++ leBytes 4 1024 ++ leBytes 8 0xFFFF000000010000 ++ leBytes 8 0xFFFF000000020000 ++ leBytes 4 1024
    ++ List.replicate 36 0, false⟩
/-- Solver unit 0 runs one heat, the lanes still to run given; memory holds the planar arm. -/
def wdsu (op : Byte) (todo : List (Nat × Nat)) (mem : Memory) : State :=
  { wc { c0 with st := .waiting, wait := .dsu 7 0 0 100 } with
    dsus := [(0, ⟨[], [⟨heatOf op, 40, 20, todo, 0⟩], 1, false⟩)], mem := mem, image := some lanes64 }
/-- The planar arm where the heat's problem lies. -/
def armMem : Memory := memPut [] 0x10000 (arm 0 0x4000000000000000 0x3FD0000000000000).desc
/-- A heat waits in unit 0. -/
def wheatq (m : Option Image) : State := { State.reset with dsus := [(0, ⟨[heatOf 3], [], 1, false⟩)], image := m }
theorem stack_not_hwin {a : Nat} (h : a < 0x018000000000) (o : Nat) : place a ≠ .hwin o := by simp [place, h]
/-- 06: the step record of lap 1, as the example gives it. -/
def lapOne : List Byte :=
  leBytes 8 1 ++ leBytes 8 0 ++ leBytes 8 1 ++ leBytes 8 0x3FD0000000000000 ++ leBytes 8 0x3FF0000000000000
    ++ leBytes 8 0x3F50000000000000 ++ leBytes 8 0x4050000000000000 ++ leBytes 8 0
/-- APPLY or REPAIR of one AdamW parameter of stack 0, its arrays at 0x100000 to 0x140000, hyperparameters of the example in 06. -/
def updDesc (op gfmt : Byte) (g : Nat) : List Byte :=
  [op, 0, gfmt, 0] ++ leBytes 4 1 ++ leBytes 8 0xFFFF000000100000 ++ leBytes 8 0xFFFF000000110000 ++ leBytes 8 0xFFFF000000120000
    ++ leBytes 8 g ++ leBytes 8 0xFFFF000000140000 ++ leBytes 8 0 ++ List.replicate 8 0 ++ leBytes 8 0xFFFF000000010000
    ++ List.replicate 8 0 ++ leBytes 4 0x3F600000 ++ leBytes 4 0x3E000000 ++ leBytes 4 0x3F700000 ++ leBytes 4 0x3D800000
    ++ leBytes 4 0x35800000 ++ leBytes 4 0x3D800000 ++ List.replicate 24 0
/-- A running command of unit 0, and unit 0 with it. -/
def prun (d : List Byte) (half : Bool) : PuuRun :=
  { cmd := ⟨0, 0, d, false⟩, record := lapOne, replayed := true, start := 0, block := 0, half := half, updated := 0, rolled := 0,
    already := 0, refused := 0, first := 0, rolledParams := 0, status := 0, finished := false, parkFrom := none, parkTicks := 0 }
def wpuu (r : PuuRun) (mem : Memory) : State := { State.reset with puus := [(0, { Puu.empty with run := some r })], mem := mem }
/-- A NORM of one FP32 gradient 0.5. -/
def normDesc : List Byte :=
  [0, 1, 0, 0, 0, 0, 0, 0] ++ leBytes 8 0xFFFF000000130000 ++ leBytes 8 0xFFFF000000020000 ++ leBytes 8 1 ++ List.replicate 96 0
/-- The gradient 0.5 at 0x130000, the weight 1.0 at 0x100000. -/
def gradMem : Memory := memPut (memPut [] 0x130000 (leBytes 4 0x3F000000)) 0x100000 (leBytes 4 0x3F800000)
/-- The block's tags. -/
def tagMem (m w : Nat) : Memory := memPut gradMem 0x140000 (leBytes 8 m ++ leBytes 8 w)
/-- A context that waits for unit 0's command, which has done all. -/
def wdone : State :=
  { wc { c0 with st := .waiting, wait := .puu 7 0 0 100 } with
    puus := [(0, { Puu.empty with run := some { prun (normDesc.take 120 ++ leBytes 8 0xFFFF000000030000) false with finished := true } })] }
/-- A package that is READY (phase 5). -/
def rdy : State := State.reset.setFld F.HIF_BOOT_STATUS.PHASE 5
theorem cell_not_hwin (d : List Byte) (h : offOf (prun d false).cmd.cell = 0x20000) (o n : Nat) (hn : n < 320) :
    place (offOf (prun d false).cmd.cell + n) ≠ .hwin o := stack_not_hwin (by omega) o
/-- A row of stack 0. -/
def row0 : RowAddr := ⟨0, 1, 2, 3, 4⟩
/-- The row's key, and three others of its bank. -/
def rowsFull : List Nat := [row0, { row0 with row := 5 }, { row0 with row := 6 }, { row0 with row := 7 }].map rowKey
/-- A staged word of a READY package. -/
def stg (k : Nat) (v : Word64) : State := { rdy with staged := [(k, v)] }
/-- A present, uninitialised tier unit of 64 GiB, and READY. -/
def tier0 (u : Nat) : State := (rdy.setFld F.TIER_INFO.PRESENT 1 u).setFld F.TIER_INFO.CAPACITY 64 u
/-- Endpoint 0 with a LOCAL install of tag 1 staged. -/
def lnk0 : State := (stg R.LNK_TAG_ENTRY 0x60001).setFld F.FAB_SELF.ENDPOINT 0
/-- 65,536 ticks in which stack 3 moved 80 GB, port 1 sent 3 GB and tier unit 2 moved 2 GB. -/
def wutil : State :=
  { (tier0 2).setFld F.TIER_INFO.RATE 6400 2 with
    pwr := { Pwr.empty with ticks := 65536 },
    traffic := ⟨0, 0, 0, [(Mover.key (.stack 3), 80000000), (Mover.key (.tier 2), 2000000), (Mover.key (.tx 1), 3000000)], 0, 0⟩ }
/-- Endpoint 0x40, READY, with tag 1 installed LOCAL over ports 0 and 1, both UP; the peer of port 0 is 0x41. -/
def net : State :=
  (((((((rdy.setFld F.FAB_SELF.ENDPOINT 0x40).setFld F.LNK_TAG_ENTRY.STATE 1).setFld F.LNK_TAG_ENTRY.LOCAL 1).setFld
    F.LNK_TAG_ENTRY.TAG 1).setFld F.LNK_TAG_PORTS.PORTS 3).setFld F.LNK_PORT_STATE.STATE 2 0).setFld F.LNK_PORT_STATE.PEER_EP
    0x41 0).setFld F.LNK_PORT_STATE.STATE 2 1
/-- A packet of endpoint 0x41 to this package. -/
def pkt (type sub : BitVec 6) (word : Word64) (data : List Byte) : Packet := ⟨1, 0x40, 0x41, type, 0, 0, false, 0, 0, 4, sub, word, data⟩
/-- The package before READY. -/
def netBoot : State := net.setFld F.HIF_BOOT_STATUS.PHASE 4
/-- Region 1 is OWNED by an endpoint. -/
def netOwned (o : Half) : State := { net with regions := [(1, ⟨2, o, 0⟩)] }
/-- Region 0 is OWNED by endpoint 0x41. -/
def net0 : State := { net with regions := [(0, ⟨2, 0x41, 0⟩)] }
/-- A package before it has an endpoint ID, port 0 in a state. -/
def wport (st : Nat) (q : Port) : State := { net.setFld F.LNK_PORT_STATE.STATE st 0 with ports := if q == Port.empty then [] else [(0, q)] }
/-- A Remal Link 2 flit with a header. -/
def flitOf (h : Nat) (payload : List Byte) : List Byte :=
  let body := leBytes 8 h ++ payload ++ List.replicate (240 - payload.length) 0
  body ++ leBytes 8 (crc64 body)
/-- What endpoint 0x41 says of itself on its port 8. -/
def peerOf (port : Byte) : List Byte :=
  [1, 2, 0x41, 0, port, 0x7F, 0, 0] ++ leBytes 2 272 ++ leBytes 2 64 ++ leBytes 2 7872 ++ leBytes 2 512 ++ List.replicate 16 0
/-- The net one flit held for replay since tick 0. -/
def wheld : State := { wport 2 { Port.empty with peerSeen := true, replay := [(0, 1, List.replicate 16 0, 0)], nextSeq := 1 } with now := 4096 }
/-- A peer whose PARAM flit has come, one flit received. -/
def wpeer : State := wport 2 { Port.empty with rxSeq := 0, peerSeen := true }
/-- Entry 0 DRAINING since tick 2^20, LOCAL; region 3 OWNED. -/
def wdrain : State :=
  { (rdy.setFld F.LNK_TAG_ENTRY.STATE 2).setFld F.LNK_TAG_ENTRY.LOCAL 1 with regions := [(3, ⟨2, 0x41, 0⟩)] }
/-- A later time. -/
def atTick (n : Nat) (s : State) : State := { s with now := n }
/-- A RECV of 16 bytes to 0x1000 of cluster 0's SRAM on communicator 0x101, its completion word at 0x2000. -/
def recvDesc : List Byte :=
  [1, 0, 15, 0] ++ leBytes 4 16 ++ leBytes 8 0xFFFF0C0000001000 ++ [0, 0, 1, 0] ++ leBytes 2 0x101 ++ [0, 0] ++ leBytes 4 7 ++ leBytes 4 2
    ++ leBytes 8 0xFFFF0C0000002000 ++ List.replicate 24 0
/-- A SEND of 16 bytes to endpoint 0x41. -/
def sendDesc : List Byte :=
  [0, 0, 15, 0] ++ leBytes 4 16 ++ leBytes 8 0xFFFF0C0000001000 ++ [0x41, 0, 0, 0] ++ leBytes 2 0x101 ++ [0, 0] ++ leBytes 4 7 ++ leBytes 4 2
    ++ leBytes 8 0xFFFF0C0000002000 ++ List.replicate 24 0
/-- The same to the package itself. -/
def selfDesc : List Byte := sendDesc.set 16 0xFF |>.set 17 0xFF
/-- A ROUND of one FP64 cell at 0x1000 into 0x3000. -/
def roundDesc : List Byte :=
  [2, 2, 0, 0] ++ leBytes 4 1 ++ leBytes 8 0xFFFF0C0000001000 ++ [0, 0, 0, 0] ++ leBytes 2 0x101 ++ [0, 0] ++ leBytes 4 7 ++ leBytes 4 2
    ++ leBytes 8 0xFFFF0C0000002000 ++ leBytes 8 0xFFFF0C0000003000 ++ List.replicate 16 0
/-- A communicator of endpoints 0x40 and 0x41 at index 0. -/
def comm1 : Comm := { comm0 with members := [0x40, 0x41] }
/-- A descriptor at the start of cluster 0's SRAM. -/
def wpost (d : List Byte) : State := { net with mem := memPut [] 0x0C0000000000 d, comms := [(0, comm1)] }
/-- One transfer of unit 0. -/
def wxf (x : Xfer) : State := { net with xfers := [(5, x)], comms := [(0, comm1)] }
def recvX (p : XPhase) (srcs : List XSrc) : Xfer := ⟨0, recvDesc, 1000, 100, p, srcs, 0, false⟩
def sendX (d : List Byte) (p : XPhase) : Xfer := ⟨0, d, 1000, 100, p, [], 0, false⟩
/-- A control packet of endpoint 0x41 for transfer 5. -/
def ctl (sub : BitVec 6) (payload : List Byte) : Packet := pkt PT.COL_CTL sub 0 (slice payload 0 40)
/-- A communicator that one package gathers at. -/
def lineComm : Comm := { comm1 with members := [0x41, 0x42], lap := some 3, arrived := 2, ownTick := 500 }
/-- The RELEASE of lap 3 from the node's leader, 0x41, to 0x42. -/
def lineRelease : Packet :=
  { ctl 6 (Arrive.bytes 0x101 ⟨ST.OK, 3, 520, 0x41, 400, 0⟩) with dest := 0x42 }
/-- A context that waits at the line. -/
def waits : Ctx := { c0 with st := .waiting, wait := .finish 7 0x101 3 5000 ST.OK }
def lineMember : State := { net.setFld F.FAB_SELF.ENDPOINT 0x42 with comms := [(0, lineComm)], harts := [(0, waits)] }
/-- The root's own arrival, and the other group's. -/
def ownArrive : Arrive := ⟨ST.OK, 3, 500, 0x40, 500, 1⟩
def rootComm : Comm := { lineComm with members := [0x40, 0x141], atRoot := some ownArrive }
def lineArrive : Packet := { ctl 5 (Arrive.bytes 0x101 ⟨ST.OK, 3, 620, 0x141, 600, 1⟩) with src := 0x141 }
def lineRoot : State := { net with comms := [(0, rootComm)], harts := [(0, waits)] }
/-- A tile that no transfer took. -/
def worphan : State := { atTick 0x100000000 (wxf (sendX selfDesc (.rts 0 true))) with tiles := [⟨0, 3, 0, [(0, 16)], 0⟩] }
/-- The net below a parent on port 0, in a state of the time tree. -/
def child (st : Nat) (y : Sync) : State := { net.setFld F.TIM_STATE.SYNC st with sync := { y with cfg := 0 } }
/-- A packet of the time tree from endpoint 0x41. -/
def timePkt (sub : BitVec 6) (data : List Byte) : Packet := { pkt PT.TIME sub 0 data with tag := 0 }
def reqPkt : Packet := timePkt 0 (leBytes 8 1000 ++ [3] ++ List.replicate 7 0)
/-- The parent's answer: request at 1000 3/16, received at 2000 5/16, turnaround 16/16; depth 1, state LOCKED. -/
def rspPkt : Packet :=
  timePkt 1 (leBytes 8 1000 ++ [3] ++ List.replicate 7 0 ++ leBytes 8 2000 ++ [5, 0, 1, 2] ++ List.replicate 4 0 ++ leBytes 4 16 ++ List.replicate 4 0)
/-- The answer of a parent in step: received at 1010. -/
def nearPkt : Packet :=
  timePkt 1 (leBytes 8 1000 ++ [3] ++ List.replicate 7 0 ++ leBytes 8 1010 ++ [3, 0, 1, 2] ++ List.replicate 4 0 ++ leBytes 4 16 ++ List.replicate 4 0)
def asked (st : Nat) (now : Nat) (y : Sync) : State := { child st { y with sent := some (1000, 3) } with now := now }
/-- A launch record of tag 1: START 100,000,000, lap 1, ARG 9, two threads, canonical false, one pass. -/
def recOf (start : Nat) (flags : Byte) : List Byte :=
  leBytes 2 1 ++ leBytes 2 1 ++ [flags, 0, 0, 0] ++ leBytes 8 start ++ leBytes 8 1 ++ leBytes 8 9 ++ leBytes 4 0 ++ leBytes 4 2
    ++ List.replicate 216 0
/-- A loaded image: one context on core 0, ENTRY 0xFFFF000000004000, 4,096 bytes of stack. -/
def imgOne : Image :=
  ⟨List.replicate 12 0 ++ [1] ++ List.replicate 19 0 ++ leBytes 8 0xFFFF000000004000 ++ List.replicate 8 0 ++ leBytes 4 4096
    ++ List.replicate 4 0 ++ [1] ++ List.replicate 199 0, List.replicate 64 0, 0⟩
/-- A record in stack 0 of a package that can be launched. -/
def wpostL (r : List Byte) : State := { net with mem := memPut [] 0 r, image := some imgOne }
def wpend (start : Nat) : State := { net with image := some imgOne, pendingLaunch := some ⟨recOf start 2, 0⟩ }
/-- A REFUSE of a key. -/
def refPkt (start : Nat) : Packet := { pkt PT.LAUNCH 0 0 (leBytes 8 start ++ leBytes 2 1 ++ [4, 0] ++ leBytes 2 0x41 ++ [0, 0]) with tag := 0 }
def withKey (s : State) : State := { s with keys := [⟨1, 5000, 25000, 0x41⟩] }
/-- A digest command: OP, FLAGS, 8 bytes of stack 0 at 0x1000 to 0x2000, its completion word at 0x3000. -/
def digDesc (op flags : Byte) : List Byte :=
  [op, flags, 0, 0, 0, 0, 0, 0] ++ leBytes 8 0xFFFF000000001000 ++ leBytes 8 8 ++ leBytes 8 8 ++ leBytes 8 0 ++ leBytes 8 0xFFFF000000002000
    ++ leBytes 8 0 ++ leBytes 8 0xFFFF000000003000
/-- The descriptor in stack 0, and queued commands of engine 0. -/
def wdig (d : List Byte) (q : List DigCmd) : State :=
  { rdy with mem := memPut [] 0x4000 d, digs := if q.isEmpty then [] else [(0, ⟨q, false⟩)] }
/-- A split command: OP, communicator, lap, image, table, capacity, extents, completion word at 0x3000 of stack 0. -/
def splDesc (op : Byte) (comm lap image table arg count : Nat) : List Byte :=
  [op, 0, 0, 0] ++ leBytes 2 comm ++ [0, 0] ++ leBytes 8 lap ++ leBytes 8 image ++ leBytes 8 table ++ leBytes 8 0 ++ leBytes 8 arg
    ++ leBytes 4 count ++ List.replicate 4 0 ++ leBytes 8 0xFFFF000000003000 ++ List.replicate 64 0
/-- Near tier 0 holds 1 GiB; lap 3 of communicator 0x101 is done; one extent, granule 1, is listed at 0x5000. -/
def wtier : State :=
  { ((net.setFld F.TIER_INFO.PRESENT 1).setFld F.TIER_INFO.INIT_DONE 1).setFld F.TIER_INFO.CAPACITY 1 with
    comms := [(0, { comm1 with lapDone := some 3 })] }
def extTable : List Byte := leBytes 8 0xFFFF000000200000 ++ leBytes 8 0x200000
def wspl (d : List Byte) : State := { wtier with mem := memPut (memPut [] 0x4000 d) 0x5000 extTable }
def startDesc : List Byte := splDesc 0 0x101 3 0xFFFF020000000000 0xFFFF000000005000 0x400000 1
def sealDesc : List Byte := splDesc 1 0 0 0xFFFF020000000000 0xFFFF000000005000 0 0
def checkDesc : List Byte := splDesc 2 0 0 0xFFFF020000000000 0xFFFF000000006000 0 0
def restDesc : List Byte := splDesc 3 0x101 0 0 0xFFFF000000006000 5 1
def abanDesc : List Byte := splDesc 4 0 0 0 0 0 0
/-- A command that runs. -/
def srun (d : List Byte) (left : List (Nat × Nat)) (copied : Bool) : SplRun := ⟨⟨d, .host, false⟩, 0, left, copied⟩
def wrun (r : SplRun) (held : List Nat) (mem : Memory) : State := { wtier with splRun := some r, protectedGranules := held, mem := mem }
/-- An unsealed image of 8 data bytes at the near tier's start, and its roster at 0x5000. -/
def imgData : List Byte := [1, 2, 3, 4, 5, 6, 7, 8]
def imgMem : Memory :=
  memPut (memPut (memPut [] 0x020000000000 ([0x45, 0x4F, 0x4C, 0x53, 0x50, 0x4C, 0x54, 0x31, 1, 0] ++ List.replicate 6 0 ++ leBytes 8 3
    ++ leBytes 4 1 ++ leBytes 4 0 ++ List.replicate 8 0 ++ leBytes 8 8)) 0x020000001000 imgData) 0x5000 (List.replicate 64 0)
/-- A write that waits for granule 1. -/
def waiting (prio : List Nat) : State :=
  { rdy with protectedGranules := [1], heldWrites := [⟨1, 0, .write 0x200000 [7] 0⟩], splPrio := prio }
theorem near_not_hwin {a : Nat} (h : a < 0x040000000000) (o : Nat) : place a ≠ .hwin o := by
  unfold place; split <;> (try split) <;> (try split) <;> simp_all
/-- A job's POISON of endpoint 0x41. -/
def poisonPkt : Packet := pkt PT.POISON 0 0 (leBytes 2 0x41 ++ [3, 0, 0, 0, 0, 0] ++ leBytes 8 77)
/-- A cause of shutdown that has run its course. -/
def resets (d n : Nat) : State := { rdy with resetting := some (d, n) }
/-- Contexts on cores 0 and 9, bytes in a stack and in both kinds of SRAM. -/
def wlive : State :=
  { rdy with harts := [(0, c0), (9 * 128, c0)], image := some imgOne, mem := [(5, 1), (0x0C0000000005, 2), (0x0D0000000005, 3), (0x0D0000900005, 4)] }
/-- The conditions of tick 0. -/
def wcold : State :=
  { (((resets 5 0).setFld F.MGT_PINS.PWR_GOOD 1).setFld F.MGT_PINS.COLD_RST_N 1).setFld F.MGT_PINS.REF_OK 1 with
    now := 77, pwr := { Pwr.empty with alive := true, goodSince := some 0, ticks := 10000000 } }
/-- A package with its CXL link up, its decoder committed and device memory active. -/
def wcxl : State :=
  { ((rdy.setFld F.HIF_LINK.CXL 1).setFld F.HIF_LINK.MEM_EN 1).setFld F.HIF_LINK.WIDTH 8 with
    host := { HostIf.empty with memActive := true, hdm := some 0 } }
/-- A populated host window of 4 MiB. -/
def whwin : State := rdy.setFld F.HIF_HWIN_SIZE.VALUE 2
/-- A mailbox line: SEQ, OP, ARG0. -/
def line (seq : Nat) (op : Byte) (arg : Nat) : List Byte :=
  leBytes 8 seq ++ [op] ++ List.replicate 7 0 ++ leBytes 8 arg ++ List.replicate 40 0
/-- The mailbox by snoop, by poll. -/
def wsnoop : State := (rdy.setFld F.HIF_MBOX_ADDR.ENABLE 1).setFld F.HIF_LINK.CXL 1 |>.setFld F.HIF_LINK.CACHE_EN 1
def wpoll : State := rdy.setFld F.HIF_MBOX_ADDR.ENABLE 1
def wreply : State := { rdy with host := { HostIf.empty with replies := [⟨7, 3, ST.OK, 0, 0, 0, true⟩], run := some ⟨line 7 3 0, true⟩ } }
def recWords : List Word64 := [1, 2, 3, 4]
def wforward (prod : Nat) : State :=
  { rdy with forward := [(0, recWords)], host := { HostIf.empty with page := memPut [] MBP.PROD (leBytes 4 prod) } }
/-- A line that waits; an operation that runs. -/
def wline (s : State) (l : List Byte) : State := { s with host := { HostIf.empty with ops := [l] } }
def wop (s : State) (l : List Byte) : State := { s with host := { HostIf.empty with run := some ⟨l, false⟩ } }
def postable : State := wpostL (recOf 100000000 2)
/-- A configuration memory of one header without records. -/
def cfgHeader : List Byte :=
  let b : List Byte := [0x45, 0x4F, 0x4C, 0x43, 0x46, 0x47, 0x4D, 0x31, 1, 0, 0, 0] ++ leBytes 4 64 ++ List.replicate 44 0
  b ++ leBytes 4 (crc32c b)
def wphase (p : Nat) : State := State.reset.setFld F.HIF_BOOT_STATUS.PHASE p
/-- A link up in some phase, a quote being signed. -/
def wdoe (q : Option (List Byte)) : State :=
  { rdy.setFld F.HIF_LINK.WIDTH 8 with sec := { Sec.empty with signing := q } }
def tier1 : TierFound := .dimm 3 1 2 4 64 [6400, 4800]
def quoteReq (mask : Nat) : List Byte := [1, 2, 0, 0, 5, 6, 7, 8] ++ List.replicate 64 9 ++ leBytes 2 mask ++ List.replicate 6 0
def certReq : List Byte := [1, 1, 0, 0, 5, 6, 7, 8]
def extReq (i : Byte) : List Byte := [1, 3, 0, 0, 5, 6, 7, 8, i] ++ List.replicate 7 0 ++ List.replicate 64 3
/-- A powered package with its power state given. -/
def wpwr (p : Pwr) : State := { rdy with pwr := { p with alive := true, off := false } }
def sampled (n : Nat) : State := wpwr { Pwr.empty with ticks := n }
/-- A cap of 6,000 W at 40 V: 4,800 W; every pair at step 5. -/
def wpace (below : Nat) : State :=
  pairs.foldl (fun s k => s.setFld F.PWR_PAIR_STATE.POWER_STEP 5 k)
    (((wpwr { Pwr.empty with below := below }).setFld F.PWR_LIMIT.WATTS 6000).setFld F.PWR_INPUT.VIN_MV 40000)
/-- A telemetry ring of 4 records at 0x1000 of stack 0, a snapshot due. -/
def wtel : State :=
  ({ rdy with pwr := { rdy.pwr with ticks := 0x10000000000 } } : State).setFld F.MGT_TEL_CFG.ENABLE 1 |>.setFld F.MGT_TEL_CFG.ENTRIES 4
    |>.setReg R.MGT_TEL_BASE 0 0xFFFF000000001000
/-- The watchdog's period has passed. -/
def wdog : State := { rdy with pwr := { rdy.pwr with ticks := 0x10000000000 } }
/-- The I3C target with or without a dynamic address. -/
def wi3c (d : Option Nat) : State := { rdy with i3c := { I3c.empty with dyn := d, straps := true }, pwr := { rdy.pwr with alive := true } }
/-- A pin at a level. -/
def wpin (f : Fld) (v : Nat) : State := { rdy with pwr := { rdy.pwr with alive := true } }.setFld f v

/-! ### The spec's worked examples -/

/-- The number an FP32 encoding names. -/
def f32 (b : Nat) : Machine.Num := decodeFp fp32 b

/-- 02, the E4M3 block: 200, -75, 0.012939453125, 0.0030517578125 under OCP. -/
theorem test_mx_block : mxConvert 4 0 false false ([0x43480000, 0xC2960000, 0x3C540000, 0x3B480000].map f32)
    = ⟨126, [0x7C, 0xF1, 0x0D, 0x03] ++ List.replicate 28 0, 0, false⟩ := by decide +kernel

/-- 02, the same block with 250 in front: clamped to 448 under OCP, re-encoded with scale 0x7F under FIT. -/
theorem test_mx_clamp : (mxConvert 4 0 false false ([0x437A0000, 0xC2960000].map f32)).els.take 1 = [0x7E]
    ∧ (mxConvert 4 0 false false ([0x437A0000, 0xC2960000].map f32)).clamped = 1
    ∧ (mxConvert 4 0 true false ([0x437A0000, 0xC2960000].map f32)).scale = 0x7F
    ∧ (mxConvert 4 0 true false ([0x437A0000, 0xC2960000].map f32)).els.take 2 = [0x78, 0xE9] := by decide +kernel

/-- 02, the pieces of 0x3F904849, and Table 04-21: the terms of passes 1 to 3 in units of 2^-23. -/
theorem test_pieces : (pieces 0x3F904849).map (fun x => (encodeFp bf16 0 x).1) = [0x3F90, 0x3B10, 0x3712]
    ∧ ([1, 2, 3].map fun p => numEq (passTerm p 0x3F904849 0x3F808080) (.fin false ([0, 9437184, 9492480, 9492769].getD p 0) (-23)))
      = [true, true, true] := by decide +kernel

/-- 02, four terms in an FP32-range cell: bytes 0 and 18, the control word, RNE and RUP. -/
theorem test_cell : let a := ([0x71800000, 1, 0x3F800000, 0xF1800000].map f32).foldl (Acc_.add false) Acc_.empty
    (a.bytes false).length = 64 ∧ (a.bytes false).getD 0 0 = 1 ∧ (a.bytes false).getD 18 0 = 0x20 ∧ a.ctl false = 0x1000000000000004
      ∧ a.round false fp32 0 = 0x3F800000 ∧ a.round false fp32 3 = 0x3F800001 := by decide +kernel

/-- 10, the same cell packs into 31 bytes. -/
theorem test_packed_cell : let a := ([0x71800000, 1, 0x3F800000, 0xF1800000].map f32).foldl (Acc_.add false) Acc_.empty
    ((packCell false (a.bytes false)).map (·.length)) = some 31 := by decide +kernel

/-- 11: SHA3-512 of "abc". -/
theorem test_sha3_abc : (sha3 [0x61, 0x62, 0x63]).take 16
    = [0xb7, 0x51, 0x85, 0x0b, 0x1a, 0x57, 0x16, 0x8a, 0x56, 0x93, 0xcd, 0x92, 0x4b, 0x6b, 0x09, 0x6e] := by decide +kernel

/-- 07, Table 07-2: offsets decoded. -/
theorem test_places : place 0x00F000000040 = .stack 10 0x40 ∧ place 0x023100000000 = .near 0 0x3100000000
    ∧ place 0x037800000000 = .near 5 0x3800000000 ∧ place 0x080000001000 = .far 1 0x1000
    ∧ place 0x0C0026000100 = .csram 19 0x100 ∧ place 0x0D0009B00040 = .lsram 155 0x40 ∧ place 0x018000000000 = .unmapped := by
  decide +kernel

/-- 08: the region of stack 3 plus 2 MiB. -/
theorem test_region : regionOf 0x004800200000 = 0x24001 := by decide +kernel

/-- 09: package 0x0045's port 0 lands on port 8 of position 2, its port 26 on port 12 of 0x0041. -/
theorem test_wiring : let s : State := State.reset.setFld F.FAB_SELF.ENDPOINT 0x45
    s.wiredPeer 0 = some (0x46, 8) ∧ s.wiredPeer 26 = some (0x41, 12) := by decide +kernel


/-- 06: the descriptor of the worked APPLY: hyperparameters at bytes 80 to 103 (Table 06-1). -/
def applyDesc : List Byte :=
  [2, 0] ++ List.replicate 78 0 ++ leBytes 4 0x3F600000 ++ leBytes 4 0x3E000000 ++ leBytes 4 0x3F700000 ++ leBytes 4 0x3D800000
    ++ leBytes 4 0x35800000 ++ leBytes 4 0x3D800000 ++ List.replicate 24 0



/-- Table 06-15: one parameter through lap 1. -/
theorem test_adamw : let k := scalars applyDesc lapOne
    newMoments k 0x3F800000 0 0 0x3F000000 = (0x3D800000, 0x3C800000)
      ∧ newWeight k 0x3F800000 0x3D800000 0x3C800000 = 0x3F7FBC00 ∧ k.dec = 0x3F7FFC00 := by decide +kernel





/-- Table 05-19, problem 1: the mass matrix, and the third pivot, exactly zero, replaced by 5.5 × 2^-40. -/
theorem test_mass : let r := (arm 3 0 0).solve none
    (r.arrays.take 1, r.pivs, ((assocGet 5 r.arrays).getD []).getD 2 0)
      = ([(4, [0x4016000000000000, 0x3FFC000000000000, 0x3FE8000000000000, 0, 0, 0])], [2], 0x3D96000000000000) := by
  decide +kernel

/-- 03: the header of the worked run image: cores 8 to 15, C = 96; 14: STACK_BYTES 7,808, CORE_DATA 262,144. -/
def runImage : Image :=
  ⟨List.replicate 12 0 ++ [96, 2] ++ List.replicate 34 0 ++ leBytes 4 7808 ++ leBytes 4 262144 ++ [0, 0xFF] ++ List.replicate 198 0,
    [], 0⟩

/-- 03: slots 0, 95, 96 and 767; 14: the stack pointers of contexts 42 and 124 (its slot 96) of core 8. -/
theorem test_slots : ([0, 95, 96, 767].map fun i => runImage.slots.getD i 0)
      = [hartKey (.ctx 8 0), hartKey (.ctx 8 95), hartKey (.ctx 9 0), hartKey (.ctx 15 95)]
    ∧ runImage.sp 8 42 = 0xFFFF0D0000891F80 ∧ runImage.sp 8 96 = 0xFFFF0D00008F8E80 := by decide +kernel

/-! ### Witnesses -/

theorem witness_ContextControlAndWaits (ob : Obligations.ContextControlAndWaits) :
    (∃ t, exec (.fenceI h0) (wx []) = .next t)
    ∧ (∃ t, exec (.xyield h0) (wx []) = .next t)
    ∧ (∃ t, exec (.xyield h0) { wx [] with harts := [(0, c0), (2, c0)] } = .next t)
    ∧ (∃ t, exec (.xsleep h0 6 5) (wx [(5, 0)]) = .next t)
    ∧ (∃ t, exec (.xsleep h0 6 5) (wx [(5, 0x20000000000)]) = .next t)
    ∧ (∃ t, exec (.xsleep h0 6 5) (wx [(5, 0x10000000000)]) = .next t)
    ∧ (∃ t, exec (.xsleepTickReached h0) (wc { c0 with st := .waiting, wait := .sleep 6 0 }) = .next t)
    ∧ (∃ t, exec (.xbwait h0 7 5 6) (wx [(5, 0xFFFF020000000000)]) = .next t)
    ∧ (∃ t, exec (.xbwait h0 7 5 6) (wx [(5, 0xFFFF000000001004)]) = .next t)
    ∧ (∃ t, exec (.xbwait h0 7 5 6) (wx [(5, 0xFFFF000000001000)]) = .next t)
    ∧ (∃ t, exec (.xbwait h0 7 5 6) (wx [(5, 0xFFFF0C0000000008), (6, 1)]) = .next t)
    ∧ (∃ t, exec (.xbwaitSatisfied h0) (wc { c0 with st := .waiting, wait := .baton 7 8 1 true 9 }) = .next t) :=
  ⟨((ob.1 (wx []) h0 (by decide +kernel) (by decide +kernel) (by decide +kernel)).1).imp fun _ h => h.1,
  ((ob.1 (wx []) h0 (by decide +kernel) (by decide +kernel) (by decide +kernel)).2).imp fun _ h => h.1,
  ((ob.1 { wx [] with harts := [(0, c0), (2, c0)] } h0 (by decide +kernel) (by decide +kernel) (by decide +kernel)).2).imp fun _ h => h.1,
  (ob.2.1.1 (wx [(5, 0)]) h0 6 5 (by decide +kernel) (by decide +kernel) (by decide +kernel)).imp fun _ h => h.1,
  (ob.2.1.1 (wx [(5, 0x20000000000)]) h0 6 5 (by decide +kernel) (by decide +kernel) (by decide +kernel)).imp fun _ h => h.1,
  (ob.2.1.1 (wx [(5, 0x10000000000)]) h0 6 5 (by decide +kernel) (by decide +kernel) (by decide +kernel)).imp fun _ h => h.1,
  ⟨_, ob.2.1.2 (wc { c0 with st := .waiting, wait := .sleep 6 0 }) h0 6 0 (by decide +kernel) (by decide +kernel) (by decide +kernel) (by decide +kernel)⟩,
  ((ob.2.2.1 (wx [(5, 0xFFFF020000000000)]) h0 7 5 6 (by decide +kernel) (by decide +kernel) (by decide +kernel)).1 (by decide +kernel)).imp fun _ h => h.1,
  ((ob.2.2.1 (wx [(5, 0xFFFF000000001004)]) h0 7 5 6 (by decide +kernel) (by decide +kernel) (by decide +kernel)).2.1 (by decide +kernel) (by decide +kernel)).imp fun _ h => h.1,
  ((ob.2.2.1 (wx [(5, 0xFFFF000000001000)]) h0 7 5 6 (by decide +kernel) (by decide +kernel) (by decide +kernel)).2.2 (by decide +kernel) (by decide +kernel) (by decide +kernel) (by decide +kernel)).imp fun _ h => h.1,
  ((ob.2.2.1 (wx [(5, 0xFFFF0C0000000008), (6, 1)]) h0 7 5 6 (by decide +kernel) (by decide +kernel) (by decide +kernel)).2.2 (by decide +kernel) (by decide +kernel) (by decide +kernel) (by decide +kernel)).imp fun _ h => h.1,
  ⟨_, ob.2.2.2 (wc { c0 with st := .waiting, wait := .baton 7 8 1 true 9 }) h0 7 8 1 9 (by decide +kernel) (by decide +kernel) (by decide +kernel)⟩⟩

theorem witness_FencesAndHandsWaitOrEnd (ob : Obligations.FencesAndHandsWaitOrEnd) :
    (∃ t, exec (.xfence h0 6) (wc { c0 with failed := [(3, 0x2)] }) = .next t)
    ∧ (∃ t, exec (.xfence h0 6) (wc { c0 with rops := [r0], nextOp := 1 }) = .next t)
    ∧ (∃ t, exec (.xexit h0) (wx [(5, 1)]) = .next t)
    ∧ (∃ t, exec (.xexit h0) { wx [(5, 1)] with image := some imgOne, running := some ⟨recOf 0 2, 1⟩ } = .next t)
    ∧ (∃ t, exec (.xexit h0) (wc { c0 with rops := [r0], nextOp := 1 }) = .next t)
    ∧ (∃ t, exec (.xfinish h0 7 5 6) (wx [(5, 0x101), (6, 41)]) = .next t)
    ∧ (∃ t, exec (.xfinish h0 7 5 6) { wx [(5, 0x101), (6, 41)] with comms := [(0, comm0)] } = .next t)
    ∧ (∃ t, exec (.xhand h0 7 5 6) (wx [(5, 0x0011000000200000), (6, 0x10001)]) = .next t)
    ∧ (∃ t, exec (.xhand h0 7 5 6) (wx [(5, 0x0011000000200000), (6, 0x10000)]) = .next t) :=
  ⟨((ob.1 (wc { c0 with failed := [(3, 0x2)] }) h0 (by decide +kernel) (by decide +kernel) (by decide +kernel)).1 6).imp fun _ h => h.1,
  ((ob.1 (wc { c0 with rops := [r0], nextOp := 1 }) h0 (by decide +kernel) (by decide +kernel) (by decide +kernel)).1 6).imp fun _ h => h.1,
  ((ob.1 (wx [(5, 1)]) h0 (by decide +kernel) (by decide +kernel) (by decide +kernel)).2).imp fun _ h => h.1,
  ((ob.1 { wx [(5, 1)] with image := some imgOne, running := some ⟨recOf 0 2, 1⟩ } h0 (by decide +kernel) (by decide +kernel) (by decide +kernel)).2).imp fun _ h => h.1,
  ((ob.1 (wc { c0 with rops := [r0], nextOp := 1 }) h0 (by decide +kernel) (by decide +kernel) (by decide +kernel)).2).imp fun _ h => h.1,
  ((ob.2 (wx [(5, 0x101), (6, 41)]) h0 7 5 6 (by decide +kernel) (by decide +kernel) (by decide +kernel)).1 (by decide +kernel)).imp fun _ h => h.1,
  by refine ((ob.2 { wx [(5, 0x101), (6, 41)] with comms := [(0, comm0)] } h0 7 5 6 ?_ ?_ ?_).2.1 0 comm0 ?_ ?_ ?_ ?_ ?_ ?_).imp fun _ h => h.1 <;> decide +kernel,
  ((ob.2 (wx [(5, 0x0011000000200000), (6, 0x10001)]) h0 7 5 6 (by decide +kernel) (by decide +kernel) (by decide +kernel)).2.2.1 (by decide +kernel)).imp fun _ h => h.1,
  by refine ((ob.2 (wx [(5, 0x0011000000200000), (6, 0x10000)]) h0 7 5 6 ?_ ?_ ?_).2.2.2 0 ?_ ?_ ?_ ?_ ?_ ?_).imp fun _ h => h.1 <;> decide +kernel⟩

theorem witness_RemoteLoadsAndAtomicsPark (ob : Obligations.RemoteLoadsAndAtomicsPark) :
    (∃ t, exec (.xld h0 3 7 5) (wx [(5, 0x0011000000000008)]) = .next t)
    ∧ (∃ t, exec (.xldu h0 2 7 5) (wx [(5, 0x0011000000000004)]) = .next t)
    ∧ (∃ t, exec (.xldv h0 2 8 5) (wx [(5, 0x0011000000000040)]) = .next t)
    ∧ (∃ t, exec (.xamoAdd h0 7 5 6) (wx [(5, 0x0011000000000008), (6, 1)]) = .next t)
    ∧ (∃ t, exec (.xamoSwap h0 7 5 6) (wx [(5, 0x0011000000000008), (6, 1)]) = .next t)
    ∧ (∃ t, exec (.xcasQ h0 8 5 6) (wx [(5, 0x0011000000000010), (6, 1)]) = .next t) :=
  ⟨((ob (wx [(5, 0x0011000000000008)]) h0 0 (by decide +kernel) (by decide +kernel) (by decide +kernel) (by decide +kernel)).1 3 7 5 (by decide +kernel)).imp fun _ h => h.1,
  ((ob (wx [(5, 0x0011000000000004)]) h0 0 (by decide +kernel) (by decide +kernel) (by decide +kernel) (by decide +kernel)).2.1 2 7 5 (by decide +kernel) (by decide +kernel)).imp fun _ h => h.1,
  ((ob (wx [(5, 0x0011000000000040)]) h0 0 (by decide +kernel) (by decide +kernel) (by decide +kernel) (by decide +kernel)).2.2.1 2 8 5 (by decide +kernel) (by decide +kernel) (by decide +kernel)).imp fun _ h => h.1,
  (((ob (wx [(5, 0x0011000000000008), (6, 1)]) h0 0 (by decide +kernel) (by decide +kernel) (by decide +kernel) (by decide +kernel)).2.2.2.1 7 5 6 (by decide +kernel)).1).imp fun _ h => h.1,
  (((ob (wx [(5, 0x0011000000000008), (6, 1)]) h0 0 (by decide +kernel) (by decide +kernel) (by decide +kernel) (by decide +kernel)).2.2.2.1 7 5 6 (by decide +kernel)).2.2.2.2.2.1).imp fun _ h => h.1,
  ((ob (wx [(5, 0x0011000000000010), (6, 1)]) h0 0 (by decide +kernel) (by decide +kernel) (by decide +kernel) (by decide +kernel)).2.2.2.2 8 5 6 (by decide +kernel) (by decide +kernel) (by decide +kernel)).imp fun _ h => h.1⟩

theorem witness_PostedOperationsGoOn (ob : Obligations.PostedOperationsGoOn) :
    (∃ t, exec (.xst h0 0 5 6) (wx [(5, 0x0011000000000001), (6, 1)]) = .next t)
    ∧ (∃ t, exec (.xst h0 1 5 6) (wx [(5, 0x0011000000000001), (6, 1)]) = .next t)
    ∧ (∃ t, exec (.xst h0 0 5 6) (wc wfull) = .next t)
    ∧ (∃ t, exec (.xst h0 1 5 6) (wx [(5, 0xFFFF000000001002), (6, 0x12345)]) = .next t)
    ∧ (∃ t, exec (.xstv h0 0 5 9) (wx [(5, 0x0011000000000010), (6, 1)]) = .next t)
    ∧ (∃ t, exec (.xfadd h0 7 5 6) (wx [(5, 0x0011000000000040)]) = .next t)
    ∧ (∃ t, exec (.xput h0 7 5) wput = .next t)
    ∧ (∃ t, exec (.xget h0 7 5) wput = .next t) :=
  ⟨(((ob.1 (wx [(5, 0x0011000000000001), (6, 1)]) h0 (by decide +kernel) (by decide +kernel) (by decide +kernel)).1 0 5 6 (by decide +kernel)).2.2 0 (by decide +kernel) (by decide +kernel)).imp fun _ h => h.1,
  (((ob.1 (wx [(5, 0x0011000000000001), (6, 1)]) h0 (by decide +kernel) (by decide +kernel) (by decide +kernel)).1 1 5 6 (by decide +kernel)).1 (by decide +kernel)).imp fun _ h => h.1,
  (((ob.1 (wc wfull) h0 (by decide +kernel) (by decide +kernel) (by decide +kernel)).1 0 5 6 (by decide +kernel)).2.1 (by decide +kernel) (by decide +kernel)).imp fun _ h => h.1,
  ((ob.1 (wx [(5, 0xFFFF000000001002), (6, 0x12345)]) h0 (by decide +kernel) (by decide +kernel) (by decide +kernel)).2.2.2 1 5 6 0 (by decide +kernel) (by decide +kernel) (by decide +kernel) (stack_not_hwin (by decide)) (by decide +kernel) (by decide +kernel) (by decide +kernel)).imp fun _ h => h.1,
  (((ob.1 (wx [(5, 0x0011000000000010), (6, 1)]) h0 (by decide +kernel) (by decide +kernel) (by decide +kernel)).2.1 0 5 9 (by decide +kernel) (by decide +kernel) (by decide +kernel)).2.2 0 (by decide +kernel) (by decide +kernel)).imp fun _ h => h.1,
  (((ob.1 (wx [(5, 0x0011000000000040)]) h0 (by decide +kernel) (by decide +kernel) (by decide +kernel)).2.2.1 7 5 6 (by decide +kernel)).2.2 0 (by decide +kernel) (by decide +kernel)).imp fun _ h => h.1,
  by refine ((ob.2 wput h0 0 7 5 ?_ ?_ ?_ ?_ ?_ ?_ ?_ ?_ ?_ ?_ ?_ ?_ ?_ ?_ ?_ ?_ ?_ ?_).1).imp fun _ h => h.1 <;> decide +kernel,
  by refine ((ob.2 wput h0 0 7 5 ?_ ?_ ?_ ?_ ?_ ?_ ?_ ?_ ?_ ?_ ?_ ?_ ?_ ?_ ?_ ?_ ?_ ?_).2).imp fun _ h => h.1 <;> decide +kernel⟩

theorem witness_RepliesAndStopwatchesResume (ob : Obligations.RepliesAndStopwatchesResume) :
    (∃ t, exec (.remoteReply h0 0) (wc { c0 with st := .parked, wait := .reply 0, rops := [ldRop] }) = .next t)
    ∧ (∃ t, exec (.remoteReply h0 5) (wc { c0 with st := .parked, wait := .response 5 4 }) = .next t)
    ∧ (∃ t, exec (.remoteReply h0 0) ((wc { c0 with st := .parked, wait := .reply 0, rops := [ldRop] }).setFld F.PWR_PAIR_STATE.STOPPED 1) = .next t)
    ∧ (∃ t, exec (.remoteStopwatchExpiry h0 0) { wc { c0 with st := .parked, wait := .reply 0, rops := [{ r0 with kind := .amo 7, posted := false }] } with now := 100 } = .next t)
    ∧ (∃ t, exec (.waitStopwatchExpiry h0) { wc { c0 with st := .waiting, wait := .baton 7 8 1 false 9 } with now := 9 } = .next t)
    ∧ (∃ t, exec (.waitStopwatchExpiry h0) { wc { c0 with st := .waiting, wait := .baton 7 8 1 true 9 } with now := 9 } = .next t) :=
  ⟨by refine ((ob.1 (wc { c0 with st := .parked, wait := .reply 0, rops := [ldRop] }) h0 ?_ ?_).1 ldRop 2 true 7 0 [0xFE, 0xFF] ?_ ?_ ?_ ?_ ?_ ?_ ?_ ?_).imp fun _ h => h.1 <;> decide +kernel,
  ⟨_, (ob.1 (wc { c0 with st := .parked, wait := .response 5 4 }) h0 (by decide +kernel) (by decide +kernel)).2.1 5 4 (by decide +kernel) (by decide +kernel)⟩,
  ⟨_, (ob.1 ((wc { c0 with st := .parked, wait := .reply 0, rops := [ldRop] }).setFld F.PWR_PAIR_STATE.STOPPED 1) h0 (by decide +kernel) (by decide +kernel)).2.2 0 (by decide +kernel)⟩,
  by refine ((ob.2 { wc { c0 with st := .parked, wait := .reply 0, rops := [{ r0 with kind := .amo 7, posted := false }] } with now := 100 } h0 ?_ ?_ ?_).1 { r0 with kind := .amo 7, posted := false } 7 ?_ ?_ ?_ ?_ ?_ ?_ ?_).imp fun _ h => h.1 <;> decide +kernel,
  ⟨_, (ob.2 { wc { c0 with st := .waiting, wait := .baton 7 8 1 false 9 } with now := 9 } h0 (by decide +kernel) (by decide +kernel) (by decide +kernel)).2 7 8 1 9 false (by decide +kernel) (by decide +kernel)⟩,
  ⟨_, (ob.2 { wc { c0 with st := .waiting, wait := .baton 7 8 1 true 9 } with now := 9 } h0 (by decide +kernel) (by decide +kernel) (by decide +kernel)).2 7 8 1 9 true (by decide +kernel) (by decide +kernel)⟩⟩

theorem witness_WaitingContextsGoOn (ob : Obligations.WaitingContextsGoOn) :
    (∃ t, exec (.contextAbortComplete h0) (wc { c0 with st := .aborted }) = .next t)
    ∧ (∃ t, exec (.quotaEntryFreed h0) (wc { c0 with st := .waiting, wait := .quota (.st 0 5 6), x := [(5, 0x0011000000000001)] }) = .next t)
    ∧ (∃ t, exec (.unitQueueEntryFreed h0) (wc { c0 with st := .waiting, wait := .engQueue (.tzero 7 6) 9 }) = .next t) :=
  ⟨⟨_, ob.1 (wc { c0 with st := .aborted }) h0 (by decide +kernel) (by decide +kernel) (by decide +kernel) (by decide +kernel)⟩,
  ⟨_, ob.2.1 (wc { c0 with st := .waiting, wait := .quota (.st 0 5 6), x := [(5, 0x0011000000000001)] }) h0 (.st 0 5 6) 0 (by decide +kernel) (by decide +kernel) (by decide +kernel)⟩,
  ⟨_, ob.2.2 (wc { c0 with st := .waiting, wait := .engQueue (.tzero 7 6) 9 }) h0 (.tzero 7 6) 9 (by decide +kernel) (by decide +kernel)⟩⟩

theorem witness_CommandsJoinTheirQueues (ob : Obligations.CommandsJoinTheirQueues) :
    (∃ t, exec (.xdsu h0 true 7 5) wheat = .next t)
    ∧ (∃ t, exec (.xpuu h0 false 7 5 6) wbegin = .next t)
    ∧ (∃ t, exec (.xtmma h0 3 7 5 6) (weng mmaDesc) = .next t)
    ∧ (∃ t, exec (.xtcvt h0 false false 7 5 6) (weng cvtDesc) = .next t)
    ∧ (∃ t, exec (.xtrd h0 false false 7 5 6) (weng rdDesc) = .next t)
    ∧ (∃ t, exec (.xtzero h0 7 6) (weng rdDesc) = .next t)
    ∧ (∃ t, exec (.xtfill h0 7 5 6) (weng rdDesc) = .next t)
    ∧ (∃ t, exec (.xtspill h0 7 5 6) (weng rdDesc) = .next t) :=
  ⟨by refine (ob.1.1 wheat h0 true 7 5 ?_ ?_ ?_ ?_ ?_ ?_ ?_ ?_ ?_ ?_ ?_).imp fun _ h => h.1 <;> decide +kernel,
  by refine (ob.1.2 wbegin h0 false 7 5 6 ?_ ?_ ?_ ?_ ?_ ?_ ?_ ?_ ?_ ?_ ?_ ?_).imp fun _ h => h.1 <;> decide +kernel,
  by refine ((ob.2 (weng mmaDesc) h0 7 5 6 ?_ ?_ ?_ ?_ ?_).1 3 ?_ ?_ ?_ ?_ ?_).imp fun _ h => h.1 <;> decide +kernel,
  by refine ((ob.2 (weng cvtDesc) h0 7 5 6 ?_ ?_ ?_ ?_ ?_).2.1 false false ?_ ?_ ?_ ?_ ?_).imp fun _ h => h.1 <;> decide +kernel,
  by refine ((ob.2 (weng rdDesc) h0 7 5 6 ?_ ?_ ?_ ?_ ?_).2.2.1 false false ?_ ?_ ?_ ?_ ?_).imp fun _ h => h.1 <;> decide +kernel,
  by refine ((ob.2 (weng rdDesc) h0 7 5 6 ?_ ?_ ?_ ?_ ?_).2.2.2.1 ?_ ?_ ?_ ?_).imp fun _ h => h.1 <;> decide +kernel,
  by refine ((ob.2 (weng rdDesc) h0 7 5 6 ?_ ?_ ?_ ?_ ?_).2.2.2.2.1 ?_ ?_ ?_ ?_).imp fun _ h => h.1 <;> decide +kernel,
  by refine ((ob.2 (weng rdDesc) h0 7 5 6 ?_ ?_ ?_ ?_ ?_).2.2.2.2.2 ?_ ?_ ?_ ?_).imp fun _ h => h.1 <;> decide +kernel⟩

theorem witness_TensorWaitsReportCompletion (ob : Obligations.TensorWaitsReportCompletion) :
    (∃ t, exec (.xtwait h0 7 6) (wtensor (some 2)) = .next t)
    ∧ (∃ t, exec (.xtwait h0 7 6) (wtensor none) = .next t)
    ∧ (∃ t, exec (.xtstat h0 7 5 6) (wtensor (some 0)) = .next t) :=
  ⟨by refine ((ob (wtensor (some 2)) h0 7 5 6 ?_ ?_ ?_ ?_ ?_).1).imp fun _ h => h.1 <;> decide +kernel,
  by refine ((ob (wtensor none) h0 7 5 6 ?_ ?_ ?_ ?_ ?_).1).imp fun _ h => h.1 <;> decide +kernel,
  by refine ((ob (wtensor (some 0)) h0 7 5 6 ?_ ?_ ?_ ?_ ?_).2).imp fun _ h => h.1 <;> decide +kernel⟩

theorem witness_StandardInstructionsRun (ob : Obligations.StandardInstructionsRun) :
    (∃ t, exec (.standardInstruction h0 0x00128393) wls = .next t)
    ∧ (∃ t, exec (.standardInstruction h0 0x0102F3D7) wls = .next t)
    ∧ (∃ t, exec (.standardInstruction h0 0x0002B383) wls = .next t)
    ∧ (∃ t, exec (.standardInstruction h0 0x0062B023) wls = .next t)
    ∧ (∃ t, exec (.standardInstruction h0 0x00000073) wls = .next t)
    ∧ (∃ t, exec (.standardInstruction h0 0x00100073) wls = .next t)
    ∧ (∃ t, exec (.standardInstruction h0 0x0000007F) wls = .next t)
    ∧ (∃ t, exec (.standardInstruction h0 0x0002B383) (wx [(5, 0xFFFF0D0000001000)]) = .next t)
    ∧ (∃ t, exec (.standardInstruction h0 0x0062B023) (wx [(5, 0xFFFF0D0000001000)]) = .next t) :=
  ⟨by refine ⟨_, (ob.1 wls h0 0x00128393 0x00128393 4 ?_ ?_ ?_ ?_ ?_).1 _ (by rfl)⟩ <;> decide +kernel,
  by refine ⟨_, (ob.1 wls h0 0x0102F3D7 0x0102F3D7 4 ?_ ?_ ?_ ?_ ?_).2.1 _ ?_ ?_ (by rfl)⟩ <;> decide +kernel,
  by refine ((ob.1 wls h0 0x0002B383 0x0002B383 4 ?_ ?_ ?_ ?_ ?_).2.2.1 _ 0x1000 ?_ ?_ rfl rfl (by rfl) ?_ ?_).imp fun _ h => h.1 <;> decide +kernel,
  by refine ((ob.1 wls h0 0x0062B023 0x0062B023 4 ?_ ?_ ?_ ?_ ?_).2.2.2.1 _ 0x1000 _ ?_ ?_ rfl rfl (by rfl) ?_ (fun o h => by simp [place] at h)).imp fun _ h => h.1 <;> decide +kernel,
  by refine (((ob.1 wls h0 0x00000073 0x00000073 4 ?_ ?_ ?_ ?_ ?_).2.2.2.2 ?_ ?_ ?_).1 ?_).imp fun _ h => h.1 <;> decide +kernel,
  by refine (((ob.1 wls h0 0x00100073 0x00100073 4 ?_ ?_ ?_ ?_ ?_).2.2.2.2 ?_ ?_ ?_).2.1 ?_).imp fun _ h => h.1 <;> decide +kernel,
  by refine (((ob.1 wls h0 0x0000007F 0x0000007F 4 ?_ ?_ ?_ ?_ ?_).2.2.2.2 ?_ ?_ ?_).2.2 ?_).imp fun _ h => h.1 <;> decide +kernel,
  by refine ((ob.1 (wx [(5, 0xFFFF0D0000001000)]) h0 0x0002B383 0x0002B383 4 ?_ ?_ ?_ ?_ ?_).2.2.1 _ 0x0D0000001000 ?_ ?_ rfl rfl (by rfl) ?_ ?_).imp fun _ h => h.1 <;> decide +kernel,
  by refine ((ob.1 (wx [(5, 0xFFFF0D0000001000)]) h0 0x0062B023 0x0062B023 4 ?_ ?_ ?_ ?_ ?_).2.2.2.1 _ 0x0D0000001000 _ ?_ ?_ rfl rfl (by rfl) ?_ (fun o h => by simp [place] at h)).imp fun _ h => h.1 <;> decide +kernel⟩

theorem witness_StandardRemoteAccessParks (ob : Obligations.StandardRemoteAccessParks) : (∃ t, exec (.standardRemoteAccess h0 0x0002B383) (wx [(5, 0x0011000000000008)]) = .next t) :=
  by refine (ob (wx [(5, 0x0011000000000008)]) h0 0x0002B383 0x0002B383 4 0 _ ?_ ?_ ?_ ?_ ?_ rfl ?_ ?_ ?_ ?_).imp fun _ h => h.1 <;> decide +kernel

theorem witness_EngineInstructionsStartAndHandOver (ob : Obligations.EngineInstructionsStartAndHandOver) :
    (∃ t, exec (.engineInstructionStart 0 true) (wengs [i0 .zero []] none none Slot.empty) = .next t)
    ∧ (∃ t, exec (.engineInstructionStart 0 false) (wengs [i0 .mma mmaDesc] none none Slot.empty) = .next t)
    ∧ (∃ t, exec (.relayHandover 0) { wengs [] none (some { run0 (i0 .rd rdDesc) with handover := some (0, 0, 0) }) slot1 with tiles := List.replicate 64 ⟨0, 0, 0, [], 0⟩ } = .next t)
    ∧ (∃ t, exec (.relayHandover 0) (wengs [] none (some { run0 (i0 .rd rdDesc) with handover := some (0, 5, 6) }) slot1) = .next t) :=
  ⟨by refine (ob.1 (wengs [i0 .zero []] none none Slot.empty) 0 true (i0 .zero []) ?_ ?_ ?_ ?_ ?_ ?_ ?_ ?_ ?_).imp fun _ h => h.1 <;> decide +kernel,
  by refine (ob.1 (wengs [i0 .mma mmaDesc] none none Slot.empty) 0 false (i0 .mma mmaDesc) ?_ ?_ ?_ ?_ ?_ ?_ ?_ ?_ ?_).imp fun _ h => h.1 <;> decide +kernel,
  by refine ⟨_, (ob.2 { wengs [] none (some { run0 (i0 .rd rdDesc) with handover := some (0, 0, 0) }) slot1 with tiles := List.replicate 64 ⟨0, 0, 0, [], 0⟩ } 0 { run0 (i0 .rd rdDesc) with handover := some (0, 0, 0) } 0 0 0 ?_ ?_ ?_ ?_ ?_ ?_ ?_ ?_ ?_ ?_).1 ?_⟩ <;> decide +kernel,
  by refine ((ob.2 (wengs [] none (some { run0 (i0 .rd rdDesc) with handover := some (0, 5, 6) }) slot1) 0 { run0 (i0 .rd rdDesc) with handover := some (0, 5, 6) } 0 5 6 ?_ ?_ ?_ ?_ ?_ ?_ ?_ ?_ ?_ ?_).2 ?_ ?_).imp fun _ h => h.1 <;> decide +kernel⟩

theorem witness_EngineInstructionCompletes (ob : Obligations.EngineInstructionCompletes) :
    (∃ t, exec (.engineInstructionComplete 0 true 0) (wengs [] none (some (run0 (i0 .rd rdDesc))) slot1) = .next t)
    ∧ (∃ t, exec (.engineInstructionComplete 0 false 7) (wengs [] (some (run0 (i0 .mma mmaDesc))) none slot1) = .next t) :=
  ⟨by refine (ob.1 (wengs [] none (some (run0 (i0 .rd rdDesc))) slot1) 0 true 0 (run0 (i0 .rd rdDesc)) ?_ ?_ ?_ ?_ ?_ ?_ ?_ ?_ ?_ ?_ ?_).imp fun _ h => h.1 <;> decide +kernel,
  by refine (ob.1 (wengs [] (some (run0 (i0 .mma mmaDesc))) none slot1) 0 false 7 (run0 (i0 .mma mmaDesc)) ?_ ?_ ?_ ?_ ?_ ?_ ?_ ?_ ?_ ?_ ?_).imp fun _ h => h.1 <;> decide +kernel⟩

theorem witness_HeatsStartAndComplete (ob : Obligations.HeatsStartAndComplete) :
    (∃ t, exec (.heatStart 0) (wheatq (some lanes64)) = .next t)
    ∧ (∃ t, exec (.heatStart 0) (wheatq none) = .next t)
    ∧ (∃ t, exec (.heatComplete 0) (wdsu 3 [] []) = .next t) :=
  ⟨by refine ((ob.1 (wheatq (some lanes64)) 0 (heatOf 3) [] ?_ ?_ ?_ ?_ ?_).1 ?_ ?_).imp fun _ h => h.1 <;> decide +kernel,
  by refine ⟨_, (ob.1 (wheatq none) 0 (heatOf 3) [] ?_ ?_ ?_ ?_ ?_).2 ?_⟩ <;> decide +kernel,
  by refine (ob.2 (wdsu 3 [] []) 0 ⟨heatOf 3, 40, 20, [], 0⟩ 7 100 ?_ ?_ ?_ ?_ ?_ ?_ ?_ ?_).imp fun _ h => h.1 <;> decide +kernel⟩

theorem witness_SolverProblemsRun (ob : Obligations.SolverProblemsRun) :
    (∃ t, exec (.fd 0 5 0) (wdsu 2 [(5, 0)] []) = .next t)
    ∧ (∃ t, exec (.mass 0 5 9) (wdsu 3 [(5, 0)] armMem) = .next t)
    ∧ (∃ t, exec (.fk 0 5 9) (wdsu 3 [(5, 0)] armMem) = .next t) :=
  ⟨by refine ⟨_, (ob.1 (wdsu 2 [(5, 0)] []) 0 5 0 0 ⟨heatOf 2, 40, 20, [(5, 0)], 0⟩ ?_ ?_ ?_ ?_ ?_ ?_).1⟩ <;> decide +kernel,
  by refine ⟨_, (ob.1 (wdsu 3 [(5, 0)] armMem) 0 5 9 0 ⟨heatOf 3, 40, 20, [(5, 0)], 0⟩ ?_ ?_ ?_ ?_ ?_ ?_).1⟩ <;> decide +kernel,
  by refine ⟨_, (ob.1 (wdsu 3 [(5, 0)] armMem) 0 5 9 0 ⟨heatOf 3, 40, 20, [(5, 0)], 0⟩ ?_ ?_ ?_ ?_ ?_ ?_).2 0 ?_ ?_⟩ <;> decide +kernel⟩

theorem witness_NormAndBeginCommandsWork (ob : Obligations.NormAndBeginCommandsWork) :
    (∃ t, exec (.norm 0) (wpuu (prun normDesc false) gradMem) = .next t)
    ∧ (∃ t, exec (.begin 0) (wpuu (prun beginDesc false) gradMem) = .next t) :=
  ⟨by refine (ob.1 (wpuu (prun normDesc false) gradMem) 0 (prun normDesc false) ?_ ?_ ?_ ?_ ?_ ?_ ?_ ?_ ?_ ?_ (cell_not_hwin normDesc ?_)).imp fun _ h => h.1 <;> decide +kernel,
  by refine (ob.2 (wpuu (prun beginDesc false) gradMem) 0 (prun beginDesc false) ?_ ?_ ?_ ?_ ?_ ?_ ?_ ?_ ?_ (fun n => stack_not_hwin (by decide +kernel) n)).imp fun _ h => h.1 <;> decide +kernel⟩

theorem witness_UpdateGroupsCommit (ob : Obligations.UpdateGroupsCommit) :
    (∃ t, exec (.apply 0 1) (wpuu (prun (updDesc 2 1 0xFFFF000000130000) false) (tagMem 0 0)) = .next t)
    ∧ (∃ t, exec (.apply 0 1) (wpuu (prun (updDesc 2 1 0xFFFF000000130000) true) (tagMem 1 0)) = .next t)
    ∧ (∃ t, exec (.repair 0 1) (wpuu (prun (updDesc 3 0 0) false) (tagMem 1 0)) = .next t)
    ∧ (∃ t, exec (.apply 0 1) (wpuu (prun (updDesc 2 1 0xFFFF000000130000) false) (tagMem 5 7)) = .next t) :=
  ⟨by refine ((ob (wpuu (prun (updDesc 2 1 0xFFFF000000130000) false) (tagMem 0 0)) 0 (prun (updDesc 2 1 0xFFFF000000130000) false) ?_ ?_ ?_ ?_ ?_ ?_ ?_ ?_ ?_ ?_ ?_ ?_ ?_ ?_ ?_).1 ?_ ?_ ?_ ?_).imp fun _ h => h.1 <;> decide +kernel,
  by refine ((ob (wpuu (prun (updDesc 2 1 0xFFFF000000130000) true) (tagMem 1 0)) 0 (prun (updDesc 2 1 0xFFFF000000130000) true) ?_ ?_ ?_ ?_ ?_ ?_ ?_ ?_ ?_ ?_ ?_ ?_ ?_ ?_ ?_).2.1 ?_ ?_).imp fun _ h => h.1 <;> decide +kernel,
  by refine ((ob (wpuu (prun (updDesc 3 0 0) false) (tagMem 1 0)) 0 (prun (updDesc 3 0 0) false) ?_ ?_ ?_ ?_ ?_ ?_ ?_ ?_ ?_ ?_ ?_ ?_ ?_ ?_ ?_).2.2.1 ?_ ?_ ?_).imp fun _ h => h.1 <;> decide +kernel,
  by refine ((ob (wpuu (prun (updDesc 2 1 0xFFFF000000130000) false) (tagMem 5 7)) 0 (prun (updDesc 2 1 0xFFFF000000130000) false) ?_ ?_ ?_ ?_ ?_ ?_ ?_ ?_ ?_ ?_ ?_ ?_ ?_ ?_ ?_).2.2.2 ?_ ?_ ?_).imp fun _ h => h.1 <;> decide +kernel⟩

theorem witness_UpdateCommandsEndAndParkingPair (ob : Obligations.UpdateCommandsEndAndParkingPair) :
    (∃ t, exec (.puuCommandComplete 0 3 4) wdone = .next t)
    ∧ (∃ t, exec (.puuCommit .host 1) rdy = .next t)
    ∧ (∃ t, exec (.puuCommit .host 1) { rdy with staged := [(R.PUU_PARK_SLOTS, 2)] } = .next t)
    ∧ (∃ t, exec (.puuPendingCommitTaken 0) { State.reset with puus := [(0, { Puu.empty with commit := some (0x10000, 8) })] } = .next t) :=
  ⟨by refine (ob.1 wdone 0 3 4 53 { prun (normDesc.take 120 ++ leBytes 8 0xFFFF000000030000) false with finished := true } 7 100 ?_ ?_ ?_ ?_ ?_ ?_ ?_ ?_ ?_ ?_ ?_ ?_).imp fun _ h => h.1 <;> decide +kernel,
  by refine (ob.2.1 rdy .host ?_ ?_ ?_ ?_ ?_).imp fun _ h => h.1 <;> decide +kernel,
  by refine (ob.2.1 { rdy with staged := [(R.PUU_PARK_SLOTS, 2)] } .host ?_ ?_ ?_ ?_ ?_).imp fun _ h => h.1 <;> decide +kernel,
  by refine (ob.2.2 { State.reset with puus := [(0, { Puu.empty with commit := some (0x10000, 8) })] } 0 0x10000 8 ?_ ?_ ?_ ?_ ?_).imp fun _ h => h.1 <;> decide +kernel⟩

theorem witness_CorrectedErrorsAndRowSparing (ob : Obligations.CorrectedErrorsAndRowSparing) :
    (∃ t, exec (.stackCrcResend ⟨0x1234, 3, [7], BitVec.ofNat 32 (crc32c (blockBytes 3 0x1200 [7]))⟩) { State.reset with blocks := [⟨0x1200, 2, false⟩] } = .next t)
    ∧ (∃ t, exec (.stackCrcResend ⟨0x1234, 3, [7], 0⟩) { State.reset with blocks := [⟨0x1200, 2, false⟩] } = .next t)
    ∧ (∃ t, exec (.stackCrcResend ⟨0x1234, 3, [7], 0⟩) { State.reset with blocks := [⟨0x1200, 3, false⟩] } = .next t)
    ∧ (∃ t, exec (.stackChannelRetrain 0 true 0x1234 .scrub) { State.reset with blocks := [⟨0x1200, 4, true⟩] } = .next t)
    ∧ (∃ t, exec (.stackChannelRetrain 0 false 0x1234 .scrub) { State.reset with blocks := [⟨0x1200, 4, true⟩] } = .next t)
    ∧ (∃ t, exec (.patrolScrub (.row row0)) State.reset = .next t)
    ∧ (∃ t, exec (.patrolScrub (.row row0)) { State.reset with rowErrors := [(rowKey row0, 15)] } = .next t)
    ∧ (∃ t, exec (.patrolScrub (.row row0)) { State.reset with rowErrors := [(rowKey row0, 15)], spared := rowsFull } = .next t)
    ∧ (∃ t, exec (.patrolScrub (.tier 2)) (tier0 2) = .next t)
    ∧ (∃ t, exec (.patrolScrub .sram) State.reset = .next t)
    ∧ (∃ t, exec (.rowSpareComplete row0) { State.reset with sparing := [row0] } = .next t) :=
  ⟨⟨_, ((ob { State.reset with blocks := [⟨0x1200, 2, false⟩] } (by decide +kernel) (by decide +kernel) (by decide +kernel) (by decide +kernel)).1 0x1234 3 [7] (BitVec.ofNat 32 (crc32c (blockBytes 3 0x1200 [7]))) 0 0x1200 (by decide +kernel) (by decide +kernel)).1 (by decide +kernel)⟩,
  ⟨_, ((ob { State.reset with blocks := [⟨0x1200, 2, false⟩] } (by decide +kernel) (by decide +kernel) (by decide +kernel) (by decide +kernel)).1 0x1234 3 [7] 0 0 0x1200 (by decide +kernel) (by decide +kernel)).2.1 (by decide +kernel) (by decide +kernel)⟩,
  ⟨_, ((ob { State.reset with blocks := [⟨0x1200, 3, false⟩] } (by decide +kernel) (by decide +kernel) (by decide +kernel) (by decide +kernel)).1 0x1234 3 [7] 0 0 0x1200 (by decide +kernel) (by decide +kernel)).2.2 (by decide +kernel) (by decide +kernel)⟩,
  ((ob { State.reset with blocks := [⟨0x1200, 4, true⟩] } (by decide +kernel) (by decide +kernel) (by decide +kernel) (by decide +kernel)).2.1 0 true 0x1234 0x1200 ⟨0x1200, 4, true⟩ (by decide +kernel) (by decide +kernel) (by decide +kernel)).imp fun _ h => h.1,
  ((ob { State.reset with blocks := [⟨0x1200, 4, true⟩] } (by decide +kernel) (by decide +kernel) (by decide +kernel) (by decide +kernel)).2.1 0 false 0x1234 0x1200 ⟨0x1200, 4, true⟩ (by decide +kernel) (by decide +kernel) (by decide +kernel)).imp fun _ h => h.1,
  ((ob State.reset (by decide +kernel) (by decide +kernel) (by decide +kernel) (by decide +kernel)).2.2.1 row0 (by decide +kernel)).imp fun _ h => h.1,
  ((ob { State.reset with rowErrors := [(rowKey row0, 15)] } (by decide +kernel) (by decide +kernel) (by decide +kernel) (by decide +kernel)).2.2.1 row0 (by decide +kernel)).imp fun _ h => h.1,
  ((ob { State.reset with rowErrors := [(rowKey row0, 15)], spared := rowsFull } (by decide +kernel) (by decide +kernel) (by decide +kernel) (by decide +kernel)).2.2.1 row0 (by decide +kernel)).imp fun _ h => h.1,
  ⟨_, (ob (tier0 2) (by decide +kernel) (by decide +kernel) (by decide +kernel) (by decide +kernel)).2.2.2.1 2 (by decide +kernel)⟩,
  ⟨_, (ob State.reset (by decide +kernel) (by decide +kernel) (by decide +kernel) (by decide +kernel)).2.2.2.2.1⟩,
  ((ob { State.reset with sparing := [row0] } (by decide +kernel) (by decide +kernel) (by decide +kernel) (by decide +kernel)).2.2.2.2.2 row0 (by decide +kernel)).imp fun _ h => h.1⟩

theorem witness_StackHeatMarksAndTierEvents (ob : Obligations.StackHeatMarksAndTierEvents) :
    (∃ t, exec (.memUe 0x1234 .scrub) State.reset = .next t)
    ∧ (∃ t, exec (.farTierLinkDown 1 []) (tier0 9) = .next t)
    ∧ (∃ t, exec (.farTierLinkDown 1 [(0x080000000040, .hart h0)]) { tier0 9 with harts := [(0, { c0 with st := .parked })] } = .next t)
    ∧ (∃ t, exec (.tierZeroingDone 2) { tier0 2 with zeroing := [(2, 0)] } = .next t)
    ∧ (∃ t, exec (.utilUpdate .tier) { tier0 2 with pwr := { Pwr.empty with ticks := 65535 } } = .next t)
    ∧ (∃ t, exec (.utilUpdate .stack) wutil = .next t)
    ∧ (∃ t, exec (.utilUpdate .tier) wutil = .next t)
    ∧ (∃ t, exec (.utilUpdate .link) wutil = .next t)
    ∧ (∃ t, exec (.stackThermalSample 2 [some 380, none, some 100, some 3]) State.reset = .next t)
    ∧ (∃ t, exec (.stackThermalSample 2 [some 300]) (State.reset.setFld F.MEM_STATE.THERM 1 2) = .next t)
    ∧ (∃ t, exec (.stackThermalSample 2 [none, none, none, none]) { State.reset with pwr := { Pwr.empty with thermMiss := [(2, 2)] } } = .next t) :=
  ⟨((ob.1 State.reset (by decide +kernel) (by decide +kernel)).1 0x1234 0 0x1234 (by decide +kernel) (by decide +kernel)).imp fun _ h => h.1,
  ((ob.1 (tier0 9) (by decide +kernel) (by decide +kernel)).2.1 1 (by decide +kernel)).imp fun _ h => h.1,
  by refine ((ob.1 { tier0 9 with harts := [(0, { c0 with st := .parked })] } ?_ ?_).2.2.1 1 0x080000000040 h0 0x40 ?_ ?_ ?_ ?_ ?_).imp fun _ h => h.1 <;> decide +kernel,
  ((ob.1 { tier0 2 with zeroing := [(2, 0)] } (by decide +kernel) (by decide +kernel)).2.2.2.1 2 0 (by decide +kernel) (by decide +kernel)).imp fun _ h => h.1,
  ⟨_, ((ob.1 { tier0 2 with pwr := { Pwr.empty with ticks := 65535 } } (by decide +kernel) (by decide +kernel)).2.2.2.2 .tier).1 (by decide +kernel)⟩,
  (((ob.1 wutil (by decide +kernel) (by decide +kernel)).2.2.2.2 .stack).2 (by decide +kernel)).imp fun _ h => h.1,
  (((ob.1 wutil (by decide +kernel) (by decide +kernel)).2.2.2.2 .tier).2 (by decide +kernel)).imp fun _ h => h.1,
  (((ob.1 wutil (by decide +kernel) (by decide +kernel)).2.2.2.2 .link).2 (by decide +kernel)).imp fun _ h => h.1,
  (ob.2 State.reset 2 [some 380, none, some 100, some 3] (by decide +kernel) (by decide +kernel) (by decide +kernel)).imp fun _ h => h.1,
  (ob.2 (State.reset.setFld F.MEM_STATE.THERM 1 2) 2 [some 300] (by decide +kernel) (by decide +kernel) (by decide +kernel)).imp fun _ h => h.1,
  (ob.2 { State.reset with pwr := { Pwr.empty with thermMiss := [(2, 2)] } } 2 [none, none, none, none] (by decide +kernel) (by decide +kernel) (by decide +kernel)).imp fun _ h => h.1⟩

theorem witness_ThermalThresholdsAreChecked (ob : Obligations.ThermalThresholdsAreChecked) :
    (∃ t, exec (.memCommit .host 1) (stg R.MEM_THERM 0x463C00) = .next t)
    ∧ (∃ t, exec (.memCommit .host 1) (stg R.MEM_THERM 0x413D00) = .next t) :=
  ⟨(ob (stg R.MEM_THERM 0x463C00) .host (by decide +kernel) (by decide +kernel) (by decide +kernel)).imp fun _ h => h.1,
  (ob (stg R.MEM_THERM 0x413D00) .host (by decide +kernel) (by decide +kernel) (by decide +kernel)).imp fun _ h => h.1⟩

theorem witness_CommitsTakeOrKeep (ob : Obligations.CommitsTakeOrKeep) :
    (∃ t, exec (.hifCommit .host 1) (stg R.HIF_HWIN_SIZE 0x200000) = .next t)
    ∧ (∃ t, exec (.hifCommit .host 1) (stg R.HIF_HWIN_SIZE 0x100000200000) = .next t)
    ∧ (∃ t, exec (.pwrCommit .host 1) (stg R.PWR_TJ 0x5F5A00) = .next t)
    ∧ (∃ t, exec (.pwrCommit .host 1) (stg R.PWR_TJ 0x5E5A00) = .next t)
    ∧ (∃ t, exec (.mgtTelCommit .host 1) (stg R.MGT_TEL_BASE 0xFFFF000000000100) = .next t)
    ∧ (∃ t, exec (.mgtTelCommit .host 1) (stg R.MGT_TEL_BASE 0xFFFF000000000180) = .next t)
    ∧ (∃ t, exec (.lnkCommit .host 1) (stg R.LNK_TAG_ENTRY 0x80001) = .next t)
    ∧ (∃ t, exec (.lnkCommit .host 1) lnk0 = .next t) :=
  ⟨((ob (stg R.HIF_HWIN_SIZE 0x200000) .host (by decide +kernel) (by decide +kernel)).1 (by decide +kernel)).imp fun _ h => h.1,
  ((ob (stg R.HIF_HWIN_SIZE 0x100000200000) .host (by decide +kernel) (by decide +kernel)).1 (by decide +kernel)).imp fun _ h => h.1,
  ((ob (stg R.PWR_TJ 0x5F5A00) .host (by decide +kernel) (by decide +kernel)).2.1 (by decide +kernel)).imp fun _ h => h.1,
  ((ob (stg R.PWR_TJ 0x5E5A00) .host (by decide +kernel) (by decide +kernel)).2.1 (by decide +kernel)).imp fun _ h => h.1,
  ((ob (stg R.MGT_TEL_BASE 0xFFFF000000000100) .host (by decide +kernel) (by decide +kernel)).2.2.1 (by decide +kernel)).imp fun _ h => h.1,
  ((ob (stg R.MGT_TEL_BASE 0xFFFF000000000180) .host (by decide +kernel) (by decide +kernel)).2.2.1 (by decide +kernel)).imp fun _ h => h.1,
  ((ob (stg R.LNK_TAG_ENTRY 0x80001) .host (by decide +kernel) (by decide +kernel)).2.2.2.1 (by decide +kernel) (by decide +kernel)).imp fun _ h => h.1,
  ((ob lnk0 .host (by decide +kernel) (by decide +kernel)).2.2.2.2 (by decide +kernel) (by decide +kernel) (by decide +kernel) (by decide +kernel)).imp fun _ h => h.1⟩

theorem witness_BadBiasCommandRefused (ob : Obligations.BadBiasCommandRefused) : (∃ t, exec (.biasFlip .host 0x8000000000000000) rdy = .next t) :=
  ⟨_, ob rdy .host 0x8000000000000000 (by decide +kernel) (by decide +kernel) (by decide +kernel) (by decide +kernel)⟩

theorem witness_GoBitsStartTheirWork (ob : Obligations.GoBitsStartTheirWork) :
    (∃ t, exec (.biasFlip .host 0xC000000100000002) rdy = .next t)
    ∧ (∃ t, exec (.biasFlip .host 0x8000000100000002) rdy = .next t)
    ∧ (∃ t, exec .biasFlipDone { rdy with host := { HostIf.empty with hostBias := [1, 5], flip := some (1, 2) } } = .next t)
    ∧ (∃ t, exec (.bootGo .host 0x8000000000001000) (State.reset.setFld F.HIF_BOOT_STATUS.PHASE 2) = .next t)
    ∧ (∃ t, exec (.launchCancel .host 1) rdy = .next t)
    ∧ (∃ t, exec (.timCfgWrite .host 0x85) rdy = .next t)
    ∧ (∃ t, exec (.mboxAddrWrite .host 0x8000000000001000) rdy = .next t)
    ∧ (∃ t, exec (.forceAwake .host 0x100000003E8) rdy = .next t)
    ∧ (∃ t, exec (.watchdogKick .mgmt 0x80000000000F4240) rdy = .next t) :=
  ⟨by refine ((ob rdy .host ?_ ?_).1 0xC000000100000002 ?_ ?_ ?_ ?_ ?_).imp fun _ h => h.1 <;> decide +kernel,
  by refine ((ob rdy .host ?_ ?_).1 0x8000000100000002 ?_ ?_ ?_ ?_ ?_).imp fun _ h => h.1 <;> decide +kernel,
  ((ob { rdy with host := { HostIf.empty with hostBias := [1, 5], flip := some (1, 2) } } .host (by decide +kernel) (by decide +kernel)).2.1 1 2 (by decide +kernel)).imp fun _ h => h.1,
  ((ob (State.reset.setFld F.HIF_BOOT_STATUS.PHASE 2) .host (by decide +kernel) (by decide +kernel)).2.2.1 0x1000 (by decide +kernel) (by decide +kernel) (by decide +kernel) (by decide +kernel)).imp fun _ h => h.1,
  ⟨_, (ob rdy .host (by decide +kernel) (by decide +kernel)).2.2.2.1 (by decide +kernel) (by decide +kernel)⟩,
  ((ob rdy .host (by decide +kernel) (by decide +kernel)).2.2.2.2.1 0x85 (by decide +kernel)).imp fun _ h => h.1,
  ((ob rdy .host (by decide +kernel) (by decide +kernel)).2.2.2.2.2.1 0x8000000000001000 (by decide +kernel)).imp fun _ h => h.1,
  ((ob rdy .host (by decide +kernel) (by decide +kernel)).2.2.2.2.2.2.1 1000 (by decide +kernel) (by decide +kernel) (by decide +kernel)).imp fun _ h => h.1,
  ((ob rdy .mgmt (by decide +kernel) (by decide +kernel)).2.2.2.2.2.2.2 0x80000000000F4240 (by decide +kernel) (by decide +kernel) (by decide +kernel) (by decide +kernel)).imp fun _ h => h.1⟩

theorem witness_RegisterAccesses (ob : Obligations.RegisterAccesses) :
    (∃ t, exec (.registerWrite .host (BitVec.ofNat 32 R.MEM_ROW_CE_LIMIT) 8 0x20) rdy = .next t)
    ∧ (∃ t, exec (.registerWrite .host (BitVec.ofNat 32 R.MEM_ROW_CE_LIMIT) 8 0) rdy = .next t)
    ∧ (∃ t, exec (.registerWrite .host (BitVec.ofNat 32 R.TIM_LEAD + BitVec.ofNat 32 (4 * (0 : BitVec 1).toNat)) 4 60000) rdy = .next t)
    ∧ (∃ t, exec (.registerWrite .host (BitVec.ofNat 32 R.DSU_PIVOT_TAU + BitVec.ofNat 32 (4 * (1 : BitVec 1).toNat)) 4 0) rdy = .next t)
    ∧ (∃ t, exec (.registerRead .host (BitVec.ofNat 32 R.COL_CFG) 8) rdy = .next t)
    ∧ (∃ t, exec (.registerWrite .host 0x1001 8 7) rdy = .next t)
    ∧ (∃ t, exec (.registerRead .host 0x1000 2) rdy = .next t)
    ∧ (∃ t, exec (.registerWrite .host (BitVec.ofNat 32 R.COL_CFG) 8 7) State.reset = .next t)
    ∧ (∃ t, exec (.registerWrite .host (BitVec.ofNat 32 R.MEM_THERM) 8 0x553C00) rdy = .next t)
    ∧ (∃ t, exec (.registerWrite .host (BitVec.ofNat 32 R.DSU_SEL) 8 3) rdy = .next t)
    ∧ (∃ t, exec (.registerRead .host (BitVec.ofNat 32 R.HIF_STATS) 8) (rdy.setFld F.HIF_STATS.NOTIFY 9) = .next t) :=
  ⟨(((ob rdy .host 0x20 (by decide +kernel) (by decide +kernel)).1 (BitVec.ofNat 32 R.MEM_ROW_CE_LIMIT) _ (by decide +kernel) (by decide +kernel) rfl).1 (by decide +kernel)).imp fun _ h => h.1,
  ⟨_, ((ob rdy .host 0 (by decide +kernel) (by decide +kernel)).1 (BitVec.ofNat 32 R.MEM_ROW_CE_LIMIT) _ (by decide +kernel) (by decide +kernel) rfl).2.1 (by decide +kernel)⟩,
  (((ob rdy .host 60000 (by decide +kernel) (by decide +kernel)).1 (BitVec.ofNat 32 R.TIM_LEAD) _ (by decide +kernel) (by decide +kernel) rfl).2.2.1 0 (by decide +kernel)).imp fun _ h => h.1,
  (((ob rdy .host 0 (by decide +kernel) (by decide +kernel)).1 (BitVec.ofNat 32 R.DSU_PIVOT_TAU) _ (by decide +kernel) (by decide +kernel) rfl).2.2.1 1 (by decide +kernel)).imp fun _ h => h.1,
  ⟨_, ((ob rdy .host 0 (by decide +kernel) (by decide +kernel)).1 (BitVec.ofNat 32 R.COL_CFG) _ (by decide +kernel) (by decide +kernel) rfl).2.2.2⟩,
  ⟨_, ((ob rdy .host 7 (by decide +kernel) (by decide +kernel)).2.1 0x1001 8 (by decide +kernel) (by decide +kernel) (by decide +kernel)).1⟩,
  ⟨_, ((ob rdy .host 7 (by decide +kernel) (by decide +kernel)).2.1 0x1000 2 (by decide +kernel) (by decide +kernel) (by decide +kernel)).2⟩,
  ⟨_, (ob State.reset .host 7 (by decide +kernel) (by decide +kernel)).2.2.1 (by decide +kernel) (by decide +kernel)⟩,
  by refine ((ob rdy .host 0x553C00 ?_ ?_).2.2.2.1 ?_ ?_ ?_ ?_ ?_).imp fun _ h => h.1 <;> decide +kernel,
  ((ob rdy .host 3 (by decide +kernel) (by decide +kernel)).2.2.2.2.1 (by decide +kernel)).imp fun _ h => h.1,
  ((ob (rdy.setFld F.HIF_STATS.NOTIFY 9) .host 3 (by decide +kernel) (by decide +kernel)).2.2.2.2.2 (by decide +kernel)).imp fun _ h => h.1⟩

theorem witness_HomeRequestsAtTheirHome (ob : Obligations.HomeRequestsAtTheirHome) :
    (∃ t, exec (.loadReq 0 (pkt PT.LOAD 3 0x40000000001000 [])) net0 = .next t)
    ∧ (∃ t, exec (.getReq 0 (pkt PT.GET 0 0x40000000001000 (leBytes 8 40))) net0 = .next t)
    ∧ (∃ t, exec (.storeReq 0 (pkt PT.STORE 1 0x40000000001000 [7, 8])) net0 = .next t)
    ∧ (∃ t, exec (.putReq 0 (pkt PT.PUT 0 0x40000000001003 [7, 8, 9])) net0 = .next t)
    ∧ (∃ t, exec (.amoReq 0 (pkt PT.AMO 0 0x40000000001000 (leBytes 8 5))) net0 = .next t)
    ∧ (∃ t, exec (.casReq 0 (pkt PT.CAS 0 0x40000000001000 (leBytes 8 0 ++ leBytes 8 5))) net0 = .next t)
    ∧ (∃ t, exec (.casReq 0 (pkt PT.CAS 0 0x40000000001000 (leBytes 8 1 ++ leBytes 8 5))) net0 = .next t)
    ∧ (∃ t, exec (.faddReq 0 (pkt PT.FADD 0 0x40000000001000 (leBytes 8 0x3FF0000000000000))) net0 = .next t)
    ∧ (∃ t, exec (.loadReq 0 (pkt PT.LOAD 3 0x40000000001000 [])) netBoot = .next t)
    ∧ (∃ t, exec (.loadReq 0 (pkt PT.LOAD 3 0x400E0000000000 [])) net = .next t)
    ∧ (∃ t, exec (.storeReq 0 (pkt PT.STORE 0 0x40000000200000 [7])) (netOwned 0x42) = .next t)
    ∧ (∃ t, exec (.handReq 0 (pkt PT.HAND 0 0x40000000200000 (leBytes 8 0x10000))) (netOwned 0x41) = .next t)
    ∧ (∃ t, exec (.handReq 0 (pkt PT.HAND 0 0x40000000200000 (leBytes 8 0x10000))) (netOwned 0x42) = .next t)
    ∧ (∃ t, step { netOwned 0x41 with changes := [⟨1, 1, 0, some 20, .nobody⟩], now := 20 } = .next t)
    ∧ (∃ t, step { netOwned 0x41 with changes := [⟨1, 1, 0, some 20, .nobody⟩], now := 10 } = .next t) :=
  ⟨by refine ⟨_, (ob.1 net0 0 (pkt PT.LOAD 3 0x40000000001000 []) ?_ ?_ ?_ ?_ ?_ ?_ ?_ ?_ ?_ ?_ ?_).1 ?_⟩ <;> decide +kernel,
  by refine ⟨_, (ob.1 net0 0 (pkt PT.GET 0 0x40000000001000 (leBytes 8 40)) ?_ ?_ ?_ ?_ ?_ ?_ ?_ ?_ ?_ ?_ ?_).2.1 ?_⟩ <;> decide +kernel,
  by refine ((ob.1 net0 0 (pkt PT.STORE 1 0x40000000001000 [7, 8]) ?_ ?_ ?_ ?_ ?_ ?_ ?_ ?_ ?_ ?_ ?_).2.2.1 ?_ ?_).imp fun _ h => h.1 <;> decide +kernel,
  by refine ((ob.1 net0 0 (pkt PT.PUT 0 0x40000000001003 [7, 8, 9]) ?_ ?_ ?_ ?_ ?_ ?_ ?_ ?_ ?_ ?_ ?_).2.2.2.1 ?_ ?_).imp fun _ h => h.1 <;> decide +kernel,
  by refine ⟨_, (ob.1 net0 0 (pkt PT.AMO 0 0x40000000001000 (leBytes 8 5)) ?_ ?_ ?_ ?_ ?_ ?_ ?_ ?_ ?_ ?_ ?_).2.2.2.2.1 ?_ .add ?_⟩ <;> decide +kernel,
  by refine ⟨_, ((ob.1 net0 0 (pkt PT.CAS 0 0x40000000001000 (leBytes 8 0 ++ leBytes 8 5)) ?_ ?_ ?_ ?_ ?_ ?_ ?_ ?_ ?_ ?_ ?_).2.2.2.2.2.1 ?_).1 ?_⟩ <;> decide +kernel,
  by refine ⟨_, ((ob.1 net0 0 (pkt PT.CAS 0 0x40000000001000 (leBytes 8 1 ++ leBytes 8 5)) ?_ ?_ ?_ ?_ ?_ ?_ ?_ ?_ ?_ ?_ ?_).2.2.2.2.2.1 ?_).2 ?_⟩ <;> decide +kernel,
  by refine ⟨_, (ob.1 net0 0 (pkt PT.FADD 0 0x40000000001000 (leBytes 8 0x3FF0000000000000)) ?_ ?_ ?_ ?_ ?_ ?_ ?_ ?_ ?_ ?_ ?_).2.2.2.2.2.2 ?_⟩ <;> decide +kernel,
  by refine ⟨_, ((ob.2.1 netBoot 0 (pkt PT.LOAD 3 0x40000000001000 []) ?_ ?_ ?_ ?_ ?_ ?_ ?_).1 (.loadReq 0 (pkt PT.LOAD 3 0x40000000001000 [])) PT.LOAD (by simp) ?_).1 ?_⟩ <;> decide +kernel,
  by refine ⟨_, ((ob.2.1 net 0 (pkt PT.LOAD 3 0x400E0000000000 []) ?_ ?_ ?_ ?_ ?_ ?_ ?_).1 (.loadReq 0 (pkt PT.LOAD 3 0x400E0000000000 [])) PT.LOAD (by simp) ?_).2.1 ?_ ?_⟩ <;> decide +kernel,
  by refine (((ob.2.1 (netOwned 0x42) 0 (pkt PT.STORE 0 0x40000000200000 [7]) ?_ ?_ ?_ ?_ ?_ ?_ ?_).1 (.storeReq 0 (pkt PT.STORE 0 0x40000000200000 [7])) PT.STORE (by simp) ?_).2.2 ?_ ?_ ?_).imp fun _ h => h.1 <;> decide +kernel,
  by refine ⟨_, ((ob.2.1 (netOwned 0x41) 0 (pkt PT.HAND 0 0x40000000200000 (leBytes 8 0x10000)) ?_ ?_ ?_ ?_ ?_ ?_ ?_).2 ?_ ?_ ?_ ?_).1 ?_ ?_⟩ <;> decide +kernel,
  by refine (((ob.2.1 (netOwned 0x42) 0 (pkt PT.HAND 0 0x40000000200000 (leBytes 8 0x10000)) ?_ ?_ ?_ ?_ ?_ ?_ ?_).2 ?_ ?_ ?_ ?_).2 ?_).imp fun _ h => h.1 <;> decide +kernel,
  by refine (ob.2.2 { netOwned 0x41 with changes := [⟨1, 1, 0, some 20, .nobody⟩], now := 20 } ⟨1, 1, 0, some 20, .nobody⟩ 20 ?_ ?_ ?_ ?_ ?_ ?_ ?_ ?_ ?_ ?_).imp fun _ h => h.1 <;> decide +kernel,
  by refine (ob.2.2 { netOwned 0x41 with changes := [⟨1, 1, 0, some 20, .nobody⟩], now := 10 } ⟨1, 1, 0, some 20, .nobody⟩ 20 ?_ ?_ ?_ ?_ ?_ ?_ ?_ ?_ ?_ ?_).imp fun _ h => h.1 <;> decide +kernel⟩

theorem witness_ResponsesAndRegionClear (ob : Obligations.ResponsesAndRegionClear) :
    (∃ t, exec (.dataRsp 0 (pkt PT.DATA 0 0 [1, 2])) net = .next t)
    ∧ (∃ t, exec (.ackRsp 0 (pkt PT.ACK 0 0 [])) { net with harts := [(0, { c0 with rops := [{ r0 with entry := 1 }] })] } = .next t)
    ∧ (∃ t, exec (.regionClear .host 1) net = .next t)
    ∧ (∃ t, exec .regionClearDone { netOwned 0x42 with clearing := some 0, now := 10000000 } = .next t) :=
  ⟨⟨_, (ob.1 net 0 (pkt PT.DATA 0 0 [1, 2]) (.dataRsp 0 (pkt PT.DATA 0 0 [1, 2])) PT.DATA (by decide +kernel) (by decide +kernel) (by decide +kernel) (by simp) (by decide +kernel)).1 (by decide +kernel)⟩,
  ⟨_, (ob.1 { net with harts := [(0, { c0 with rops := [{ r0 with entry := 1 }] })] } 0 (pkt PT.ACK 0 0 []) (.ackRsp 0 (pkt PT.ACK 0 0 [])) PT.ACK (by decide +kernel) (by decide +kernel) (by decide +kernel) (by simp) (by decide +kernel)).2 0 { r0 with entry := 1 } (by decide +kernel) (by decide +kernel)⟩,
  (ob.2.1 net .host (by decide +kernel) (by decide +kernel) (by decide +kernel) (by decide +kernel)).imp fun _ h => h.1,
  by refine (ob.2.2 { netOwned 0x42 with clearing := some 0, now := 10000000 } 0 ?_ ?_ ?_ ?_ ?_ ?_).imp fun _ h => h.1 <;> decide +kernel⟩

theorem witness_TransitCountsHops (ob : Obligations.TransitCountsHops) :
    (∃ t, exec (.packetTransit 0 { pkt PT.LOAD 3 0x43000000001000 [] with dest := 0x43, hops := 8 }) net = .next t)
    ∧ (∃ t, exec (.packetTransit 1 { pkt PT.LOAD 3 0x41000000001000 [] with dest := 0x41, src := 0x43, hops := 1 }) net = .next t) :=
  ⟨by refine ⟨_, (ob net 0 { pkt PT.LOAD 3 0x43000000001000 [] with dest := 0x43, hops := 8 } 0 ?_ ?_ ?_ ?_ ?_ ?_ ?_ ?_ ?_ ?_ ?_ ?_).1 ?_⟩ <;> decide +kernel,
  by refine ⟨_, (ob net 1 { pkt PT.LOAD 3 0x41000000001000 [] with dest := 0x41, src := 0x43, hops := 1 } 0 ?_ ?_ ?_ ?_ ?_ ?_ ?_ ?_ ?_ ?_ ?_ ?_).2 _ _ _ ?_ rfl rfl⟩ <;> decide +kernel⟩

theorem witness_PortsTrainAndDrainsEnd (ob : Obligations.PortsTrainAndDrainsEnd) :
    (∃ t, exec (.portTrainingDone 0 (some false)) (wport 1 Port.empty) = .next t)
    ∧ (∃ t, exec (.portTrainingDone 0 none) (wport 1 Port.empty) = .next t)
    ∧ (∃ t, exec (.portTrainingRetry 0) (atTick 100000000 (wport 0 Port.empty)) = .next t)
    ∧ (∃ t, exec (.portTrainingRetry 0) (atTick 99999999 (wport 0 Port.empty)) = .next t)
    ∧ (∃ t, exec (.fastRetrainDone 0 false) (wport 3 Port.empty) = .next t)
    ∧ (∃ t, exec (.fastRetrainDone 0 true) (wport 3 Port.empty) = .next t)
    ∧ (∃ t, exec (.retrain .host 9) (wport 2 Port.empty) = .next t)
    ∧ (∃ t, exec (.routeEntryWrite .host 0x800000000000000F) (wport 2 Port.empty) = .next t)
    ∧ (∃ t, exec (.tagDrainEnd 0) (wdrain.setFld F.LNK_TAG_TIME.TICK 5) = .next t)
    ∧ (∃ t, exec (.tagDrainEnd 0) wdrain = .next t) :=
  ⟨((ob.1 (wport 1 Port.empty) 0 .host (by decide +kernel) (by decide +kernel) (by decide +kernel)).1 false (by decide +kernel) (by decide +kernel) (by decide +kernel) (by decide +kernel)).imp fun _ h => h.1,
  ((ob.1 (wport 1 Port.empty) 0 .host (by decide +kernel) (by decide +kernel) (by decide +kernel)).2.1 (by decide +kernel) (by decide +kernel) (by decide +kernel)).imp fun _ h => h.1,
  (((ob.1 (atTick 100000000 (wport 0 Port.empty)) 0 .host (by decide +kernel) (by decide +kernel) (by decide +kernel)).2.2.1 (by decide +kernel) (by decide +kernel)).1 (by decide +kernel)).imp fun _ h => h.1,
  ⟨_, ((ob.1 (atTick 99999999 (wport 0 Port.empty)) 0 .host (by decide +kernel) (by decide +kernel) (by decide +kernel)).2.2.1 (by decide +kernel) (by decide +kernel)).2 (by decide +kernel)⟩,
  ⟨_, (ob.1 (wport 3 Port.empty) 0 .host (by decide +kernel) (by decide +kernel) (by decide +kernel)).2.2.2.1 (by decide +kernel) (by decide +kernel)⟩,
  ((ob.1 (wport 3 Port.empty) 0 .host (by decide +kernel) (by decide +kernel) (by decide +kernel)).2.2.2.2.1 (by decide +kernel) (by decide +kernel) (by decide +kernel)).imp fun _ h => h.1,
  ((ob.1 (wport 2 Port.empty) 0 .host (by decide +kernel) (by decide +kernel) (by decide +kernel)).2.2.2.2.2.1 9 (by decide +kernel) (by decide +kernel) (by decide +kernel) (by decide +kernel)).imp fun _ h => h.1,
  ((ob.1 (wport 2 Port.empty) 0 .host (by decide +kernel) (by decide +kernel) (by decide +kernel)).2.2.2.2.2.2 0x800000000000000F (by decide +kernel) (by decide +kernel) (by decide +kernel) (by decide +kernel)).imp fun _ h => h.1,
  ⟨_, (ob.2 (wdrain.setFld F.LNK_TAG_TIME.TICK 5) 0 (by decide +kernel) (by decide +kernel) (by decide +kernel)).1 (by decide +kernel)⟩,
  ((ob.2 wdrain 0 (by decide +kernel) (by decide +kernel) (by decide +kernel)).2 (by decide +kernel)).imp fun _ h => h.1⟩

theorem witness_FlitsAreAnswered (ob : Obligations.FlitsAreAnswered) :
    (∃ t, exec (.idleFlit 0 [] false) wpeer = .next t)
    ∧ (∃ t, exec (.nak 0 [] false) (wport 2 { Port.empty with peerSeen := true, nakSent := true }) = .next t)
    ∧ (∃ t, exec (.idleFlit 0 (flitOf 0 []) false) wheld = .next t)
    ∧ (∃ t, exec (.dataFlit 0 (flitOf (1 * 2 ^ 52 + 1 * 2 ^ 37 + 2 * 2 ^ 15) (packetBytes (pkt PT.LOAD 3 0x40000000001000 []))) false) wpeer = .next t)
    ∧ (∃ t, exec (.dataFlit 0 (flitOf (7 * 2 ^ 52 + 1 * 2 ^ 37) []) false) wpeer = .next t)
    ∧ (∃ t, exec (.nak 0 (flitOf (9 * 2 ^ 40 + 2 * 2 ^ 37) []) false) wheld = .next t)
    ∧ (∃ t, exec (.replayTimeout 0) wheld = .next t)
    ∧ (∃ t, exec (.param 0 (flitOf (3 * 2 ^ 37 + 2 * 2 ^ 15) (peerOf 8)) false) (wport 2 Port.empty) = .next t)
    ∧ (∃ t, exec (.param 0 (flitOf (3 * 2 ^ 37 + 2 * 2 ^ 15) (peerOf 9)) false) (wport 2 Port.empty) = .next t)
    ∧ (∃ t, exec (.paramPeriodicSend 0) (wport 2 Port.empty) = .next t) :=
  ⟨by refine ((ob wpeer 0 [] false ?_ ?_ ?_ ?_ ?_ ?_).1 (.idleFlit 0 [] false) (by simp) ?_ ?_).imp fun _ h => h.1 <;> decide +kernel,
  by refine ((ob (wport 2 { Port.empty with peerSeen := true, nakSent := true }) 0 [] false ?_ ?_ ?_ ?_ ?_ ?_).1 (.nak 0 [] false) (by simp) ?_ ?_).imp fun _ h => h.1 <;> decide +kernel,
  by refine ((ob wheld 0 (flitOf 0 []) false ?_ ?_ ?_ ?_ ?_ ?_).2.1 (0, 1, List.replicate 16 0, 0) [] ?_ ?_ ?_ ?_).imp fun _ h => h.1 <;> decide +kernel,
  by refine (((ob wpeer 0 (flitOf (1 * 2 ^ 52 + 1 * 2 ^ 37 + 2 * 2 ^ 15) (packetBytes (pkt PT.LOAD 3 0x40000000001000 []))) false ?_ ?_ ?_ ?_ ?_ ?_).2.2.1 ?_ ?_).1 ?_).imp fun _ h => h.1 <;> decide +kernel,
  by refine (((ob wpeer 0 (flitOf (7 * 2 ^ 52 + 1 * 2 ^ 37) []) false ?_ ?_ ?_ ?_ ?_ ?_).2.2.1 ?_ ?_).2 ?_ ?_ ?_).imp fun _ h => h.1 <;> decide +kernel,
  by refine ((ob wheld 0 (flitOf (9 * 2 ^ 40 + 2 * 2 ^ 37) []) false ?_ ?_ ?_ ?_ ?_ ?_).2.2.2.1 ?_ ?_ ?_ ?_ ?_ ?_).imp fun _ h => h.1 <;> decide +kernel,
  by refine ((ob wheld 0 [] false ?_ ?_ ?_ ?_ ?_ ?_).2.2.2.2.1 (0, 1, List.replicate 16 0, 0) ?_ ?_ ?_ ?_).imp fun _ h => h.1 <;> decide +kernel,
  by refine ((ob (wport 2 Port.empty) 0 (flitOf (3 * 2 ^ 37 + 2 * 2 ^ 15) (peerOf 8)) false ?_ ?_ ?_ ?_ ?_ ?_).2.2.2.2.2.1 ?_ ?_ ?_ ?_ ?_ ?_).imp fun _ h => h.1 <;> decide +kernel,
  by refine ((ob (wport 2 Port.empty) 0 (flitOf (3 * 2 ^ 37 + 2 * 2 ^ 15) (peerOf 9)) false ?_ ?_ ?_ ?_ ?_ ?_).2.2.2.2.2.1 ?_ ?_ ?_ ?_ ?_ ?_).imp fun _ h => h.1 <;> decide +kernel,
  by refine ((ob (wport 2 Port.empty) 0 [] false ?_ ?_ ?_ ?_ ?_ ?_).2.2.2.2.2.2 ?_).imp fun _ h => h.1 <;> decide +kernel⟩

theorem witness_PostedTransfersAreChecked (ob : Obligations.PostedTransfersAreChecked) :
    (∃ t, exec (.send .host 0 0xFFFF0C0000000000) (wpost sendDesc) = .next t)
    ∧ (∃ t, exec (.recv .host 0 0xFFFF0C0000000000) (wpost recvDesc) = .next t)
    ∧ (∃ t, exec (.round .host 0 0xFFFF0C0000000000) (wpost roundDesc) = .next t)
    ∧ (∃ t, exec (.send .host 0 0xFFFF0C0000000000) (wpost (sendDesc.set 4 17 |>.set 1 1)) = .next t) :=
  ⟨⟨_, ((ob (wpost sendDesc) .host 0 0xFFFF0C0000000000 (.send .host 0 0xFFFF0C0000000000) 0 (by decide +kernel) (by decide +kernel) (by decide +kernel) (by simp)) (by decide +kernel) (by decide +kernel) (by decide +kernel) ⟨0, by decide +kernel⟩ (by decide +kernel) (by decide +kernel) (by decide +kernel) (by decide +kernel)).1 (by decide +kernel) |>.1⟩,
  ⟨_, ((ob (wpost recvDesc) .host 0 0xFFFF0C0000000000 (.recv .host 0 0xFFFF0C0000000000) 1 (by decide +kernel) (by decide +kernel) (by decide +kernel) (by simp)) (by decide +kernel) (by decide +kernel) (by decide +kernel) ⟨0, by decide +kernel⟩ (by decide +kernel) (by decide +kernel) (by decide +kernel) (by decide +kernel)).1 (by decide +kernel) |>.1⟩,
  ⟨_, ((ob (wpost roundDesc) .host 0 0xFFFF0C0000000000 (.round .host 0 0xFFFF0C0000000000) 2 (by decide +kernel) (by decide +kernel) (by decide +kernel) (by simp)) (by decide +kernel) (by decide +kernel) (by decide +kernel) ⟨0, by decide +kernel⟩ (by decide +kernel) (by decide +kernel) (by decide +kernel) (by decide +kernel)).1 (by decide +kernel) |>.1⟩,
  (((ob (wpost (sendDesc.set 4 17 |>.set 1 1)) .host 0 0xFFFF0C0000000000 (.send .host 0 0xFFFF0C0000000000) 0 (by decide +kernel) (by decide +kernel) (by decide +kernel) (by simp)) (by decide +kernel) (by decide +kernel) (by decide +kernel) ⟨0, by decide +kernel⟩ (by decide +kernel) (by decide +kernel) (by decide +kernel) (by decide +kernel)).2 (by decide +kernel)).imp fun _ h => h.1⟩

theorem witness_ControlPacketsMoveTransfers (ob : Obligations.ControlPacketsMoveTransfers) :
    (∃ t, exec (.rts 0 (ctl 0 (keyBytes 0x101 9 2 ++ [0, 15, 0, 0] ++ leBytes 4 16 ++ leBytes 4 77))) (wxf (recvX (.open_ 0 0) [])) = .next t)
    ∧ (∃ t, exec (.rts 0 (ctl 0 (keyBytes 0x101 7 2 ++ [0, 15, 0, 0] ++ leBytes 4 16 ++ leBytes 4 77))) (wxf (recvX (.open_ 0 0) [])) = .next t)
    ∧ (∃ t, exec (.cts 0 (ctl 1 (ctsPayload (keyBytes 0x101 7 2) 16 5 3))) (wxf (sendX sendDesc (.rts 0 false))) = .next t)
    ∧ (∃ t, exec (.busy 0 (ctl 2 (busyPayload (keyBytes 0x101 7 2) 5))) (wxf (sendX sendDesc (.rts 0 false))) = .next t)
    ∧ (∃ t, exec (.mismatch 0 (ctl 3 (mismatchPayload (keyBytes 0x101 7 2) 1 5 3))) (wxf (sendX sendDesc (.rts 0 false))) = .next t)
    ∧ (∃ t, exec (.cancel 0 (ctl 4 (cancelPayload (keyBytes 0x101 7 2) ST.TIMEOUT 5 3))) (wxf (sendX sendDesc (.rts 0 false))) = .next t)
    ∧ (∃ t, exec (.busy 0 (ctl 2 (busyPayload (keyBytes 0x101 7 2) 6))) (wxf (sendX sendDesc (.rts 0 false))) = .next t) :=
  ⟨by refine ⟨_, (ob (wxf (recvX (.open_ 0 0) [])) 0 (ctl 0 (keyBytes 0x101 9 2 ++ [0, 15, 0, 0] ++ leBytes 4 16 ++ leBytes 4 77)) 5 (recvX (.open_ 0 0) []) ?_ ?_ ?_ ?_ ?_ ?_ ?_).1 ?_ ?_⟩ <;> decide +kernel,
  by refine ((ob (wxf (recvX (.open_ 0 0) [])) 0 (ctl 0 (keyBytes 0x101 7 2 ++ [0, 15, 0, 0] ++ leBytes 4 16 ++ leBytes 4 77)) 5 (recvX (.open_ 0 0) []) ?_ ?_ ?_ ?_ ?_ ?_ ?_).2.1 ?_ ?_ ?_).imp fun _ h => h.1 <;> decide +kernel,
  by refine ((ob (wxf (sendX sendDesc (.rts 0 false))) 0 (ctl 1 (ctsPayload (keyBytes 0x101 7 2) 16 5 3)) 5 (sendX sendDesc (.rts 0 false)) ?_ ?_ ?_ ?_ ?_ ?_ ?_).2.2.1 0 false ?_ ?_ ?_).imp fun _ h => h.1 <;> decide +kernel,
  by refine ⟨_, (ob (wxf (sendX sendDesc (.rts 0 false))) 0 (ctl 2 (busyPayload (keyBytes 0x101 7 2) 5)) 5 (sendX sendDesc (.rts 0 false)) ?_ ?_ ?_ ?_ ?_ ?_ ?_).2.2.2.1 0 false ?_ ?_ ?_⟩ <;> decide +kernel,
  by refine ((ob (wxf (sendX sendDesc (.rts 0 false))) 0 (ctl 3 (mismatchPayload (keyBytes 0x101 7 2) 1 5 3)) 5 (sendX sendDesc (.rts 0 false)) ?_ ?_ ?_ ?_ ?_ ?_ ?_).2.2.2.2.1 ?_ ?_).imp fun _ h => h.1 <;> decide +kernel,
  by refine ((ob (wxf (sendX sendDesc (.rts 0 false))) 0 (ctl 4 (cancelPayload (keyBytes 0x101 7 2) ST.TIMEOUT 5 3)) 5 (sendX sendDesc (.rts 0 false)) ?_ ?_ ?_ ?_ ?_ ?_ ?_).2.2.2.2.2.1 ?_ ?_).imp fun _ h => h.1 <;> decide +kernel,
  by refine ⟨_, (ob (wxf (sendX sendDesc (.rts 0 false))) 0 (ctl 2 (busyPayload (keyBytes 0x101 7 2) 6)) 5 (sendX sendDesc (.rts 0 false)) ?_ ?_ ?_ ?_ ?_ ?_ ?_).2.2.2.2.2.2 ?_ (.busy 0 (ctl 2 (busyPayload (keyBytes 0x101 7 2) 6))) 2 (by simp) ?_⟩ <;> decide +kernel⟩

theorem witness_TransfersEnd (ob : Obligations.TransfersEnd) :
    (∃ t, exec (.colData 0 { pkt PT.COL_DATA 0 4 [1, 2, 3] with txn := 0 }) (wxf (recvX (.open_ 0 0) [⟨0x41, 77, 15, [], false⟩])) = .next t)
    ∧ (∃ t, exec (.transferComplete 5) (wxf (recvX (.open_ 0 0) [⟨0x41, 77, 15, [(0, 16)], true⟩])) = .next t)
    ∧ (∃ t, exec (.transferTimeout 5) (atTick 1000 (wxf (sendX sendDesc (.rts 0 true)))) = .next t)
    ∧ (∃ t, exec (.transferTimeout 5) (atTick 999 (wxf (sendX sendDesc (.rts 0 true)))) = .next t)
    ∧ (∃ t, exec (.rtsRetry 5) (atTick 100 (wxf (sendX selfDesc (.rts 0 true)))) = .next t)
    ∧ (∃ t, exec (.rtsRetry 5) (atTick 99 (wxf (sendX selfDesc (.rts 0 true)))) = .next t)
    ∧ (∃ t, exec (.relayOrphanTimeout 0) worphan = .next t) :=
  ⟨by refine ((ob (wxf (recvX (.open_ 0 0) [⟨0x41, 77, 15, [], false⟩])) 5 (recvX (.open_ 0 0) [⟨0x41, 77, 15, [], false⟩]) ?_ ?_ ?_ ?_).1 0 { pkt PT.COL_DATA 0 4 [1, 2, 3] with txn := 0 } ⟨0x41, 77, 15, [], false⟩ 0 0 ?_ ?_ ?_ ?_ ?_ ?_ ?_ ?_ ?_ ?_ ?_).imp fun _ h => h.1 <;> decide +kernel,
  ((ob (wxf (recvX (.open_ 0 0) [⟨0x41, 77, 15, [(0, 16)], true⟩])) 5 (recvX (.open_ 0 0) [⟨0x41, 77, 15, [(0, 16)], true⟩]) (by decide +kernel) (by decide +kernel) (by decide +kernel) (by decide +kernel)).2.1 0 0 (by decide +kernel) (by decide +kernel) (by decide +kernel)).imp fun _ h => h.1,
  ((ob (atTick 1000 (wxf (sendX sendDesc (.rts 0 true)))) 5 (sendX sendDesc (.rts 0 true)) (by decide +kernel) (by decide +kernel) (by decide +kernel) (by decide +kernel)).2.2.1 0 (by decide +kernel) (by decide +kernel)).imp fun _ h => h.1,
  ⟨_, (ob (atTick 999 (wxf (sendX sendDesc (.rts 0 true)))) 5 (sendX sendDesc (.rts 0 true)) (by decide +kernel) (by decide +kernel) (by decide +kernel) (by decide +kernel)).2.2.2.1 (by decide +kernel)⟩,
  (((ob (atTick 100 (wxf (sendX selfDesc (.rts 0 true)))) 5 (sendX selfDesc (.rts 0 true)) (by decide +kernel) (by decide +kernel) (by decide +kernel) (by decide +kernel)).2.2.2.2.1 0 (by decide +kernel)).2 (by decide +kernel) (by decide +kernel) (by decide +kernel)).imp fun _ h => h.1,
  ⟨_, ((ob (atTick 99 (wxf (sendX selfDesc (.rts 0 true)))) 5 (sendX selfDesc (.rts 0 true)) (by decide +kernel) (by decide +kernel) (by decide +kernel) (by decide +kernel)).2.2.2.2.1 0 (by decide +kernel)).1 (by decide +kernel)⟩,
  ((ob worphan 5 (sendX selfDesc (.rts 0 true)) (by decide +kernel) (by decide +kernel) (by decide +kernel) (by decide +kernel)).2.2.2.2.2 0 ⟨0, 3, 0, [(0, 16)], 0⟩ (by decide +kernel) (by decide +kernel) (by decide +kernel)).imp fun _ h => h.1⟩

theorem witness_FinishLineReleases (ob : Obligations.FinishLineReleases) :
    (∃ t, exec (.release 0 lineRelease) lineMember = .next t)
    ∧ (∃ t, exec (.arrive 0 lineArrive) lineRoot = .next t) :=
  ⟨by refine ((ob lineMember 0 lineRelease 0 lineComm ?_ ?_ ?_ ?_ ?_ ?_).1 ?_ ?_ ?_ ?_ ?_).imp fun _ h => h.1 <;> decide +kernel,
  by refine ((ob lineRoot 0 lineArrive 0 rootComm ?_ ?_ ?_ ?_ ?_ ?_).2 ownArrive ?_ ?_ ?_ ?_ ?_ ?_ ?_ ?_).imp fun _ h => h.1 <;> decide +kernel⟩

theorem witness_UnitFaultsFence (ob : Obligations.UnitFaultsFence) :
    (∃ t, exec (.engineColumnFault 0) (wengs [] (some (run0 (i0 .mma mmaDesc))) none Slot.empty) = .next t)
    ∧ (∃ t, exec (.dsuLaneFault 1) State.reset = .next t)
    ∧ (∃ t, exec (.puuUnitFault 2) State.reset = .next t)
    ∧ (∃ t, exec (.colUnitFault 3) State.reset = .next t)
    ∧ (∃ t, exec (.digEngineFault 4) State.reset = .next t)
    ∧ (∃ t, exec (.memControllerFail 5) State.reset = .next t)
    ∧ (∃ t, exec .splEngineFault State.reset = .next t)
    ∧ (∃ t, exec .d2dPathFail State.reset = .next t) :=
  ⟨by refine ((ob (wengs [] (some (run0 (i0 .mma mmaDesc))) none Slot.empty) ?_ ?_ ?_ ?_ ?_).1 0 (run0 (i0 .mma mmaDesc)) ?_ ?_).imp fun _ h => h.1 <;> decide +kernel,
  by refine ((ob State.reset ?_ ?_ ?_ ?_ ?_).2.1 1 ?_).imp fun _ h => h.1 <;> decide +kernel,
  by refine ((ob State.reset ?_ ?_ ?_ ?_ ?_).2.2.1 2 ?_).imp fun _ h => h.1 <;> decide +kernel,
  by refine ((ob State.reset ?_ ?_ ?_ ?_ ?_).2.2.2.1 3 ?_).imp fun _ h => h.1 <;> decide +kernel,
  by refine ((ob State.reset ?_ ?_ ?_ ?_ ?_).2.2.2.2.1 4 ?_).imp fun _ h => h.1 <;> decide +kernel,
  by refine ((ob State.reset ?_ ?_ ?_ ?_ ?_).2.2.2.2.2.1 5 ?_ ?_).imp fun _ h => h.1 <;> decide +kernel,
  by refine ((ob State.reset ?_ ?_ ?_ ?_ ?_).2.2.2.2.2.2.1 ?_ ?_).imp fun _ h => h.1 <;> decide +kernel,
  by refine ((ob State.reset ?_ ?_ ?_ ?_ ?_).2.2.2.2.2.2.2).imp fun _ h => h.1 <;> decide +kernel⟩

theorem witness_TimeIsKept (ob : Obligations.TimeIsKept) :
    (∃ t, exec (.syncExchange 3) (child 0 Sync.empty) = .next t)
    ∧ (∃ t, exec (.syncExchange 3) (atTick 5000000 { child 2 { Sync.empty with missed := 2, sent := some (1, 0) } with regs := (child 2 Sync.empty).regs.filter (·.1 != keyOf R.LNK_PORT_STATE 0) }) = .next t)
    ∧ (∃ t, exec (.syncExchange 3) (atTick 1048575 (child 2 { Sync.empty with last := some 0 })) = .next t)
    ∧ (∃ t, exec (.syncReq 0 reqPkt 3 16) net = .next t)
    ∧ (∃ t, exec (.syncRsp 0 rspPkt 3) (asked 0 1200 Sync.empty) = .next t)
    ∧ (∃ t, exec (.syncRsp 0 nearPkt 3) (asked 1 1021 { Sync.empty with set := true, good := 3 }) = .next t)
    ∧ (∃ t, exec (.syncRsp 0 rspPkt 3) (asked 2 1200 { Sync.empty with set := true }) = .next t)
    ∧ (∃ t, exec .holdoverLimit (atTick 4194304 (child 3 Sync.empty)) = .next t)
    ∧ (∃ t, exec .holdoverLimit (atTick 4194303 (child 3 Sync.empty)) = .next t)
    ∧ (∃ t, exec (.syncInEdge 3) (atTick 1048000 { net with sync := { Sync.empty with cfg := 0x60 } }) = .next t)
    ∧ (∃ t, exec (.syncInEdge 3) net = .next t)
    ∧ (∃ t, exec .syncOutPulse net = .next t) :=
  ⟨by refine ⟨_, (ob (child 0 Sync.empty) ?_ ?_).1 3 ?_ ?_ ?_ ?_ ?_ ?_⟩ <;> decide +kernel,
  by refine ((ob (atTick 5000000 { child 2 { Sync.empty with missed := 2, sent := some (1, 0) } with regs := (child 2 Sync.empty).regs.filter (·.1 != keyOf R.LNK_PORT_STATE 0) }) ?_ ?_).2.1 3 ?_ ?_ ?_ ?_ ?_ ?_ ?_).imp fun _ h => h.1 <;> decide +kernel,
  ⟨_, (ob (atTick 1048575 (child 2 { Sync.empty with last := some 0 })) (by decide +kernel) (by decide +kernel)).2.2.1 3 0 (by decide +kernel) (by decide +kernel)⟩,
  by refine ((ob net ?_ ?_).2.2.2.1 0 reqPkt 3 16 ?_ ?_ ?_ ?_ ?_).elim fun out h => ⟨_, h.1⟩ <;> decide +kernel,
  by refine ((ob (asked 0 1200 Sync.empty) ?_ ?_).2.2.2.2.1 0 rspPkt 3 1000 3 ?_ ?_ ?_ ?_ ?_ ?_ ?_ ?_ ?_).imp fun _ h => h.1 <;> decide +kernel,
  by refine ((ob (asked 1 1021 { Sync.empty with set := true, good := 3 }) ?_ ?_).2.2.2.2.1 0 nearPkt 3 1000 3 ?_ ?_ ?_ ?_ ?_ ?_ ?_ ?_ ?_).imp fun _ h => h.1 <;> decide +kernel,
  by refine ((ob (asked 2 1200 { Sync.empty with set := true }) ?_ ?_).2.2.2.2.1 0 rspPkt 3 1000 3 ?_ ?_ ?_ ?_ ?_ ?_ ?_ ?_ ?_).imp fun _ h => h.1 <;> decide +kernel,
  ((ob (atTick 4194304 (child 3 Sync.empty)) (by decide +kernel) (by decide +kernel)).2.2.2.2.2.1 (by decide +kernel) (by decide +kernel) (by decide +kernel)).imp fun _ h => h.1,
  ⟨_, (ob (atTick 4194303 (child 3 Sync.empty)) (by decide +kernel) (by decide +kernel)).2.2.2.2.2.2.1 (by decide +kernel)⟩,
  ((ob (atTick 1048000 { net with sync := { Sync.empty with cfg := 0x60 } }) (by decide +kernel) (by decide +kernel)).2.2.2.2.2.2.2.1 3 (by decide +kernel) (by decide +kernel)).elim fun m h => ⟨_, h.2.2⟩,
  ⟨_, (ob net (by decide +kernel) (by decide +kernel)).2.2.2.2.2.2.2.2.1 3 (by decide +kernel)⟩,
  ⟨_, (ob net (by decide +kernel) (by decide +kernel)).2.2.2.2.2.2.2.2.2⟩⟩

theorem witness_LaunchesAreDecidedAndStart (ob : Obligations.LaunchesAreDecidedAndStart) :
    (∃ t, exec (.launchPost .host 0xFFFF000000000000) (wpostL (recOf 100000000 2)) = .next t)
    ∧ (∃ t, exec (.launchPost .host 0xFFFF000000000000) (wpostL (recOf 100000000 0)) = .next t)
    ∧ (∃ t, exec (.launchPost .host 0xFFFF000000000020) (wpostL (recOf 100000000 0)) = .next t)
    ∧ (∃ t, exec (.launchCancel .host 1) (wpend 5000) = .next t)
    ∧ (∃ t, exec (.refuse 0 (refPkt 5000)) (withKey net) = .next t)
    ∧ (∃ t, exec (.refuse 0 (refPkt 5000)) net = .next t)
    ∧ (∃ t, exec (.refuse 0 (refPkt 5000)) (wpend 5000) = .next t)
    ∧ (∃ t, exec (.refuseKeyRetentionEnd 1 5000) (withKey net) = .next t)
    ∧ (∃ t, exec .startCount (wpend 5000) = .next t)
    ∧ (∃ t, exec .startCount (atTick 5000 (wpend 5000)) = .next t) :=
  ⟨((((ob.1 (wpostL (recOf 100000000 2)) .host (by decide +kernel) (by decide +kernel) (by decide +kernel)).1 0xFFFF000000000000 (by decide +kernel) (by decide +kernel)).1 ⟨(by decide +kernel), (by decide +kernel), (by decide +kernel)⟩ (by decide +kernel))).imp fun _ h => h.1,
  ((((ob.1 (wpostL (recOf 100000000 0)) .host (by decide +kernel) (by decide +kernel) (by decide +kernel)).1 0xFFFF000000000000 (by decide +kernel) (by decide +kernel)).2.1 7 ⟨(by decide +kernel), (by decide +kernel), (by decide +kernel)⟩ (by decide +kernel) (by decide +kernel))).imp fun _ h => h.1,
  ⟨_, (((ob.1 (wpostL (recOf 100000000 0)) .host (by decide +kernel) (by decide +kernel) (by decide +kernel)).1 0xFFFF000000000020 (by decide +kernel) (by decide +kernel)).2.2 (by decide +kernel))⟩,
  by refine ((ob.1 (wpend 5000) .host ?_ ?_ ?_).2.1 1 ⟨recOf 5000 2, 0⟩ ?_ ?_ ?_ ?_ ?_).imp fun _ h => h.1 <;> decide +kernel,
  ⟨_, ((ob.1 (withKey net) .host (by decide +kernel) (by decide +kernel) (by decide +kernel)).2.2.1 0 (refPkt 5000) (by decide +kernel) (by decide +kernel) (by decide +kernel) (by decide +kernel) (fun l h => nomatch ((by decide +kernel : (withKey net).pendingLaunch = none).symm.trans h))).1 (by decide +kernel)⟩,
  (((ob.1 net .host (by decide +kernel) (by decide +kernel) (by decide +kernel)).2.2.1 0 (refPkt 5000) (by decide +kernel) (by decide +kernel) (by decide +kernel) (by decide +kernel) (fun l h => nomatch ((by decide +kernel : net.pendingLaunch = none).symm.trans h))).2.1 (by decide +kernel) (by decide +kernel)).imp fun _ h => h.1,
  by refine (((ob.1 (wpend 5000) .host ?_ ?_ ?_).2.2.1 0 (refPkt 5000) ?_ ?_ ?_ ?_ (by intro l h; cases h; decide +kernel)).2.2 ⟨recOf 5000 2, 0⟩ ?_ ?_ ?_ ?_ ?_).imp fun _ h => h.1 <;> decide +kernel,
  ((ob.1 (withKey net) .host (by decide +kernel) (by decide +kernel) (by decide +kernel)).2.2.2 1 5000).imp fun _ h => h.1,
  ⟨_, (ob.2 (wpend 5000) ⟨recOf 5000 2, 0⟩ imgOne (by decide +kernel) (by decide +kernel) (by decide +kernel)).1 (by decide +kernel)⟩,
  by refine ((ob.2 (atTick 5000 (wpend 5000)) ⟨recOf 5000 2, 0⟩ imgOne ?_ ?_ ?_).2 ?_ ?_ ?_ ?_ ?_ ?_ ?_ ?_ ?_ ?_ ?_ ?_).imp fun _ h => h.1 <;> decide +kernel⟩

theorem witness_DigestsAreComputed (ob : Obligations.DigestsAreComputed) :
    (∃ t, exec (.leaves .host 0 0xFFFF000000004000) (wdig (digDesc 0 0) []) = .next t)
    ∧ (∃ t, exec (.root .host 0 0xFFFF000000004000) (wdig (digDesc 1 0) []) = .next t)
    ∧ (∃ t, exec (.full .host 0 0xFFFF000000004000) (wdig (digDesc 2 0) []) = .next t)
    ∧ (∃ t, exec (.bind .host 0 0xFFFF000000004000) (wdig (digDesc 3 0) []) = .next t)
    ∧ (∃ t, exec (.bind .host 0 0xFFFF000000004000) (wdig (digDesc 3 0) (List.replicate 16 ⟨digDesc 2 0, .host⟩)) = .next t)
    ∧ (∃ t, exec (.digestCommandComplete 0) (wdig [] []) = .next t)
    ∧ (∃ t, exec (.digestCommandComplete 0) (wdig [] [⟨digDesc 2 2, .host⟩]) = .next t)
    ∧ (∃ t, exec (.digestCommandComplete 0) (wdig [] [⟨digDesc 1 1, .host⟩]) = .next t)
    ∧ (∃ t, exec (.digestCommandComplete 0) { rdy with digs := [(0, ⟨[⟨digDesc 2 2, .host⟩], true⟩)] } = .next t) :=
  ⟨by refine ⟨_, ((ob (wdig (digDesc 0 0) []) .host 0 ?_ ?_ ?_ ?_).1 0xFFFF000000004000 (.leaves .host 0 0xFFFF000000004000) 0 (by simp) ?_ ?_ ?_ ?_ ?_ ?_).1 ?_⟩ <;> decide +kernel,
  by refine ⟨_, ((ob (wdig (digDesc 1 0) []) .host 0 ?_ ?_ ?_ ?_).1 0xFFFF000000004000 (.root .host 0 0xFFFF000000004000) 1 (by simp) ?_ ?_ ?_ ?_ ?_ ?_).1 ?_⟩ <;> decide +kernel,
  by refine ⟨_, ((ob (wdig (digDesc 2 0) []) .host 0 ?_ ?_ ?_ ?_).1 0xFFFF000000004000 (.full .host 0 0xFFFF000000004000) 2 (by simp) ?_ ?_ ?_ ?_ ?_ ?_).1 ?_⟩ <;> decide +kernel,
  by refine ⟨_, ((ob (wdig (digDesc 3 0) []) .host 0 ?_ ?_ ?_ ?_).1 0xFFFF000000004000 (.bind .host 0 0xFFFF000000004000) 3 (by simp) ?_ ?_ ?_ ?_ ?_ ?_).1 ?_⟩ <;> decide +kernel,
  by refine ⟨_, ((ob (wdig (digDesc 3 0) (List.replicate 16 ⟨digDesc 2 0, .host⟩)) .host 0 ?_ ?_ ?_ ?_).1 0xFFFF000000004000 (.bind .host 0 0xFFFF000000004000) 3 (by simp) ?_ ?_ ?_ ?_ ?_ ?_).2 ?_⟩ <;> decide +kernel,
  ⟨_, (ob (wdig [] []) .host 0 (by decide +kernel) (by decide +kernel) (by decide +kernel) (by decide +kernel)).2.1 (by decide +kernel)⟩,
  ((ob (wdig [] [⟨digDesc 2 2, .host⟩]) .host 0 (by decide +kernel) (by decide +kernel) (by decide +kernel) (by decide +kernel)).2.2 ⟨digDesc 2 2, .host⟩ [] (by decide +kernel) (by decide +kernel)).imp fun _ h => h.1,
  ((ob (wdig [] [⟨digDesc 1 1, .host⟩]) .host 0 (by decide +kernel) (by decide +kernel) (by decide +kernel) (by decide +kernel)).2.2 ⟨digDesc 1 1, .host⟩ [] (by decide +kernel) (by decide +kernel)).imp fun _ h => h.1,
  ((ob { rdy with digs := [(0, ⟨[⟨digDesc 2 2, .host⟩], true⟩)] } .host 0 (by decide +kernel) (by decide +kernel) (by decide +kernel) (by decide +kernel)).2.2 ⟨digDesc 2 2, .host⟩ [] (by decide +kernel) (by decide +kernel)).imp fun _ h => h.1⟩

theorem witness_SplitPostsAct (ob : Obligations.SplitPostsAct) :
    (∃ t, exec (.seal .host 0xFFFF000000004000) (wspl sealDesc) = .next t)
    ∧ (∃ t, exec (.check .host 0xFFFF000000004000) (wspl checkDesc) = .next t)
    ∧ (∃ t, exec (.restore .host 0xFFFF000000004000) (wspl restDesc) = .next t)
    ∧ (∃ t, exec (.seal .host 0xFFFF000000004000) { wspl sealDesc with splQueue := List.replicate 8 ⟨sealDesc, .host, false⟩ } = .next t)
    ∧ (∃ t, exec (.start .host 0xFFFF000000004000) (wspl startDesc) = .next t)
    ∧ (∃ t, exec (.start .host 0xFFFF000000004000) (wspl (startDesc.set 8 4)) = .next t)
    ∧ (∃ t, exec (.abandon .host 0xFFFF000000004000) { wspl abanDesc with splRun := some (srun startDesc [(1, 0x020000001000)] false), protectedGranules := [1] } = .next t) :=
  ⟨by refine ⟨_, ((ob (wspl sealDesc) .host 0xFFFF000000004000 ?_ ?_ ?_ ?_ ?_ ?_ ?_ ?_ ?_ ?_ ?_ ?_ ?_ ?_).1 (.seal .host 0xFFFF000000004000) 1 (by simp) ?_).1 ?_ ?_⟩ <;> decide +kernel,
  by refine ⟨_, ((ob (wspl checkDesc) .host 0xFFFF000000004000 ?_ ?_ ?_ ?_ ?_ ?_ ?_ ?_ ?_ ?_ ?_ ?_ ?_ ?_).1 (.check .host 0xFFFF000000004000) 2 (by simp) ?_).1 ?_ ?_⟩ <;> decide +kernel,
  by refine ⟨_, ((ob (wspl restDesc) .host 0xFFFF000000004000 ?_ ?_ ?_ ?_ ?_ ?_ ?_ ?_ ?_ ?_ ?_ ?_ ?_ ?_).1 (.restore .host 0xFFFF000000004000) 3 (by simp) ?_).1 ?_ ?_⟩ <;> decide +kernel,
  by refine ⟨_, ((ob { wspl sealDesc with splQueue := List.replicate 8 ⟨sealDesc, .host, false⟩ } .host 0xFFFF000000004000 ?_ ?_ ?_ ?_ ?_ ?_ ?_ ?_ ?_ ?_ ?_ ?_ ?_ ?_).1 (.seal .host 0xFFFF000000004000) 1 (by simp) ?_).2 ?_⟩ <;> decide +kernel,
  by refine (((ob (wspl startDesc) .host 0xFFFF000000004000 ?_ ?_ ?_ ?_ ?_ ?_ ?_ ?_ ?_ ?_ ?_ ?_ ?_ ?_).2.1 ?_ ?_ ?_ ?_).1 { comm1 with lapDone := some 3 } 0 _ ?_ ?_ rfl).imp fun _ h => h.1 <;> decide +kernel,
  by refine (((ob (wspl (startDesc.set 8 4)) .host 0xFFFF000000004000 ?_ ?_ ?_ ?_ ?_ ?_ ?_ ?_ ?_ ?_ ?_ ?_ ?_ ?_).2.1 ?_ ?_ ?_ ?_).2 ?_).imp fun _ h => h.1 <;> decide +kernel,
  by refine ((ob { wspl abanDesc with splRun := some (srun startDesc [(1, 0x020000001000)] false), protectedGranules := [1] } .host 0xFFFF000000004000 ?_ ?_ ?_ ?_ ?_ ?_ ?_ ?_ ?_ ?_ ?_ ?_ ?_ ?_).2.2 (srun startDesc [(1, 0x020000001000)] false) ?_ ?_ ?_ ?_ ?_).imp fun _ h => h.1 <;> decide +kernel⟩

theorem witness_SplitEngineWorks (ob : Obligations.SplitEngineWorks) :
    (∃ t, exec (.granuleCopyDone true) (wrun (srun startDesc [(1, 0x020000001000)] false) [1] []) = .next t)
    ∧ (∃ t, exec (.priorityCopyDone true) { wrun (srun startDesc [(3, 0x020000201000), (1, 0x020000001000)] false) [1, 3] [(0x200007, 9)] with splPrio := [1] } = .next t)
    ∧ (∃ t, exec (.granuleCopyDone false) (wrun (srun startDesc [(1, 0x020000001000)] false) [1] []) = .next t)
    ∧ (∃ t, exec .splitStartComplete (wrun (srun startDesc [(1, 0x020000001000)] false) [1] []) = .next t)
    ∧ (∃ t, exec .splitStartComplete (wrun (srun startDesc [] true) [] imgMem) = .next t)
    ∧ (∃ t, exec .splitCommandComplete (wrun (srun sealDesc [] false) [] imgMem) = .next t)
    ∧ (∃ t, exec .splitCommandComplete (wrun (srun checkDesc [] false) [] imgMem) = .next t)
    ∧ (∃ t, exec .splitCommandComplete (wrun (srun restDesc [] false) [] imgMem) = .next t)
    ∧ (∃ t, exec (.priorityRequestRetry 1) (waiting []) = .next t)
    ∧ (∃ t, exec (.priorityRequestRetry 1) (waiting (List.replicate 64 5)) = .next t)
    ∧ (∃ t, exec .splitCommandComplete (wrun (srun (splDesc 9 0 0 0 0 0 0) [] false) [] imgMem) = .next t)
    ∧ (∃ t, exec .splitStartComplete { wrun (srun startDesc [] true) [] imgMem with regs := [] } = .next t) :=
  ⟨by refine (((ob.1 (wrun (srun startDesc [(1, 0x020000001000)] false) [1] []) (srun startDesc [(1, 0x020000001000)] false) ?_ ?_ ?_ ?_ ?_ ?_ ?_ ?_ ?_ ?_ ?_).1 1 0x020000001000 (near_not_hwin (by decide)) (near_not_hwin (by decide)) ?_).1 [] ?_ ?_).imp fun _ h => h.1 <;> decide +kernel,
  by refine (((ob.1 { wrun (srun startDesc [(3, 0x020000201000), (1, 0x020000001000)] false) [1, 3] [(0x200007, 9)] with splPrio := [1] } (srun startDesc [(3, 0x020000201000), (1, 0x020000001000)] false) ?_ ?_ ?_ ?_ ?_ ?_ ?_ ?_ ?_ ?_ ?_).1 1 0x020000001000 (near_not_hwin (by decide)) (near_not_hwin (by decide)) ?_).2 [] ?_ ?_).imp fun _ h => h.1 <;> decide +kernel,
  by refine ((ob.1 (wrun (srun startDesc [(1, 0x020000001000)] false) [1] []) (srun startDesc [(1, 0x020000001000)] false) ?_ ?_ ?_ ?_ ?_ ?_ ?_ ?_ ?_ ?_ ?_).2.1 1 0x020000001000 [] ?_ ?_).imp fun _ h => h.1 <;> decide +kernel,
  by refine ⟨_, (ob.1 (wrun (srun startDesc [(1, 0x020000001000)] false) [1] []) (srun startDesc [(1, 0x020000001000)] false) ?_ ?_ ?_ ?_ ?_ ?_ ?_ ?_ ?_ ?_ ?_).2.2.1 ?_⟩ <;> decide +kernel,
  by refine ((ob.1 (wrun (srun startDesc [] true) [] imgMem) (srun startDesc [] true) ?_ ?_ ?_ ?_ ?_ ?_ ?_ ?_ ?_ ?_ ?_).2.2.2.1 ?_ ?_).imp fun _ h => h.1 <;> decide +kernel,
  by refine ((ob.1 (wrun (srun sealDesc [] false) [] imgMem) (srun sealDesc [] false) ?_ ?_ ?_ ?_ ?_ ?_ ?_ ?_ ?_ ?_ ?_).2.2.2.2 ?_ ?_).imp fun _ h => h.1 <;> decide +kernel,
  by refine ((ob.1 (wrun (srun checkDesc [] false) [] imgMem) (srun checkDesc [] false) ?_ ?_ ?_ ?_ ?_ ?_ ?_ ?_ ?_ ?_ ?_).2.2.2.2 ?_ ?_).imp fun _ h => h.1 <;> decide +kernel,
  by refine ((ob.1 (wrun (srun restDesc [] false) [] imgMem) (srun restDesc [] false) ?_ ?_ ?_ ?_ ?_ ?_ ?_ ?_ ?_ ?_ ?_).2.2.2.2 ?_ ?_).imp fun _ h => h.1 <;> decide +kernel,
  ⟨_, (ob.2 (waiting []) 1 (by decide +kernel) (by decide +kernel) ⟨_, List.mem_singleton.mpr rfl, rfl⟩ (by decide +kernel) (by decide +kernel)).1 (by decide +kernel)⟩,
  ⟨_, (ob.2 (waiting (List.replicate 64 5)) 1 (by decide +kernel) (by decide +kernel) ⟨_, List.mem_singleton.mpr rfl, rfl⟩ (by decide +kernel) (by decide +kernel)).2 (by decide +kernel)⟩,
  by refine ((ob.1 (wrun (srun (splDesc 9 0 0 0 0 0 0) [] false) [] imgMem) (srun (splDesc 9 0 0 0 0 0 0) [] false) ?_ ?_ ?_ ?_ ?_ ?_ ?_ ?_ ?_ ?_ ?_).2.2.2.2 ?_ ?_).imp fun _ h => h.1 <;> decide +kernel,
  by refine ((ob.1 { wrun (srun startDesc [] true) [] imgMem with regs := [] } (srun startDesc [] true) ?_ ?_ ?_ ?_ ?_ ?_ ?_ ?_ ?_ ?_ ?_).2.2.2.1 ?_ ?_).imp fun _ h => h.1 <;> decide +kernel⟩

theorem witness_PoisonStopsTheJob (ob : Obligations.PoisonStopsTheJob) :
    (∃ t, exec (.poison 0 poisonPkt) { net with harts := [(0, c0)], image := some imgOne } = .next t)
    ∧ (∃ t, exec (.poison 0 poisonPkt) { net with harts := [(0, c0)], poisonMet := true } = .next t) :=
  ⟨by refine ((ob { net with harts := [(0, c0)], image := some imgOne } 0 poisonPkt 0 ?_ ?_ ?_ ?_ ?_ ?_ ?_ ?_ ?_).1 ?_ ?_ ?_ ?_).imp fun _ h => h.1 <;> decide +kernel,
  by refine ((ob { net with harts := [(0, c0)], poisonMet := true } 0 poisonPkt 0 ?_ ?_ ?_ ?_ ?_ ?_ ?_ ?_ ?_).2 ?_).imp fun _ h => h.1 <;> decide +kernel⟩

theorem witness_ResetDomainsClearAndEnd (ob : Obligations.ResetDomainsClearAndEnd) :
    (∃ t, exec (.contextAbort .host 0) { rdy with harts := [(0, c0), (1, c0)] } = .next t)
    ∧ (∃ t, exec (.coreReset .host 0) wlive = .next t)
    ∧ (∃ t, exec (.clusterReset .host 0) wlive = .next t)
    ∧ (∃ t, exec (.computeReset .host) wlive = .next t)
    ∧ (∃ t, exec (.packageReset .host) wlive = .next t)
    ∧ (∃ t, exec (.coldReset .host) wlive = .next t)
    ∧ (∃ t, exec .resetComplete rdy = .next t)
    ∧ (∃ t, exec .resetComplete { resets 0 0 with harts := [(0, { c0 with st := .aborted })] } = .next t)
    ∧ (∃ t, exec .resetComplete ((resets 4 0).setFld F.MGT_PINS.PKG_RST_N 0) = .next t)
    ∧ (∃ t, exec .resetComplete ((resets 4 0).setFld F.MGT_PINS.PKG_RST_N 1) = .next t)
    ∧ (∃ t, exec .resetComplete ((resets 5 0).setFld F.MGT_PINS.PWR_GOOD 0) = .next t)
    ∧ (∃ t, exec .resetComplete wcold = .next t) :=
  ⟨by refine ((ob.1 { rdy with harts := [(0, c0), (1, c0)] } ?_ ?_ ?_ ?_ ?_ ?_ ?_ ?_ ?_).1 0 ?_).imp fun _ h => h.1 <;> decide +kernel,
  by refine ((ob.1 wlive ?_ ?_ ?_ ?_ ?_ ?_ ?_ ?_ ?_).2.1 0).imp fun _ h => h.1 <;> decide +kernel,
  by refine ((ob.1 wlive ?_ ?_ ?_ ?_ ?_ ?_ ?_ ?_ ?_).2.2.1 0).imp fun _ h => h.1 <;> decide +kernel,
  by refine ((ob.1 wlive ?_ ?_ ?_ ?_ ?_ ?_ ?_ ?_ ?_).2.2.2.1).imp fun _ h => h.1 <;> decide +kernel,
  by refine ((ob.1 wlive ?_ ?_ ?_ ?_ ?_ ?_ ?_ ?_ ?_).2.2.2.2.1).imp fun _ h => h.1 <;> decide +kernel,
  by refine ((ob.1 wlive ?_ ?_ ?_ ?_ ?_ ?_ ?_ ?_ ?_).2.2.2.2.2).imp fun _ h => h.1 <;> decide +kernel,
  by refine ⟨_, (ob.2 rdy ?_ ?_ ?_ ?_ ?_).1 ?_⟩ <;> decide +kernel,
  by refine ((ob.2 { resets 0 0 with harts := [(0, { c0 with st := .aborted })] } ?_ ?_ ?_ ?_ ?_).2.1 0 0 ?_ ?_).imp fun _ h => h.1 <;> decide +kernel,
  by refine ⟨_, ((ob.2 ((resets 4 0).setFld F.MGT_PINS.PKG_RST_N 0) ?_ ?_ ?_ ?_ ?_).2.2.1 0 ?_).1 ?_⟩ <;> decide +kernel,
  by refine (((ob.2 ((resets 4 0).setFld F.MGT_PINS.PKG_RST_N 1) ?_ ?_ ?_ ?_ ?_).2.2.1 0 ?_).2 ?_).imp fun _ h => h.1 <;> decide +kernel,
  by refine ⟨_, ((ob.2 ((resets 5 0).setFld F.MGT_PINS.PWR_GOOD 0) ?_ ?_ ?_ ?_ ?_).2.2.2 0 ?_).1 ?_⟩ <;> decide +kernel,
  by refine (((ob.2 wcold ?_ ?_ ?_ ?_ ?_).2.2.2 0 ?_).2 ?_).imp fun _ h => h.1 <;> decide +kernel⟩

theorem witness_HostAccessesAct (ob : Obligations.HostAccessesAct) :
    (∃ t, exec (.bar2Write 16 [1, 2]) (wphase 2) = .next t)
    ∧ (∃ t, exec (.bar2Write 16 [1, 2]) rdy = .next t)
    ∧ (∃ t, exec (.registerRead .host 0x10000010 8) { wphase 2 with bootMem := [(17, 3)] } = .next t)
    ∧ (∃ t, exec (.registerRead .host 0x20000080 8) (wforward 122) = .next t)
    ∧ (∃ t, exec (.registerWrite .host 0x20000080 8 5) (wforward 122) = .next t)
    ∧ (∃ t, exec (.hostCxlMemAccess 0x40 8 none) wcxl = .next t)
    ∧ (∃ t, exec (.hostCxlMemAccess 0x40 8 (some [1, 2])) wcxl = .next t)
    ∧ (∃ t, exec (.hostCxlMemAccess 0x40 8 none) rdy = .next t)
    ∧ (∃ t, exec (.hdmDecoderCommit 1 0x10000000 0x18000000000) wcxl = .next t)
    ∧ (∃ t, exec (.hdmDecoderCommit 2 0x10000000 0x18000000000) wcxl = .next t)
    ∧ (∃ t, exec (.hostWindowTimeout 0x0F0000000040 true .hostRead) whwin = .next t)
    ∧ (∃ t, exec (.hostWindowTimeout 0x0F0000000040 false (.hart (.ctx 0 0))) { whwin with harts := [(0, { c0 with st := .parked })] } = .next t)
    ∧ (∃ t, exec (.configWrite (.cacheEnable true)) wcxl = .next t)
    ∧ (∃ t, exec (.configWrite (.memEnable false)) wcxl = .next t)
    ∧ (∃ t, exec (.configWrite (.msixEnable true)) wcxl = .next t)
    ∧ (∃ t, exec (.configWrite (.deviceControl2 5)) wcxl = .next t)
    ∧ (∃ t, exec (.configWrite (.deviceControl 0x5040)) wcxl = .next t)
    ∧ (∃ t, exec (.configWrite (.aer 2 7)) wcxl = .next t) :=
  ⟨by refine ⟨_, ((ob (wphase 2) ?_ ?_ ?_ ?_ ?_).1 16 [1, 2] ?_).1 ?_⟩ <;> decide +kernel,
  by refine ⟨_, ((ob rdy ?_ ?_ ?_ ?_ ?_).1 16 [1, 2] ?_).2 ?_⟩ <;> decide +kernel,
  by refine ⟨_, (ob { wphase 2 with bootMem := [(17, 3)] } ?_ ?_ ?_ ?_ ?_).2.1 16 ?_ ?_⟩ <;> decide +kernel,
  by refine ⟨_, ((ob (wforward 122) ?_ ?_ ?_ ?_ ?_).2.2.1 0x80 ?_ ?_).1⟩ <;> decide +kernel,
  by refine ⟨_, ((ob (wforward 122) ?_ ?_ ?_ ?_ ?_).2.2.1 0x80 ?_ ?_).2 5⟩ <;> decide +kernel,
  by refine ⟨_, ((ob wcxl ?_ ?_ ?_ ?_ ?_).2.2.2.1 0x40 8 []).2.1 ?_ ?_ ?_ ?_⟩ <;> decide +kernel,
  by refine ⟨_, ((ob wcxl ?_ ?_ ?_ ?_ ?_).2.2.2.1 0x40 8 [1, 2]).2.2.1 ?_ ?_ ?_ ?_⟩ <;> decide +kernel,
  by refine ⟨_, ((ob rdy ?_ ?_ ?_ ?_ ?_).2.2.2.1 0x40 8 []).2.2.2 ?_ none⟩ <;> decide +kernel,
  by refine ⟨_, ((ob wcxl ?_ ?_ ?_ ?_ ?_).2.2.2.2.1 1 0x10000000 0x18000000000 ?_).1 ?_⟩ <;> decide +kernel,
  by refine ⟨_, ((ob wcxl ?_ ?_ ?_ ?_ ?_).2.2.2.2.1 2 0x10000000 0x18000000000 ?_).2 ?_⟩ <;> decide +kernel,
  by refine ((ob whwin ?_ ?_ ?_ ?_ ?_).2.2.2.2.2.1 0x0F0000000040 ?_ ?_).imp fun _ h => h.1 <;> decide +kernel,
  by refine ((ob { whwin with harts := [(0, { c0 with st := .parked })] } ?_ ?_ ?_ ?_ ?_).2.2.2.2.2.2.1 0x0F0000000040 0 0 ?_ ?_ ?_ ?_).imp fun _ h => h.1 <;> decide +kernel,
  by refine ⟨_, (((ob wcxl ?_ ?_ ?_ ?_ ?_).2.2.2.2.2.2.2 ?_).1 true ?_).1⟩ <;> decide +kernel,
  by refine ⟨_, (((ob wcxl ?_ ?_ ?_ ?_ ?_).2.2.2.2.2.2.2 ?_).1 false ?_).2⟩ <;> decide +kernel,
  by refine ⟨_, ((ob wcxl ?_ ?_ ?_ ?_ ?_).2.2.2.2.2.2.2 ?_).2.1 true⟩ <;> decide +kernel,
  by refine ⟨_, ((ob wcxl ?_ ?_ ?_ ?_ ?_).2.2.2.2.2.2.2 ?_).2.2.1 5⟩ <;> decide +kernel,
  by refine ⟨_, ((ob wcxl ?_ ?_ ?_ ?_ ?_).2.2.2.2.2.2.2 ?_).2.2.2.1 0x5040 ?_ ?_⟩ <;> decide +kernel,
  by refine ⟨_, ((ob wcxl ?_ ?_ ?_ ?_ ?_).2.2.2.2.2.2.2 ?_).2.2.2.2 2 7⟩ <;> decide +kernel⟩

theorem witness_MailboxAndEventsMove (ob : Obligations.MailboxAndEventsMove) :
    (∃ t, exec (.mailboxPoll none) wpoll = .next t)
    ∧ (∃ t, exec (.mailboxSnoop ⟨0, line 1 3 0x40⟩) wsnoop = .next t)
    ∧ (∃ t, exec (.mailboxPoll (some (line 1 0 0))) wpoll = .next t)
    ∧ (∃ t, exec (.mailboxPoll (some (line 1 0 7))) wpoll = .next t)
    ∧ (∃ t, exec (.mailboxPoll (some (line 1 4 0))) (wpoll.setFld F.HIF_BOOT_STATUS.PHASE 4) = .next t)
    ∧ (∃ t, exec (.mailboxPoll (some (line 0 4 0))) wpoll = .next t)
    ∧ (∃ t, exec .mailboxReply wreply = .next t)
    ∧ (∃ t, exec .eventRecordForward (wforward 3) = .next t)
    ∧ (∃ t, exec .eventRecordForward (wforward 122) = .next t)
    ∧ (∃ t, exec (.eventRingConsWrite 5) (wforward 3) = .next t)
    ∧ (∃ t, exec (.eventRingConsWrite 2) (wforward 3) = .next t) :=
  ⟨⟨_, (ob wpoll (by decide +kernel) (by decide +kernel) (by decide +kernel) (by decide +kernel)).1 (by decide +kernel) (by decide +kernel)⟩,
  ((ob wsnoop (by decide +kernel) (by decide +kernel) (by decide +kernel) (by decide +kernel)).2.1 (.mailboxSnoop ⟨0, line 1 3 0x40⟩) 0 (line 1 3 0x40) (by decide +kernel) (.inl ⟨rfl, (by decide +kernel), (by decide +kernel)⟩)).imp fun _ h => h.1,
  ((ob wpoll (by decide +kernel) (by decide +kernel) (by decide +kernel) (by decide +kernel)).2.1 (.mailboxPoll (some (line 1 0 0))) 0 (line 1 0 0) (by decide +kernel) (.inr ⟨rfl, (by decide +kernel), (by decide +kernel)⟩)).imp fun _ h => h.1,
  ((ob wpoll (by decide +kernel) (by decide +kernel) (by decide +kernel) (by decide +kernel)).2.1 (.mailboxPoll (some (line 1 0 7))) 0 (line 1 0 7) (by decide +kernel) (.inr ⟨rfl, (by decide +kernel), (by decide +kernel)⟩)).imp fun _ h => h.1,
  ((ob (wpoll.setFld F.HIF_BOOT_STATUS.PHASE 4) (by decide +kernel) (by decide +kernel) (by decide +kernel) (by decide +kernel)).2.1 (.mailboxPoll (some (line 1 4 0))) 0 (line 1 4 0) (by decide +kernel) (.inr ⟨rfl, (by decide +kernel), (by decide +kernel)⟩)).imp fun _ h => h.1,
  ((ob wpoll (by decide +kernel) (by decide +kernel) (by decide +kernel) (by decide +kernel)).2.1 (.mailboxPoll (some (line 0 4 0))) 0 (line 0 4 0) (by decide +kernel) (.inr ⟨rfl, (by decide +kernel), (by decide +kernel)⟩)).imp fun _ h => h.1,
  let ⟨t, _, h, _⟩ := (ob wreply (by decide +kernel) (by decide +kernel) (by decide +kernel) (by decide +kernel)).2.2.1 ⟨7, 3, ST.OK, 0, 0, 0, true⟩ [] (by decide +kernel); ⟨t, h⟩,
  let ⟨t, _, h, _⟩ := (ob (wforward 3) (by decide +kernel) (by decide +kernel) (by decide +kernel) (by decide +kernel)).2.2.2.1 0 recWords [] (by decide +kernel) (by decide +kernel) (by decide +kernel); ⟨t, h⟩,
  let ⟨t, _, h, _⟩ := (ob (wforward 122) (by decide +kernel) (by decide +kernel) (by decide +kernel) (by decide +kernel)).2.2.2.1 0 recWords [] (by decide +kernel) (by decide +kernel) (by decide +kernel); ⟨t, h⟩,
  ⟨_, ((ob (wforward 3) (by decide +kernel) (by decide +kernel) (by decide +kernel) (by decide +kernel)).2.2.2.2 5).1 (by decide +kernel)⟩,
  (((ob (wforward 3) (by decide +kernel) (by decide +kernel) (by decide +kernel) (by decide +kernel)).2.2.2.2 2).2 (by decide +kernel)).imp fun _ h => h.1⟩

theorem witness_MailboxOperationsRun (ob : Obligations.MailboxOperationsRun) :
    (∃ t, exec .mboxNop (wline rdy (line 1 0 0)) = .next t)
    ∧ (∃ t, exec .mboxLaunch (wline postable (line 1 1 0xFFFF000000000000)) = .next t)
    ∧ (∃ t, exec .mboxLaunch (wline postable (line 1 1 0xFFFF000000000020)) = .next t)
    ∧ (∃ t, exec .mboxCancel (wline rdy (line 1 2 0)) = .next t)
    ∧ (∃ t, exec .mboxCancel (wline (wpend 5000) (line 1 2 0)) = .next t)
    ∧ (∃ t, exec .load (wop rdy (line 1 3 0xFFFF000000000020)) = .next t)
    ∧ (∃ t, exec .unload (wop (wpend 5000) (line 1 4 0)) = .next t)
    ∧ (∃ t, exec .unload (wop postable (line 1 4 0)) = .next t)
    ∧ (∃ t, exec .mboxReset (wop rdy (line 1 5 0x60000)) = .next t)
    ∧ (∃ t, exec .mboxReset (wop rdy (line 1 5 0x10003)) = .next t)
    ∧ (∃ t, exec .mboxReset (wop rdy (line 1 5 0x40000)) = .next t) :=
  ⟨⟨_, ((ob (wline rdy (line 1 0 0)) (by decide +kernel) (by decide +kernel) (by decide +kernel) (by decide +kernel)).1 (line 1 0 0) [] (by decide +kernel)).1 (by decide +kernel)⟩,
  ((((ob (wline postable (line 1 1 0xFFFF000000000000)) (by decide +kernel) (by decide +kernel) (by decide +kernel) (by decide +kernel)).1 (line 1 1 0xFFFF000000000000) [] (by decide +kernel)).2.1 (by decide +kernel) (by decide +kernel)).1 ⟨(by decide +kernel), (by decide +kernel), (by decide +kernel)⟩ (by decide +kernel)).imp fun _ h => h.1,
  ((((ob (wline postable (line 1 1 0xFFFF000000000020)) (by decide +kernel) (by decide +kernel) (by decide +kernel) (by decide +kernel)).1 (line 1 1 0xFFFF000000000020) [] (by decide +kernel)).2.1 (by decide +kernel) (by decide +kernel)).2 (by decide +kernel)).imp fun _ h => h.1,
  ⟨_, (((ob (wline rdy (line 1 2 0)) (by decide +kernel) (by decide +kernel) (by decide +kernel) (by decide +kernel)).1 (line 1 2 0) [] (by decide +kernel)).2.2 (by decide +kernel)).1 (by decide +kernel)⟩,
  ((((ob (wline (wpend 5000) (line 1 2 0)) (by decide +kernel) (by decide +kernel) (by decide +kernel) (by decide +kernel)).1 (line 1 2 0) [] (by decide +kernel)).2.2 (by decide +kernel)).2 ⟨recOf 5000 2, 0⟩ (by decide +kernel) (by decide +kernel) (by decide +kernel)).imp fun _ h => h.1,
  ⟨_, (((ob (wop rdy (line 1 3 0xFFFF000000000020)) (by decide +kernel) (by decide +kernel) (by decide +kernel) (by decide +kernel)).2 (line 1 3 0xFFFF000000000020) (by decide +kernel) (by decide +kernel) (by decide +kernel)).1 (by decide +kernel)).1 { status := ST.RANGE } rfl⟩,
  ⟨_, (((ob (wop (wpend 5000) (line 1 4 0)) (by decide +kernel) (by decide +kernel) (by decide +kernel) (by decide +kernel)).2 (line 1 4 0) (by decide +kernel) (by decide +kernel) (by decide +kernel)).2.1 (by decide +kernel)).1 (by decide +kernel)⟩,
  ((((ob (wop postable (line 1 4 0)) (by decide +kernel) (by decide +kernel) (by decide +kernel) (by decide +kernel)).2 (line 1 4 0) (by decide +kernel) (by decide +kernel) (by decide +kernel)).2.1 (by decide +kernel)).2 (by decide +kernel) (by decide +kernel)).imp fun _ h => h.1,
  ((((ob (wop rdy (line 1 5 0x60000)) (by decide +kernel) (by decide +kernel) (by decide +kernel) (by decide +kernel)).2 (line 1 5 0x60000) (by decide +kernel) (by decide +kernel) (by decide +kernel)).2.2 (by decide +kernel)).1 (by decide +kernel)).imp fun _ h => h.1,
  ((((ob (wop rdy (line 1 5 0x10003)) (by decide +kernel) (by decide +kernel) (by decide +kernel) (by decide +kernel)).2 (line 1 5 0x10003) (by decide +kernel) (by decide +kernel) (by decide +kernel)).2.2 (by decide +kernel)).2.1 (by decide +kernel) (by decide +kernel) (by decide +kernel) (by decide +kernel)).imp fun _ h => h.1,
  ((((ob (wop rdy (line 1 5 0x40000)) (by decide +kernel) (by decide +kernel) (by decide +kernel) (by decide +kernel)).2 (line 1 5 0x40000) (by decide +kernel) (by decide +kernel) (by decide +kernel)).2.2 (by decide +kernel)).2.2 (by decide +kernel) (by decide +kernel)).imp fun _ h => h.1⟩

theorem witness_BootAdvances (ob : Obligations.BootAdvances) :
    (∃ t, exec (.configReadDone cfgHeader) State.reset = .next t)
    ∧ (∃ t, exec (.configReadDone []) State.reset = .next t)
    ∧ (∃ t, exec (.configReadDone cfgHeader) rdy = .next t)
    ∧ (∃ t, exec (.upstreamLinkTrained true 8 32) ({ State.reset with cfg := { Cfg.empty with done := true } }.setFld F.MGT_PINS.PERST_N 1) = .next t)
    ∧ (∃ t, exec .firmwareVerifyDone (wphase 3) = .next t)
    ∧ (∃ t, exec .firmwareVerifyDone rdy = .next t)
    ∧ (∃ t, exec (.bootReady [tier1]) { wphase 4 with host := { HostIf.empty with cold := true } } = .next t)
    ∧ (∃ t, exec (.bootReady [.empty 3]) { wphase 4 with host := { HostIf.empty with cold := true } } = .next t)
    ∧ (∃ t, exec (.bootReady [.dimm 2 2 1 4 16 [8800]]) { wphase 4 with host := { HostIf.empty with cold := true } } = .next t)
    ∧ (∃ t, exec (.bootReady [.device 0 0 (some (32, 16)) 5000]) { wphase 4 with host := { HostIf.empty with cold := true } } = .next t) :=
  ⟨by refine ((ob State.reset ?_ ?_ ?_ ?_ ?_).1 cfgHeader ?_ ?_ ?_).imp fun _ h => h.1 <;> decide +kernel,
  by refine ((ob State.reset ?_ ?_ ?_ ?_ ?_).1 [] ?_ ?_ ?_).imp fun _ h => h.1 <;> decide +kernel,
  by refine ⟨_, (ob rdy ?_ ?_ ?_ ?_ ?_).2.1 cfgHeader ?_⟩ <;> decide +kernel,
  by refine ((ob ({ State.reset with cfg := { Cfg.empty with done := true } }.setFld F.MGT_PINS.PERST_N 1) ?_ ?_ ?_ ?_ ?_).2.2.1 true 8 32 (by decide) (by decide) ?_ ?_ ?_).imp fun _ h => h.1 <;> decide +kernel,
  by refine ((ob (wphase 3) ?_ ?_ ?_ ?_ ?_).2.2.2.1 ?_).imp fun _ h => h.1 <;> decide +kernel,
  by refine ⟨_, (ob rdy ?_ ?_ ?_ ?_ ?_).2.2.2.2.1 ?_⟩ <;> decide +kernel,
  by refine ((ob { wphase 4 with host := { HostIf.empty with cold := true } } ?_ ?_ ?_ ?_ ?_).2.2.2.2.2 tier1 ?_ ?_ ?_ ?_ ?_).imp fun _ h => h.1 <;> decide +kernel,
  by refine ((ob { wphase 4 with host := { HostIf.empty with cold := true } } ?_ ?_ ?_ ?_ ?_).2.2.2.2.2 (.empty 3) ?_ ?_ ?_ ?_ ?_).imp fun _ h => h.1 <;> decide +kernel,
  by refine ((ob { wphase 4 with host := { HostIf.empty with cold := true } } ?_ ?_ ?_ ?_ ?_).2.2.2.2.2 (.dimm 2 2 1 4 16 [8800]) ?_ ?_ ?_ ?_ ?_).imp fun _ h => h.1 <;> decide +kernel,
  by refine ((ob { wphase 4 with host := { HostIf.empty with cold := true } } ?_ ?_ ?_ ?_ ?_).2.2.2.2.2 (.device 0 0 (some (32, 16)) 5000) ?_ ?_ ?_ ?_ ?_).imp fun _ h => h.1 <;> decide +kernel⟩

theorem witness_DoeAnswers (ob : Obligations.DoeAnswers) :
    (∃ t, exec (.doeDiscovery 1 0) (wdoe none) = .next t)
    ∧ (∃ t, exec (.doeDiscovery 0 1) (wdoe none) = .next t)
    ∧ (∃ t, exec (.doeDiscovery 1 0) (wdoe (some [])) = .next t)
    ∧ (∃ t, exec (.doeDiscovery 1 7) { wdoe none with sec := { (wdoe none).sec with doeError := [1] } } = .next t)
    ∧ (∃ t, exec (.doeAbort 0) { wdoe none with sec := { (wdoe none).sec with doeError := [0] } } = .next t)
    ∧ (∃ t, exec (.cdatTableAccess 1) (wdoe none) = .next t)
    ∧ (∃ t, exec (.cdatTableAccess 6) (wdoe none) = .next t)
    ∧ (∃ t, exec (.doeAbort 0) (wdoe none) = .next t)
    ∧ (∃ t, exec (.doeAbort 1) (wdoe (some [])) = .next t)
    ∧ (∃ t, exec (.getCert certReq) { (wdoe none).setFld F.SEC_STATUS.CERT 1 with cfg := { Cfg.empty with cert := some [1, 2, 3, 4] } } = .next t)
    ∧ (∃ t, exec (.getCert certReq) (wdoe none) = .next t)
    ∧ (∃ t, exec (.quote (quoteReq 3)) (wdoe none) = .next t)
    ∧ (∃ t, exec (.quote (quoteReq 0)) (wdoe none) = .next t)
    ∧ (∃ t, exec (.extend (extReq 12)) (wdoe (some [])) = .next t)
    ∧ (∃ t, exec (.quoteSigned true) (wdoe (some [1, 2])) = .next t)
    ∧ (∃ t, exec (.quoteSigned false) (wdoe (some [1, 2, 0, 0])) = .next t) :=
  ⟨⟨_, (ob (wdoe none) (by decide +kernel) (by decide +kernel) (by decide +kernel)).1 1 (.inr (by decide +kernel))⟩,
  ⟨_, (ob (wdoe none) (by decide +kernel) (by decide +kernel) (by decide +kernel)).2.1⟩,
  ⟨_, (ob (wdoe (some [])) (by decide +kernel) (by decide +kernel) (by decide +kernel)).2.2.1 (by decide +kernel) 0⟩,
  ⟨_, (ob (wdoe none) (by decide +kernel) (by decide +kernel) (by decide +kernel)).2.2.2.1 1 7⟩,
  ⟨_, (ob (wdoe none) (by decide +kernel) (by decide +kernel) (by decide +kernel)).2.2.2.2.1⟩,
  ⟨_, (ob (wdoe none) (by decide +kernel) (by decide +kernel) (by decide +kernel)).2.2.2.2.2.1⟩,
  ⟨_, (ob (wdoe none) (by decide +kernel) (by decide +kernel) (by decide +kernel)).2.2.2.2.2.2.1 6 (by decide +kernel)⟩,
  ⟨_, (ob (wdoe none) (by decide +kernel) (by decide +kernel) (by decide +kernel)).2.2.2.2.2.2.2.1⟩,
  ⟨_, (ob (wdoe (some [])) (by decide +kernel) (by decide +kernel) (by decide +kernel)).2.2.2.2.2.2.2.2.1⟩,
  ⟨_, (((ob { (wdoe none).setFld F.SEC_STATUS.CERT 1 with cfg := { Cfg.empty with cert := some [1, 2, 3, 4] } } (by decide +kernel) (by decide +kernel) (by decide +kernel)).2.2.2.2.2.2.2.2.2.1 certReq).1 (by decide +kernel) (by decide +kernel)).1 [1, 2, 3, 4] (by decide +kernel) (by decide +kernel)⟩,
  ⟨_, (((ob (wdoe none) (by decide +kernel) (by decide +kernel) (by decide +kernel)).2.2.2.2.2.2.2.2.2.1 certReq).1 (by decide +kernel) (by decide +kernel)).2 (by decide +kernel)⟩,
  ⟨_, (((ob (wdoe none) (by decide +kernel) (by decide +kernel) (by decide +kernel)).2.2.2.2.2.2.2.2.2.1 (quoteReq 3)).2.1 (by decide +kernel) (by decide +kernel)).1 (by decide +kernel)⟩,
  ⟨_, (((ob (wdoe none) (by decide +kernel) (by decide +kernel) (by decide +kernel)).2.2.2.2.2.2.2.2.2.1 (quoteReq 0)).2.1 (by decide +kernel) (by decide +kernel)).2 (by decide +kernel)⟩,
  ⟨_, (((ob (wdoe (some [])) (by decide +kernel) (by decide +kernel) (by decide +kernel)).2.2.2.2.2.2.2.2.2.1 (extReq 12)).2.2 3 (.extend (extReq 12)) (by decide +kernel) (by decide +kernel) (by decide +kernel))⟩,
  let ⟨t, _, h, _⟩ := ((ob (wdoe (some [1, 2])) (by decide +kernel) (by decide +kernel) (by decide +kernel)).2.2.2.2.2.2.2.2.2.2 [1, 2] (by decide +kernel)).1; ⟨t, h⟩,
  ⟨_, ((ob (wdoe (some [1, 2, 0, 0])) (by decide +kernel) (by decide +kernel) (by decide +kernel)).2.2.2.2.2.2.2.2.2.2 [1, 2, 0, 0] (by decide +kernel)).2⟩⟩

theorem witness_ExtendUpdatesMeasurement (ob : Obligations.ExtendUpdatesMeasurement) :
    (∃ t, exec (.extend (extReq 12)) (wdoe none) = .next t)
    ∧ (∃ t, exec (.extend (extReq 15)) (wdoe none) = .next t)
    ∧ (∃ t, exec (.extend (extReq 16)) (wdoe none) = .next t) :=
  ⟨by refine ((ob (wdoe none) (extReq 12) ?_ ?_ ?_ ?_ ?_ ?_).1 ?_ ?_).imp fun _ h => h.1 <;> decide +kernel,
  by refine ((ob (wdoe none) (extReq 15) ?_ ?_ ?_ ?_ ?_ ?_).1 ?_ ?_).imp fun _ h => h.1 <;> decide +kernel,
  by refine ⟨_, (ob (wdoe none) (extReq 16) ?_ ?_ ?_ ?_ ?_ ?_).2 (.inr (by decide +kernel))⟩ <;> decide +kernel⟩

theorem witness_FusesProgram (ob : Obligations.FusesProgram) :
    (∃ t, exec (.fuseRevoke .host 4) rdy = .next t)
    ∧ (∃ t, exec (.fuseRevoke .host 1) { rdy with sec := { Sec.empty with revoked := 2 } } = .next t)
    ∧ (∃ t, exec (.fuseAdvance .host 3) ((rdy.setFld F.SEC_STATUS.RUN_VALID 1).setFld F.SEC_STATUS.SVN_IMAGE 3) = .next t)
    ∧ (∃ t, exec (.fuseAdvance .host 4) ((rdy.setFld F.SEC_STATUS.RUN_VALID 1).setFld F.SEC_STATUS.SVN_IMAGE 3) = .next t)
    ∧ (∃ t, exec (.fuseRevoke (.hart (.ctx 0 0)) 1) rdy = .next t)
    ∧ (∃ t, exec .fuseProgramDone rdy = .next t)
    ∧ (∃ t, exec .fuseProgramDone { rdy with sec := { rdy.sec with fuse := some (2, 3) } } = .next t) :=
  ⟨((ob rdy (by decide +kernel) (by decide +kernel) (by decide +kernel) (by decide +kernel)).1 4).imp fun _ h => h.1,
  ((ob { rdy with sec := { Sec.empty with revoked := 2 } } (by decide +kernel) (by decide +kernel) (by decide +kernel) (by decide +kernel)).1 1).imp fun _ h => h.1,
  ((ob ((rdy.setFld F.SEC_STATUS.RUN_VALID 1).setFld F.SEC_STATUS.SVN_IMAGE 3) (by decide +kernel) (by decide +kernel) (by decide +kernel) (by decide +kernel)).2.1 3).imp fun _ h => h.1,
  ((ob ((rdy.setFld F.SEC_STATUS.RUN_VALID 1).setFld F.SEC_STATUS.SVN_IMAGE 3) (by decide +kernel) (by decide +kernel) (by decide +kernel) (by decide +kernel)).2.1 4).imp fun _ h => h.1,
  ⟨_, (ob rdy (by decide +kernel) (by decide +kernel) (by decide +kernel) (by decide +kernel)).2.2.1 (.ctx 0 0) 1⟩,
  ⟨_, (ob rdy (by decide +kernel) (by decide +kernel) (by decide +kernel) (by decide +kernel)).2.2.2.1⟩,
  ((ob rdy (by decide +kernel) (by decide +kernel) (by decide +kernel) (by decide +kernel)).2.2.2.2 2 3 (.inr ⟨rfl, by decide +kernel⟩) (by decide)).imp fun _ h => h.1⟩

theorem witness_InputPowerIsWatched (ob : Obligations.InputPowerIsWatched) :
    (∃ t, exec (.inputSample 29500 900 900) (sampled 100) = .next t)
    ∧ (∃ t, exec (.inputSample 41000 1300 1300) (sampled 100) = .next t)
    ∧ (∃ t, exec (.inputSample 27999 900 900) (wpwr { Pwr.empty with ticks := 5000, lowSince := some 0 }) = .next t)
    ∧ (∃ t, exec (.inputSample 42001 900 900) (wpwr { Pwr.empty with ticks := 1000, highSince := some 0 }) = .next t)
    ∧ (∃ t, exec (.railFault (some 9) false) (sampled 5) = .next t)
    ∧ (∃ t, exec (.railFault none false) (sampled 5) = .next t)
    ∧ (∃ t, exec (.railFault none true) (sampled 5) = .next t)
    ∧ (∃ t, exec .powerOffComplete (sampled 5) = .next t)
    ∧ (∃ t, exec (.railFault (some 9) false) (wpwr { Pwr.empty with ticks := 5, stopping := some 4 }) = .next t)
    ∧ (∃ t, exec .powerOffComplete (wpwr { Pwr.empty with ticks := 20003, stopping := some 4 }) = .next t)
    ∧ (∃ t, exec .powerOffComplete (wpwr { Pwr.empty with ticks := 20004, stopping := some 4 }) = .next t) :=
  ⟨by refine ((ob (sampled 100) ?_ ?_ ?_ ?_ ?_ ?_).1 29500 900 900).imp fun _ h => h.1 <;> decide +kernel,
  by refine ((ob (sampled 100) ?_ ?_ ?_ ?_ ?_ ?_).1 41000 1300 1300).imp fun _ h => h.1 <;> decide +kernel,
  by refine ((ob (wpwr { Pwr.empty with ticks := 5000, lowSince := some 0 }) ?_ ?_ ?_ ?_ ?_ ?_).1 27999 900 900).imp fun _ h => h.1 <;> decide +kernel,
  by refine ((ob (wpwr { Pwr.empty with ticks := 1000, highSince := some 0 }) ?_ ?_ ?_ ?_ ?_ ?_).1 42001 900 900).imp fun _ h => h.1 <;> decide +kernel,
  by refine (((ob (sampled 5) ?_ ?_ ?_ ?_ ?_ ?_).2.1 ?_).1 9).imp fun _ h => h.1 <;> decide +kernel,
  by refine (((ob (sampled 5) ?_ ?_ ?_ ?_ ?_ ?_).2.1 ?_).2.1).imp fun _ h => h.1 <;> decide +kernel,
  by refine (((ob (sampled 5) ?_ ?_ ?_ ?_ ?_ ?_).2.1 ?_).2.2.1 none).imp fun _ h => h.1 <;> decide +kernel,
  by refine ⟨_, ((ob (sampled 5) ?_ ?_ ?_ ?_ ?_ ?_).2.1 ?_).2.2.2⟩ <;> decide +kernel,
  by refine ⟨_, ((ob (wpwr { Pwr.empty with ticks := 5, stopping := some 4 }) ?_ ?_ ?_ ?_ ?_ ?_).2.2 4 ?_).1 ?_ ?_ (some 9) false⟩ <;> decide +kernel,
  by refine ⟨_, ((ob (wpwr { Pwr.empty with ticks := 20003, stopping := some 4 }) ?_ ?_ ?_ ?_ ?_ ?_).2.2 4 ?_).2.1 ?_⟩ <;> decide +kernel,
  by refine (((ob (wpwr { Pwr.empty with ticks := 20004, stopping := some 4 }) ?_ ?_ ?_ ?_ ?_ ?_).2.2 4 ?_).2.2 ?_).imp fun _ h => h.1 <;> decide +kernel⟩

theorem witness_ClocksFollowPowerAndHeat (ob : Obligations.ClocksFollowPowerAndHeat) :
    (∃ t, exec (.powerEvaluation 5041 []) (wpace 0) = .next t)
    ∧ (∃ t, exec (.powerEvaluation 5040 []) (wpace 0) = .next t)
    ∧ (∃ t, exec (.powerEvaluation 4560 []) (wpace 9) = .next t)
    ∧ (∃ t, exec (.powerEvaluation 4559 []) (wpace 9) = .next t)
    ∧ (∃ t, exec (.thermalPacingSample [400, 460, 100]) rdy = .next t)
    ∧ (∃ t, exec (.restEntry 3) (sampled 0x10000000000) = .next t)
    ∧ (∃ t, exec (.restEntry 0) { sampled 0x10000000000 with harts := [(0, c0)] } = .next t)
    ∧ (∃ t, exec (.pllLocked 3) (wpwr { Pwr.empty with waking := [(3, 1)] }) = .next t) :=
  ⟨((ob (wpace 0) (by decide +kernel) (by decide +kernel) (by decide +kernel)).1 5041 [] (by decide +kernel) (by decide +kernel)).imp fun _ h => h.1,
  ((ob (wpace 0) (by decide +kernel) (by decide +kernel) (by decide +kernel)).1 5040 [] (by decide +kernel) (by decide +kernel)).imp fun _ h => h.1,
  ((ob (wpace 9) (by decide +kernel) (by decide +kernel) (by decide +kernel)).1 4560 [] (by decide +kernel) (by decide +kernel)).imp fun _ h => h.1,
  ((ob (wpace 9) (by decide +kernel) (by decide +kernel) (by decide +kernel)).1 4559 [] (by decide +kernel) (by decide +kernel)).imp fun _ h => h.1,
  ((ob rdy (by decide +kernel) (by decide +kernel) (by decide +kernel)).2.1 [400, 460, 100] (by decide +kernel)).imp fun _ h => h.1,
  (((ob (sampled 0x10000000000) (by decide +kernel) (by decide +kernel) (by decide +kernel)).2.2.1 3 (by decide +kernel)).1 (by decide +kernel)).imp fun _ h => h.1,
  ⟨_, ((ob { sampled 0x10000000000 with harts := [(0, c0)] } (by decide +kernel) (by decide +kernel) (by decide +kernel)).2.2.1 0 (by decide +kernel)).2 (by decide +kernel)⟩,
  ⟨_, (ob (wpwr { Pwr.empty with waking := [(3, 1)] }) (by decide +kernel) (by decide +kernel) (by decide +kernel)).2.2.2 3⟩⟩

theorem witness_ManagementRuns (ob : Obligations.ManagementRuns) :
    (∃ t, exec (.mgtUtilWindow 81) rdy = .next t)
    ∧ (∃ t, exec (.mgtUtilWindow 60) rdy = .next t)
    ∧ (∃ t, exec (.mgtUtilWindow 61) rdy = .next t)
    ∧ (∃ t, exec .telemetrySnapshot { rdy with mgt := { Mgt.empty with telAt := 2 ^ 60 } } = .next t)
    ∧ (∃ t, exec .telemetrySnapshot { wtel with host := { wtel.host with run := some ⟨line 1 3 0, false⟩ } } = .next t)
    ∧ (∃ t, exec .telemetrySnapshot wtel = .next t)
    ∧ (∃ t, exec .watchdogExpiry rdy = .next t)
    ∧ (∃ t, exec .watchdogExpiry (wop wdog (line 1 3 0)) = .next t)
    ∧ (∃ t, exec .mgtRestartDone rdy = .next t)
    ∧ (∃ t, exec .mgtRestartDone { rdy with mgt := { Mgt.empty with hung := true } } = .next t) :=
  ⟨by refine ((ob rdy ?_ ?_ ?_ ?_ ?_).1 81).imp fun _ h => h.1 <;> decide +kernel,
  by refine ((ob rdy ?_ ?_ ?_ ?_ ?_).1 60).imp fun _ h => h.1 <;> decide +kernel,
  by refine ((ob rdy ?_ ?_ ?_ ?_ ?_).1 61).imp fun _ h => h.1 <;> decide +kernel,
  by refine ⟨_, (ob { rdy with mgt := { Mgt.empty with telAt := 2 ^ 60 } } ?_ ?_ ?_ ?_ ?_).2.1 ?_⟩ <;> decide +kernel,
  by refine ((ob { wtel with host := { wtel.host with run := some ⟨line 1 3 0, false⟩ } } ?_ ?_ ?_ ?_ ?_).2.2.1 ?_ ?_ ?_).imp fun _ h => h.1 <;> decide +kernel,
  by refine ((ob wtel ?_ ?_ ?_ ?_ ?_).2.2.2.1 0 0x1000 ?_ ?_ ?_ ?_ ?_ ?_).imp fun _ h => h.1 <;> decide +kernel,
  by refine ⟨_, (ob rdy ?_ ?_ ?_ ?_ ?_).2.2.2.2.1 ?_⟩ <;> decide +kernel,
  by refine ((ob (wop wdog (line 1 3 0)) ?_ ?_ ?_ ?_ ?_).2.2.2.2.2.1 ?_ ?_ ?_ ?_).imp fun _ h => h.1 <;> decide +kernel,
  by refine ⟨_, (ob rdy ?_ ?_ ?_ ?_ ?_).2.2.2.2.2.2.1 ?_⟩ <;> decide +kernel,
  by refine ⟨_, (ob { rdy with mgt := { Mgt.empty with hung := true } } ?_ ?_ ?_ ?_ ?_).2.2.2.2.2.2.2 ?_ ?_⟩ <;> decide +kernel⟩

theorem witness_I3cTargetAnswers (ob : Obligations.I3cTargetAnswers) :
    (∃ t, exec (.entdaa 8) (wi3c none) = .next t)
    ∧ (∃ t, exec (.entdaa 8) (wi3c (some 9)) = .next t)
    ∧ (∃ t, exec (.setdasa (BitVec.ofNat 7 (0x30 + (wi3c none).fld F.MGT_PINS.POS)) 8) (wi3c none) = .next t)
    ∧ (∃ t, exec (.setdasa 0x11 8) (wi3c none) = .next t)
    ∧ (∃ t, exec (.setnewda 8) (wi3c (some 9)) = .next t)
    ∧ (∃ t, exec (.setnewda 8) (wi3c none) = .next t)
    ∧ (∃ t, exec .rstdaa (wi3c (some 9)) = .next t)
    ∧ (∃ t, exec (.enec 1) (wi3c (some 9)) = .next t)
    ∧ (∃ t, exec (.disec 1) (wi3c (some 9)) = .next t)
    ∧ (∃ t, exec .getmwl (wi3c (some 9)) = .next t)
    ∧ (∃ t, exec .getmrl (wi3c none) = .next t)
    ∧ (∃ t, exec .getstatus (wi3c (some 9)) = .next t)
    ∧ (∃ t, exec (.i3cReadRequest ([1] ++ leBytes 4 R.MEM_ROW_CE_LIMIT)) (wi3c (some 9)) = .next t)
    ∧ (∃ t, exec (.i3cReadRequest ([1] ++ leBytes 4 (R.MEM_ROW_CE_LIMIT + 1))) (wi3c (some 9)) = .next t)
    ∧ (∃ t, exec (.i3cReadRequest [1]) (wi3c (some 9)) = .next t)
    ∧ (∃ t, exec (.i3cRegisterWrite ([2] ++ leBytes 4 R.MEM_ROW_CE_LIMIT ++ leBytes 8 7)) (wi3c (some 9)) = .next t)
    ∧ (∃ t, exec .i3cPrivateRead { wi3c (some 9) with i3c := { (wi3c (some 9)).i3c with at_ := 2 ^ 40 } } = .next t)
    ∧ (∃ t, exec .i3cPrivateRead (wi3c (some 9)) = .next t) :=
  ⟨⟨_, ((ob (wi3c none) (by decide +kernel) (by decide +kernel)).1 8).1 (by decide +kernel)⟩,
  ⟨_, ((ob (wi3c (some 9)) (by decide +kernel) (by decide +kernel)).1 8).2.1 (by decide +kernel)⟩,
  ⟨_, ((ob (wi3c none) (by decide +kernel) (by decide +kernel)).1 8).2.2.1 (BitVec.ofNat 7 (0x30 + (wi3c none).fld F.MGT_PINS.POS)) (by decide +kernel) (by decide +kernel) (by decide +kernel)⟩,
  ⟨_, ((ob (wi3c none) (by decide +kernel) (by decide +kernel)).1 8).2.2.2.1 0x11 (by decide +kernel)⟩,
  ⟨_, ((ob (wi3c (some 9)) (by decide +kernel) (by decide +kernel)).1 8).2.2.2.2.1 (by decide +kernel)⟩,
  ⟨_, ((ob (wi3c none) (by decide +kernel) (by decide +kernel)).1 8).2.2.2.2.2 (by decide +kernel)⟩,
  ⟨_, (ob (wi3c (some 9)) (by decide +kernel) (by decide +kernel)).2.1⟩,
  ⟨_, (((ob (wi3c (some 9)) (by decide +kernel) (by decide +kernel)).2.2.1 1).1 (by decide +kernel)).1⟩,
  ⟨_, (((ob (wi3c (some 9)) (by decide +kernel) (by decide +kernel)).2.2.1 1).1 (by decide +kernel)).2⟩,
  ⟨_, (ob (wi3c (some 9)) (by decide +kernel) (by decide +kernel)).2.2.2.1 .getmwl [0, 16] (by simp)⟩,
  ⟨_, (ob (wi3c none) (by decide +kernel) (by decide +kernel)).2.2.2.1 .getmrl [0, 16, 1] (by simp)⟩,
  ((ob (wi3c (some 9)) (by decide +kernel) (by decide +kernel)).2.2.2.2.1).imp fun _ h => h.1,
  (((ob (wi3c (some 9)) (by decide +kernel) (by decide +kernel)).2.2.2.2.2.1 ([1] ++ leBytes 4 R.MEM_ROW_CE_LIMIT) (by decide +kernel)).1 (by decide +kernel) (by decide +kernel)).imp fun _ h => h.1,
  (((ob (wi3c (some 9)) (by decide +kernel) (by decide +kernel)).2.2.2.2.2.1 ([1] ++ leBytes 4 (R.MEM_ROW_CE_LIMIT + 1)) (by decide +kernel)).1 (by decide +kernel) (by decide +kernel)).imp fun _ h => h.1,
  ⟨_, ((ob (wi3c (some 9)) (by decide +kernel) (by decide +kernel)).2.2.2.2.2.1 [1] (by decide +kernel)).2.1 (by decide +kernel)⟩,
  ⟨_, ((ob (wi3c (some 9)) (by decide +kernel) (by decide +kernel)).2.2.2.2.2.1 ([2] ++ leBytes 4 R.MEM_ROW_CE_LIMIT ++ leBytes 8 7) (by decide +kernel)).2.2.1 (by decide +kernel) (by decide +kernel)⟩,
  ⟨_, (ob { wi3c (some 9) with i3c := { (wi3c (some 9)).i3c with at_ := 2 ^ 40 } } (by decide +kernel) (by decide +kernel)).2.2.2.2.2.2.1 (.inr (by decide +kernel))⟩,
  ⟨_, (ob (wi3c (some 9)) (by decide +kernel) (by decide +kernel)).2.2.2.2.2.2.2 (by decide +kernel) (by decide +kernel)⟩⟩

theorem witness_PinsAct (ob : Obligations.PinsAct) :
    (∃ t, exec .pwrGoodFall (wpin F.MGT_PINS.PWR_GOOD 1) = .next t)
    ∧ (∃ t, exec .coldRstNAssert (wpin F.MGT_PINS.COLD_RST_N 1) = .next t)
    ∧ (∃ t, exec .refclkLoss (wpin F.MGT_PINS.REF_OK 1) = .next t)
    ∧ (∃ t, exec .pkgRstNAssert (wpin F.MGT_PINS.PKG_RST_N 1) = .next t)
    ∧ (∃ t, exec .pkgRstNDeassert (wpin F.MGT_PINS.PKG_RST_N 0) = .next t)
    ∧ (∃ t, exec .pkgRstNDeassert { wpin F.MGT_PINS.PKG_RST_N 0 with resetting := some (4, 0) } = .next t)
    ∧ (∃ t, exec .perstNAssert ((wpin F.MGT_PINS.PERST_N 1).setFld F.HIF_LINK.WIDTH 8) = .next t)
    ∧ (∃ t, exec .perstNDeassert (wpin F.MGT_PINS.PERST_N 0) = .next t)
    ∧ (∃ t, exec (.pwrGoodRise 2 false false) (wpin F.MGT_PINS.PWR_GOOD 0) = .next t)
    ∧ (∃ t, exec (.coldRstNDeassert 2 false false) { wpin F.MGT_PINS.COLD_RST_N 0 with resetting := some (5, 0) } = .next t)
    ∧ (∃ t, exec (.refclkRestored 2 true true) { wpin F.MGT_PINS.REF_OK 0 with resetting := some (5, 0) } = .next t)
    ∧ (∃ t, exec .perstNAssert (wpin F.MGT_PINS.PERST_N 0) = .next t)
    ∧ (∃ t, exec (.pinPulseRejected .perst) (wpin F.MGT_PINS.PERST_N 0) = .next t)
    ∧ (∃ t, exec .alwaysOnPowerUp (wpin F.MGT_PINS.PERST_N 0) = .next t)
    ∧ (∃ t, exec .alwaysOnPowerLoss (wpin F.MGT_PINS.PERST_N 0) = .next t)
    ∧ (∃ t, exec .alwaysOnPowerUp { wpin F.MGT_PINS.PERST_N 0 with pwr := { (wpin F.MGT_PINS.PERST_N 0).pwr with alive := false } } = .next t) :=
  ⟨by refine ((ob (wpin F.MGT_PINS.PWR_GOOD 1) ?_ ?_ ?_ ?_ ?_ ?_).1 ?_).imp fun _ h => h.1 <;> decide +kernel,
  by refine ((ob (wpin F.MGT_PINS.COLD_RST_N 1) ?_ ?_ ?_ ?_ ?_ ?_).2.1 ?_).imp fun _ h => h.1 <;> decide +kernel,
  by refine ((ob (wpin F.MGT_PINS.REF_OK 1) ?_ ?_ ?_ ?_ ?_ ?_).2.2.1 ?_).imp fun _ h => h.1 <;> decide +kernel,
  by refine ((ob (wpin F.MGT_PINS.PKG_RST_N 1) ?_ ?_ ?_ ?_ ?_ ?_).2.2.2.1 ?_).imp fun _ h => h.1 <;> decide +kernel,
  by refine ⟨_, ((ob (wpin F.MGT_PINS.PKG_RST_N 0) ?_ ?_ ?_ ?_ ?_ ?_).2.2.2.2.1 ?_ ?_ ?_ ?_).1⟩ <;> decide +kernel,
  by refine (((ob (wpin F.MGT_PINS.PKG_RST_N 0) ?_ ?_ ?_ ?_ ?_ ?_).2.2.2.2.1 ?_ ?_ ?_ ?_).2).imp fun _ h => h.1 <;> decide +kernel,
  by refine ((ob ((wpin F.MGT_PINS.PERST_N 1).setFld F.HIF_LINK.WIDTH 8) ?_ ?_ ?_ ?_ ?_ ?_).2.2.2.2.2.1 ?_ ?_).imp fun _ h => h.1 <;> decide +kernel,
  by refine ⟨_, (ob (wpin F.MGT_PINS.PERST_N 0) ?_ ?_ ?_ ?_ ?_ ?_).2.2.2.2.2.2.1 ?_⟩ <;> decide +kernel,
  by refine ⟨_, ((ob (wpin F.MGT_PINS.PWR_GOOD 0) ?_ ?_ ?_ ?_ ?_ ?_).2.2.2.2.2.2.2.1 F.MGT_PINS.PWR_GOOD 2 false false (.pwrGoodRise 2 false false) ?_ (by simp)).1⟩ <;> decide +kernel,
  by refine (((ob (wpin F.MGT_PINS.COLD_RST_N 0) ?_ ?_ ?_ ?_ ?_ ?_).2.2.2.2.2.2.2.1 F.MGT_PINS.COLD_RST_N 2 false false (.coldRstNDeassert 2 false false) ?_ (by simp)).2).imp fun _ h => h.1 <;> decide +kernel,
  by refine (((ob (wpin F.MGT_PINS.REF_OK 0) ?_ ?_ ?_ ?_ ?_ ?_).2.2.2.2.2.2.2.1 F.MGT_PINS.REF_OK 2 true true (.refclkRestored 2 true true) ?_ (by simp)).2).imp fun _ h => h.1 <;> decide +kernel,
  by refine ⟨_, (ob (wpin F.MGT_PINS.PERST_N 0) ?_ ?_ ?_ ?_ ?_ ?_).2.2.2.2.2.2.2.2.1 .perstNAssert F.MGT_PINS.PERST_N (by simp) ?_⟩ <;> decide +kernel,
  by refine ⟨_, (ob (wpin F.MGT_PINS.PERST_N 0) ?_ ?_ ?_ ?_ ?_ ?_).2.2.2.2.2.2.2.2.2.1 .perst⟩ <;> decide +kernel,
  by refine ⟨_, (ob (wpin F.MGT_PINS.PERST_N 0) ?_ ?_ ?_ ?_ ?_ ?_).2.2.2.2.2.2.2.2.2.2.1⟩ <;> decide +kernel,
  by refine ((ob (wpin F.MGT_PINS.PERST_N 0) ?_ ?_ ?_ ?_ ?_ ?_).2.2.2.2.2.2.2.2.2.2.2.1).imp fun _ h => h.1 <;> decide +kernel,
  by refine ((ob (wpin F.MGT_PINS.PERST_N 0) ?_ ?_ ?_ ?_ ?_ ?_).2.2.2.2.2.2.2.2.2.2.2.2.1).imp fun _ h => h.1 <;> decide +kernel⟩

theorem witness_RetiringChangesOwnContextOnly (ob : Obligations.RetiringChangesOwnContextOnly) :
    ((wx []).finish 0 4 id).ctx 0 = ((id ((wx []).ctx 0)).next 4).ready :=
  (ob (wx []) 0 4 id (by decide +kernel)).1

theorem witness_XeolEncodingRoundTrips (ob : Obligations.XeolEncodingRoundTrips) :
    decodeXeol (encodeXeol (.cas true 2 3 4)) = some (.cas true 2 3 4) ∧ encodeXeol .exit = 0x0C00002B :=
  ⟨ob.1 _ (by decide +kernel), (ob.2 0x0C00002B .exit (by decide +kernel)).1⟩

theorem witness_StepTakesFrontCommand (ob : Obligations.StepTakesFrontCommand) :
    step { State.reset with pending := [.pllLocked 3] } = exec (.pllLocked 3) State.reset ∧ ∃ t, step State.reset = .next t :=
  ⟨(ob { State.reset with pending := [.pllLocked 3] }).1 (.pllLocked 3) [] rfl, (ob State.reset).2 rfl |>.imp fun _ h => h.1⟩

theorem witness_StepKeepsMemoryCanonical (ob : Obligations.StepKeepsMemoryCanonical) (t : State) (h : step State.reset = .next t) :
    t.memCanonical = true := ob State.reset t (by decide +kernel) h

end Sys2Proof.Tests
end

section
/-! SUPPORT. Waiting for tensor engines (R100, R101): what XTWAIT and XTSTAT find when they look at their context. -/

namespace Sys2Proof.Machine

variable {s : State}

/-! ### Engines and contexts as maps -/

/-- An engine written reads back. -/
theorem State.engine_setEngine_same (e : Nat) (v : Engine) (h : mapWf engineDefault s.engines = true) :
    (s.setEngine e v).engine e = v := mapGet_mapSet_same h

/-- Other engines stay. -/
theorem State.engine_setEngine_other {e e' : Nat} (v : Engine) (h : mapWf engineDefault s.engines = true) (he : e' ≠ e) :
    (s.setEngine e v).engine e' = s.engine e' := mapGet_mapSet_other h he

theorem State.setEngine_wf (e : Nat) (v : Engine) (h : mapWf engineDefault s.engines = true) :
    mapWf engineDefault (s.setEngine e v).engines = true := mapWf_mapSet h

theorem State.engine_congr {t : State} (h : t.engines = s.engines) (e : Nat) : t.engine e = s.engine e := by
  rw [State.engine, h, State.engine]

theorem State.reg_congr {t : State} (h : t.regs = s.regs) (off u : Nat) : t.reg off u = s.reg off u := by
  rw [State.reg, h, State.reg]

/-- The three maps that the statements take as canonical, apart. -/
theorem State.mapsCanonical_iff :
    s.mapsCanonical = true
      ↔ (mapWf regReset s.regs = true ∧ mapWf regReset s.staged = true) ∧ mapWf ctxDefault s.harts = true := by
  simp only [State.mapsCanonical, Bool.and_eq_true]

/-! ### Waiting contexts look at their engine (R100, R101) -/

/-- Every accepted instruction that a context has with an engine has completed. -/
def Ctx.engAll (c : Ctx) (eng : Nat) : Bool := c.tensor.all fun t => t.1 != eng || t.2.2.isSome

/-- The first status of a context's covered set with an engine that is not ST_OK (R100). -/
def Ctx.engFirst (c : Ctx) (eng : Nat) : Half :=
  ((c.tensor.find? fun t => t.1 == eng && t.2.2 != some ST.OK).bind (·.2.2)).getD ST.OK

/-- XTWAIT ends: the status written, the covered set left. -/
def Ctx.endWait (c : Ctx) (rd : Rg) (eng : Nat) : Ctx :=
  (({ c with tensor := c.tensor.filter fun t => t.1 != eng } : Ctx).setStatus rd (c.engFirst eng)).wake

/-- The word that XTSTAT reads of an engine's last record (R101). -/
def State.recordWord (s : State) (e w : Nat) : Word64 :=
  if w = 0 then s.reg R.CMP_ENG_REC0 e else if w = 1 then s.reg R.CMP_ENG_REC1 e else 0

theorem State.engWake_wait {k : Nat} {rd : Rg} {eng dl : Nat} (h : (s.ctx k).wait = .engWait rd eng dl) :
    s.engWake k = if (s.ctx k).engAll eng then s.setCtx k ((s.ctx k).endWait rd eng) else s := by
  simp only [State.engWake, h, Ctx.engAll, Ctx.endWait, Ctx.engFirst]

theorem State.engWake_stat {k : Nat} {rd : Rg} {eng w dl : Nat} (h : (s.ctx k).wait = .engStat rd eng w dl) :
    s.engWake k = if (s.ctx k).engAll eng then s.setCtx k ((s.ctx k).setX rd (s.recordWord (coreOf k * 4 + eng) w)).wake
      else s := by
  simp only [State.engWake, h, Ctx.engAll, State.recordWord]
  rfl

/-- Looking again changes thread states only. -/
theorem State.engWake_cases (s : State) (k : Nat) : ∃ hs, s.engWake k = { s with harts := hs } := by
  unfold State.engWake
  dsimp only
  split
  · split
    · exact ⟨_, rfl⟩
    · exact ⟨s.harts, rfl⟩
  · split
    · exact ⟨_, rfl⟩
    · exact ⟨s.harts, rfl⟩
  · exact ⟨s.harts, rfl⟩

/-- A context that wakes keeps nothing of its state and wait before. -/
theorem Ctx.setX_wake_congr (c : Ctx) (st : HState) (w : Wait) (rd : Rg) (v : Word64) :
    (({ c with st := st, wait := w } : Ctx).setX rd v).wake = (c.setX rd v).wake := by
  unfold Ctx.setX
  split <;> rfl

/-- The same of the end of XTWAIT. -/
theorem Ctx.endWait_congr (c : Ctx) (st : HState) (w : Wait) (rd : Rg) (eng : Nat) :
    ({ c with st := st, wait := w } : Ctx).endWait rd eng = c.endWait rd eng :=
  Ctx.setX_wake_congr ({ c with tensor := c.tensor.filter fun t => t.1 != eng } : Ctx) st w rd _

/-- The context k waits and looks at once whether the wait is over. -/
def State.waitLook (s : State) (k : Nat) (w : Wait) : State := ((s.onCtx k fun c => c.waits w).retire k).engWake k

/-- A wait that looks at once touches no memory, no engine and leaves nothing to report. -/
theorem State.waitLook_frame (s : State) (k : Nat) (w : Wait) :
    (s.waitLook k w).mem = s.mem ∧ (s.waitLook k w).engines = s.engines ∧ (s.waitLook k w).ueDue = s.ueDue := by
  obtain ⟨hs, h⟩ := ((s.onCtx k fun c => c.waits w).retire k).engWake_cases k
  have hengines : ((s.onCtx k fun c => c.waits w).retire k).engines = s.engines := by
    unfold State.retire; split <;> rfl
  rw [State.waitLook, h]
  exact ⟨(State.retire_mem k).trans rfl, hengines, (State.retire_ueDue k).trans rfl⟩

section
variable {k : Nat} (hw : mapWf ctxDefault s.harts = true)
include hw

/-- The context that an instruction has changed and retired. -/
theorem State.retire_onCtx_ctx (f : Ctx → Ctx) : ((s.onCtx k f).retire k).ctx k = f (s.ctx k) := by
  rw [State.retire_ctx, State.onCtx, State.ctx_setCtx_same _ _ hw]

theorem State.retire_onCtx_wf (f : Ctx → Ctx) : mapWf ctxDefault ((s.onCtx k f).retire k).harts = true := by
  rw [State.retire_harts]; exact State.setCtx_wf _ _ hw

/-- XTWAIT ends at once where everything has completed, and waits otherwise (R100). -/
theorem State.waitLook_engWait_ctx (rd : Rg) (eng dl : Nat) :
    (s.waitLook k (.engWait rd eng dl)).ctx k
      = if (s.ctx k).engAll eng then (s.ctx k).endWait rd eng else (s.ctx k).waits (.engWait rd eng dl) := by
  have hc := State.retire_onCtx_ctx (k := k) hw fun c => c.waits (.engWait rd eng dl)
  have hall : ((s.ctx k).waits (.engWait rd eng dl)).engAll eng = (s.ctx k).engAll eng := rfl
  rw [State.waitLook, State.engWake_wait (by rw [hc]; rfl), hc, hall]
  split
  · rw [State.ctx_setCtx_same _ _ (State.retire_onCtx_wf hw _)]
    exact Ctx.endWait_congr _ _ _ _ _
  · exact hc

/-- XTSTAT reads its word at once where everything has completed, and waits otherwise (R101). -/
theorem State.waitLook_engStat_ctx (hp : isPx k = false) (rd : Rg) (eng w dl : Nat) :
    (s.waitLook k (.engStat rd eng w dl)).ctx k
      = if (s.ctx k).engAll eng then ((s.ctx k).setX rd (s.recordWord (coreOf k * 4 + eng) w)).wake
        else (s.ctx k).waits (.engStat rd eng w dl) := by
  have hc := State.retire_onCtx_ctx (k := k) hw fun c => c.waits (.engStat rd eng w dl)
  have hall : ((s.ctx k).waits (.engStat rd eng w dl)).engAll eng = (s.ctx k).engAll eng := rfl
  have hregs : ((s.onCtx k fun c => c.waits (.engStat rd eng w dl)).retire k).regs = s.regs := by
    rw [State.retire_regs hp, State.onCtx_regs]
  rw [State.waitLook, State.engWake_stat (by rw [hc]; rfl), hc, hall]
  split
  · rw [State.ctx_setCtx_same _ _ (State.retire_onCtx_wf hw _)]
    simp only [State.recordWord, State.reg_congr hregs]
    exact Ctx.setX_wake_congr _ _ _ _ _
  · exact hc

end

/-- XTWAIT of an engine that exists waits under its stopwatch and looks at once (R100). -/
theorem State.xop_twait {k : Nat} (rd rs2 : Rg) (dl : Nat) (hp : isPx k = false) (hr : ((s.ctx k).xr rs2).toNat < 4) :
    s.xop k (.twait rd rs2) dl = s.waitLook k (.engWait rd ((s.ctx k).xr rs2).toNat dl) := by
  show (if !(Xop.twait rd rs2).legal || (isPx k && (Xop.twait rd rs2).clusterOnly) then s.trap k .illegalInsn
    else if decide (4 ≤ ((s.ctx k).xr rs2).toNat) then s.finish k 4 (tellRd rd ST.RANGE)
    else s.waitLook k (.engWait rd ((s.ctx k).xr rs2).toNat dl)) = _
  simp only [Xop.legal, hp, Nat.not_le.mpr hr, Bool.not_true, Bool.false_and, Bool.or_self, Bool.false_eq_true,
    decide_false, if_false]

/-- XTSTAT of an engine that exists does too (R101). -/
theorem State.xop_tstat {k : Nat} (rd rs1 rs2 : Rg) (dl : Nat) (hp : isPx k = false) (hr : ((s.ctx k).xr rs2).toNat < 4) :
    s.xop k (.tstat rd rs1 rs2) dl
      = s.waitLook k (.engStat rd ((s.ctx k).xr rs2).toNat ((s.ctx k).xr rs1).toNat dl) := by
  show (if !(Xop.tstat rd rs1 rs2).legal || (isPx k && (Xop.tstat rd rs1 rs2).clusterOnly) then s.trap k .illegalInsn
    else if decide (4 ≤ ((s.ctx k).xr rs2).toNat) then s.finish k 4 fun c => c.setX rd 0
    else s.waitLook k (.engStat rd ((s.ctx k).xr rs2).toNat ((s.ctx k).xr rs1).toNat dl)) = _
  simp only [Xop.legal, hp, Nat.not_le.mpr hr, Bool.not_true, Bool.false_and, Bool.or_self, Bool.false_eq_true,
    decide_false, if_false]

section
variable {h : Hart} (hi : s.issues (hartKey h) 4) (hp : isPx (hartKey h) = false) {rs2 : Rg}
  (hr : ((s.ctx (hartKey h)).xr rs2).toNat < 4)
include hi hp hr

theorem exec_xtwait (rd : Rg) :
    exec (.xtwait h rd rs2) s = done ((s.issued (hartKey h)).waitLook (hartKey h)
      (.engWait rd ((s.ctx (hartKey h)).xr rs2).toNat (s.now + (s.ctx (hartKey h)).xwlim))) := by
  have hc := State.issued_ctx hi.1
  have hx : ((s.issued (hartKey h)).ctx (hartKey h)).xr rs2 = (s.ctx (hartKey h)).xr rs2 := by rw [hc]; rfl
  have hl : ((s.issued (hartKey h)).ctx (hartKey h)).xwlim = (s.ctx (hartKey h)).xwlim := by rw [hc]
  show done (s.issue _ 4 _ _) = _
  rw [State.issue_of _ _ hi, State.xop_twait _ _ _ hp (by rw [hx]; exact hr), hx, hl, State.issued_now]

theorem exec_xtstat (rd rs1 : Rg) :
    exec (.xtstat h rd rs1 rs2) s = done ((s.issued (hartKey h)).waitLook (hartKey h)
      (.engStat rd ((s.ctx (hartKey h)).xr rs2).toNat ((s.ctx (hartKey h)).xr rs1).toNat
        (s.now + (s.ctx (hartKey h)).xwlim))) := by
  have hc := State.issued_ctx hi.1
  have hx : ∀ r, ((s.issued (hartKey h)).ctx (hartKey h)).xr r = (s.ctx (hartKey h)).xr r := fun r => by rw [hc]; rfl
  have hl : ((s.issued (hartKey h)).ctx (hartKey h)).xwlim = (s.ctx (hartKey h)).xwlim := by rw [hc]
  show done (s.issue _ 4 _ _) = _
  rw [State.issue_of _ _ hi, State.xop_tstat _ _ _ _ hp (by rw [hx]; exact hr), hx, hx, hl, State.issued_now]

end

/-- Settles O9: XTWAIT and XTSTAT wait and look at once at what their context has with the engine. -/
theorem tensorWaitsReportCompletion : Obligations.TensorWaitsReportCompletion := by
  unfold Obligations.TensorWaitsReportCompletion
  intro s h rd rs1 rs2 hm hq hi hp k c eng w all first hr
  have hissued : (s.issued k).ctx k = { c with st := .running, wait := .none } := State.issued_ctx hi.1
  have hwf := State.issued_wf k (State.mapsCanonical_iff.mp hm).2
  constructor
  · obtain ⟨hmem, hengines, hdue⟩ := (s.issued k).waitLook_frame k (.engWait rd eng (s.now + c.xwlim))
    have hctx := State.waitLook_engWait_ctx (k := k) hwf rd eng (s.now + c.xwlim)
    rw [hissued, Ctx.endWait_congr] at hctx
    refine ⟨_, (exec_xtwait hi hp hr rd).trans (done_of (hdue.trans hq)), hmem, hengines, fun ha => ?_, fun ha => ?_⟩
    · exact hctx.trans (if_pos ha)
    · exact hctx.trans (if_neg (ne_true_of_eq_false ha))
  · obtain ⟨hmem, hengines, hdue⟩ := (s.issued k).waitLook_frame k (.engStat rd eng w (s.now + c.xwlim))
    have hctx := State.waitLook_engStat_ctx (k := k) hwf hp rd eng w (s.now + c.xwlim)
    rw [hissued, Ctx.setX_wake_congr] at hctx
    refine ⟨_, (exec_xtstat hi hp hr rd rs1).trans (done_of (hdue.trans hq)), hmem, hengines, fun ha => ?_, fun ha => ?_⟩
    · exact hctx.trans (if_pos ha)
    · exact hctx.trans (if_neg (ne_true_of_eq_false ha))

end Sys2Proof.Machine
end

section
/-! SUPPORT. The end of an engine instruction (R114), its start (R98, R99) and the handover of its tile (R110). -/

namespace Sys2Proof.Machine

variable {s : State}

/-! ### The end of an engine instruction (R114) -/

/-- Registers at different offsets have different keys, whatever units they are of. -/
theorem keyOf_ne {a b u v : Nat} (ha : a < 0x4000000) (hb : b < 0x4000000) (hab : a ≠ b) : keyOf a u ≠ keyOf b v :=
  fun hk => hab (keyOf_inj ha hb hk).1

/-- The engine's record written, and an instruction that did not succeed counted (R114). -/
def State.engRecorded (s : State) (e : Nat) (st : Half) (w0 w1 : Word64) : State :=
  let s := (s.setReg R.CMP_ENG_REC0 e w0).setReg R.CMP_ENG_REC1 e w1
  if isSuccess st then s else s.count F.CMP_ENG_STATS.REFUSED e

/-- An instruction without SREC ends with its record, and then changes thread states only. -/
theorem State.engDone_cases (s : State) (e : Nat) {i : EngInstr} (st : Half) (w0 w1 : Word64) (hsrec : i.srec = false) :
    ∃ hs, s.engDone e i st w0 w1 = { s.engRecorded e st w0 w1 with harts := hs } := by
  simp only [State.engDone, hsrec, Bool.false_eq_true, if_false]
  obtain ⟨hs, h⟩ := State.engWake_cases ((s.engRecorded e st w0 w1).onCtx (e / 4 * 128 + i.ctx) fun c =>
    { c with tensor := c.tensor.map fun t =>
        if t.1 == e % 4 && t.2.1 == i.id && t.2.2.isNone then (t.1, t.2.1, some st) else t }) (e / 4 * 128 + i.ctx)
  exact ⟨hs, h⟩

section
variable (e : Nat) {i : EngInstr} (st : Half) (w0 w1 : Word64)

theorem State.engRecorded_frame : (s.engRecorded e st w0 w1).mem = s.mem ∧ (s.engRecorded e st w0 w1).engines = s.engines
    ∧ (s.engRecorded e st w0 w1).ueDue = s.ueDue ∧ (s.engRecorded e st w0 w1).tiles = s.tiles := by
  unfold State.engRecorded
  split <;> exact ⟨rfl, rfl, rfl, rfl⟩

theorem State.engRecorded_rec0 (h : mapWf regReset s.regs = true) :
    (s.engRecorded e st w0 w1).reg R.CMP_ENG_REC0 e = w0 := by
  have h0 := State.setReg_wf R.CMP_ENG_REC0 e w0 h
  have h1 := State.setReg_wf R.CMP_ENG_REC1 e w1 h0
  have hreg : ((s.setReg R.CMP_ENG_REC0 e w0).setReg R.CMP_ENG_REC1 e w1).reg R.CMP_ENG_REC0 e = w0 := by
    rw [State.reg_setReg_other _ h0 (keyOf_ne (by decide) (by decide) (by decide)), State.reg_setReg_same _ _ _ h]
  unfold State.engRecorded
  dsimp only
  split
  · exact hreg
  · rw [State.reg_count_other _ h1 (keyOf_ne (by decide) (by decide) (by decide)), hreg]

theorem State.engRecorded_rec1 (h : mapWf regReset s.regs = true) :
    (s.engRecorded e st w0 w1).reg R.CMP_ENG_REC1 e = w1 := by
  have h0 := State.setReg_wf R.CMP_ENG_REC0 e w0 h
  have h1 := State.setReg_wf R.CMP_ENG_REC1 e w1 h0
  have hreg := State.reg_setReg_same R.CMP_ENG_REC1 e w1 h0
  unfold State.engRecorded
  dsimp only
  split
  · exact hreg
  · rw [State.reg_count_other _ h1 (keyOf_ne (by decide) (by decide) (by decide)), hreg]

/-- A refused instruction is counted (Table 04-16). -/
theorem State.engRecorded_refused (h : mapWf regReset s.regs = true) (hst : isSuccess st = false) :
    (s.engRecorded e st w0 w1).fld F.CMP_ENG_STATS.REFUSED e
      = Nat.min F.CMP_ENG_STATS.REFUSED.top (s.fld F.CMP_ENG_STATS.REFUSED e + 1) := by
  have h0 := State.setReg_wf R.CMP_ENG_REC0 e w0 h
  have h1 := State.setReg_wf R.CMP_ENG_REC1 e w1 h0
  have hfld : ((s.setReg R.CMP_ENG_REC0 e w0).setReg R.CMP_ENG_REC1 e w1).fld F.CMP_ENG_STATS.REFUSED e
      = s.fld F.CMP_ENG_STATS.REFUSED e := by
    simp only [State.fld]
    rw [State.reg_setReg_other _ h0 (keyOf_ne (by decide) (by decide) (by decide)), State.reg_setReg_other _ h (keyOf_ne (by decide) (by decide) (by decide))]
  simp only [State.engRecorded, hst, Bool.false_eq_true, if_false]
  rw [State.fld_count_same _ _ _ h1 (by decide), hfld]
  rfl

variable (hsrec : i.srec = false)
include hsrec

/-- What the end of an instruction leaves alone. -/
theorem State.engDone_frame : (s.engDone e i st w0 w1).mem = s.mem ∧ (s.engDone e i st w0 w1).engines = s.engines
    ∧ (s.engDone e i st w0 w1).ueDue = s.ueDue ∧ (s.engDone e i st w0 w1).tiles = s.tiles := by
  obtain ⟨hs, h⟩ := s.engDone_cases e st w0 w1 hsrec
  rw [h]
  exact State.engRecorded_frame e st w0 w1

theorem State.engDone_regs : (s.engDone e i st w0 w1).regs = (s.engRecorded e st w0 w1).regs := by
  obtain ⟨hs, h⟩ := s.engDone_cases e st w0 w1 hsrec
  rw [h]

/-- An ended instruction's record is its engine's. -/
theorem State.engDone_records (h : mapWf regReset s.regs = true) :
    (s.engDone e i st w0 w1).reg R.CMP_ENG_REC0 e = w0 ∧ (s.engDone e i st w0 w1).reg R.CMP_ENG_REC1 e = w1 := by
  simp only [State.reg_congr (State.engDone_regs e st w0 w1 hsrec)]
  exact ⟨State.engRecorded_rec0 e st w0 w1 h, State.engRecorded_rec1 e st w0 w1 h⟩

end

/-! ### Lanes -/

section
variable {e : Nat} {i : EngInstr} (xfer : Bool) (st : Half) (w : Word64 × Word64)

/-- The lane of an instruction that ends is free; what else the end leaves alone. -/
theorem State.engEnd_frame (hsrec : i.srec = false) (hen : mapWf engineDefault s.engines = true) :
    (s.engEnd e xfer i st w).engine e = (s.engine e).setLane xfer none ∧ (s.engEnd e xfer i st w).mem = s.mem
      ∧ (s.engEnd e xfer i st w).ueDue = s.ueDue ∧ (s.engEnd e xfer i st w).tiles = s.tiles := by
  obtain ⟨hmem, hengines, hdue, htiles⟩ :=
    State.engDone_frame (s := s.setEngine e ((s.engine e).setLane xfer none)) e st w.1 w.2 hsrec
  refine ⟨?_, hmem, hdue, htiles⟩
  exact (State.engine_congr hengines e).trans (State.engine_setEngine_same e _ hen)

theorem State.engEnd_records (hsrec : i.srec = false) (h : mapWf regReset s.regs = true) :
    (s.engEnd e xfer i st w).reg R.CMP_ENG_REC0 e = w.1 ∧ (s.engEnd e xfer i st w).reg R.CMP_ENG_REC1 e = w.2 :=
  State.engDone_records e st w.1 w.2 hsrec h

end

/-! ### Starting (R98, R99) -/

/-- The instruction i has left its queue for its lane. -/
def State.engStarted (s : State) (e : Nat) (xfer : Bool) (i : EngInstr) : State :=
  (s.setEngine e ((s.engine e).drop i)).setEngine e (((s.engine e).drop i).setLane xfer (some ⟨i, s.now, false, none⟩))

/-- The instruction i has left its queue and was refused by the check at its start. -/
def State.engStartRefused (s : State) (e : Nat) (i : EngInstr) : State :=
  (s.setEngine e ((s.engine e).drop i)).engDone e i ST.RANGE (plainRecord i ST.RANGE) (BitVec.ofNat 64 (2 ^ 32))

/-- The oldest entry of a free lane leaves the queue; it runs where its check holds, and is refused otherwise. -/
theorem exec_engineInstructionStart {eng : BitVec 10} {xfer : Bool} {i : EngInstr}
    (hfind : (s.engine eng.toNat).queue.find? (fun j => j.array == !xfer) = some i)
    (hlane : (s.engine eng.toNat).lane xfer = none) (hclock : s.clockOn (eng.toNat / 32) = true)
    (hfree : (s.engine eng.toNat).slotFree i = true) (hfence : s.engFenced eng.toNat = false)
    (hen : mapWf engineDefault s.engines = true) :
    exec (.engineInstructionStart eng xfer) s = done (
      if s.startOk (eng.toNat / 4) (s.engine eng.toNat) i then s.engStarted eng.toNat xfer i
      else s.engStartRefused eng.toNat i) := by
  have hbusy : (if xfer then (s.engine eng.toNat).xfer.isSome else (s.engine eng.toNat).array.isSome) = false := by
    cases xfer <;> simpa [Engine.lane] using hlane
  have hsame := State.engine_setEngine_same eng.toNat ((s.engine eng.toNat).drop i) hen
  have hfence' : (s.setEngine eng.toNat ((s.engine eng.toNat).drop i)).engFenced eng.toNat = false := by
    rw [State.engFenced, hsame]; exact hfence
  have hok : (s.setEngine eng.toNat ((s.engine eng.toNat).drop i)).startOk (eng.toNat / 4) (s.engine eng.toNat) i
      = s.startOk (eng.toNat / 4) (s.engine eng.toNat) i := rfl
  show execEngineInstructionStart eng xfer s = _
  simp only [execEngineInstructionStart, hfind, hbusy, hclock, hfree, hfence', hok, hsame]
  cases s.startOk (eng.toNat / 4) (s.engine eng.toNat) i <;> rfl

section
variable (e : Nat) {i : EngInstr} (hen : mapWf engineDefault s.engines = true)
include hen

/-- A started instruction runs in its lane from this tick, and no other engine changes. -/
theorem State.engStarted_engine (xfer : Bool) :
    (s.engStarted e xfer i).engine e = ((s.engine e).drop i).setLane xfer (some ⟨i, s.now, false, none⟩)
      ∧ ∀ e', e' ≠ e → (s.engStarted e xfer i).engine e' = s.engine e' := by
  have hdrop := State.setEngine_wf e ((s.engine e).drop i) hen
  exact ⟨State.engine_setEngine_same _ _ hdrop, fun e' he =>
    (State.engine_setEngine_other _ hdrop he).trans (State.engine_setEngine_other _ hen he)⟩

/-- A refused instruction has left the queue, and no other engine changes. -/
theorem State.engStartRefused_engine (hsrec : i.srec = false) :
    (s.engStartRefused e i).engine e = (s.engine e).drop i
      ∧ ∀ e', e' ≠ e → (s.engStartRefused e i).engine e' = s.engine e' := by
  have hengines : (s.engStartRefused e i).engines = (s.setEngine e ((s.engine e).drop i)).engines :=
    (State.engDone_frame e _ _ _ hsrec).2.1
  exact ⟨(State.engine_congr hengines e).trans (State.engine_setEngine_same _ _ hen), fun e' he =>
    (State.engine_congr hengines e').trans (State.engine_setEngine_other _ hen he)⟩

end

/-- A refusal at the start is recorded and counted. -/
theorem State.engStartRefused_regs (e : Nat) {i : EngInstr} (hsrec : i.srec = false) (h : mapWf regReset s.regs = true) :
    (s.engStartRefused e i).reg R.CMP_ENG_REC0 e = plainRecord i ST.RANGE
      ∧ (s.engStartRefused e i).fld F.CMP_ENG_STATS.REFUSED e
        = Nat.min F.CMP_ENG_STATS.REFUSED.top (s.fld F.CMP_ENG_STATS.REFUSED e + 1) := by
  have hregs : mapWf regReset (s.setEngine e ((s.engine e).drop i)).regs = true := h
  have hdone : (s.engStartRefused e i).regs = _ := State.engDone_regs e _ _ _ hsrec
  refine ⟨(State.engDone_records e _ _ _ hsrec hregs).1, ?_⟩
  rw [State.fld_congr hdone, State.engRecorded_refused e _ _ _ hregs (by decide)]
  rfl

/-! ### A tile handed over (R110, R253) -/

/-- A tile added to what the intakes hold. -/
def State.withTile (s : State) (t : Tile) : State := { s with tiles := s.tiles ++ [t] }

/-- The tile that an instruction of an engine hands over now (R110): its tag, format, addresses and sizes. -/
def State.tileOf (s : State) (e : Nat) (i : EngInstr) : Tile :=
  ⟨e / 32, i.at_ 48 8, i.ofmt, i.writes ((s.engine e).slot i.slot).kind64, s.now⟩

/-- The second word of a record whose instruction waited for its intake: the cycles waited counted in CYCLES and STALL (R110). -/
def handoverWord (w1 : Word64) (wait : Nat) : Word64 :=
  let w := wordPut w1 63 32 (Nat.min (2 ^ 32 - 1) (wordGet w1 63 32 + wait))
  wordPut w 31 16 (Nat.min 65535 (wordGet w 31 16 + wait))

/-- Without a transfer no tile is taken from an intake. -/
theorem relayTile_of_no_xfer (hx : s.xfers = []) (t : Tile) : relayTile s t = s := by
  simp only [relayTile, hx, List.find?_nil]

theorem State.relayPump_of_no_xfer (hx : s.xfers = []) (unit : Nat) : s.relayPump unit = s :=
  List.foldlRecOn (motive := fun t => t = s) _ _ rfl fun t ht tile _ => by
    rw [ht]; exact relayTile_of_no_xfer hx tile

/-- A tile that enters an intake while there is no transfer waits there. -/
theorem State.relayIn_of_no_xfer (hx : s.xfers = []) (unit tag fmt : Nat) (parts : List (Nat × Nat)) :
    s.relayIn unit tag fmt parts = s.withTile ⟨unit, tag, fmt, parts, s.now⟩ :=
  State.relayPump_of_no_xfer (s := s.withTile ⟨unit, tag, fmt, parts, s.now⟩) hx unit

section
variable {eng : BitVec 10} {r : EngRun} {st : Half} {w0 w1 : Word64} (hrun : (s.engine eng.toNat).xfer = some r)
  (hhand : r.handover = some (st, w0, w1))
include hrun hhand

theorem exec_relayHandover_of_full (hroom : s.relayRoom (eng.toNat / 32) = false) :
    exec (.relayHandover eng) s = done s := by
  show execRelayHandover eng s = _
  simp only [execRelayHandover, hrun, hhand, hroom, Bool.not_false, Bool.true_or, if_true]

/-- A tile that waited no more cycles than its record counts enters the intake, and its instruction ends with its record. -/
theorem exec_relayHandover_of_room (hroom : s.relayRoom (eng.toNat / 32) = true) (hclock : s.clockOn (eng.toNat / 32) = true)
    (hab : r.ins.aborted = false) (hx : s.xfers = [])
    (hwait : (s.now - r.start) * s.stepFreq (eng.toNat / 64) / 1000 ≤ wordGet w1 63 32) :
    exec (.relayHandover eng) s = done ((s.withTile (s.tileOf eng.toNat r.ins)).engEnd eng.toNat true r.ins st
      (w0, handoverWord w1 0)) := by
  have hstall : s.countStall eng.toNat 0 = s := rfl
  show execRelayHandover eng s = _
  simp only [execRelayHandover, hrun, hhand, hroom, hclock, hab, Nat.sub_eq_zero_of_le hwait, hstall,
    State.relayIn_of_no_xfer hx, Bool.not_true, Bool.or_self, Bool.false_eq_true, if_false]
  rfl

end

/-- Settles O13: a start is one of two next states, told apart by the check; a handover is the end of an instruction in the
state whose intake holds the tile. -/
theorem engineInstructionsStartAndHandOver : Obligations.EngineInstructionsStartAndHandOver := by
  unfold Obligations.EngineInstructionsStartAndHandOver
  constructor
  · intro s eng xfer i hm hq hen e en hfind hlane hclock hfree hfence hsrec
    have hexec := exec_engineInstructionStart hfind hlane hclock hfree hfence hen
    by_cases hok : s.startOk (e / 4) en i = true
    · rw [if_pos hok] at hexec
      obtain ⟨hengine, hother⟩ := State.engStarted_engine (i := i) e hen xfer
      exact ⟨_, hexec.trans (done_of hq), rfl, hother, fun _ => ⟨hengine, rfl, rfl⟩, fun h => absurd hok (by rw [h]; decide)⟩
    · rw [if_neg hok] at hexec
      obtain ⟨hengine, hother⟩ := State.engStartRefused_engine e hen hsrec
      obtain ⟨hmem, -, hdue, -⟩ := State.engDone_frame (s := s.setEngine e (en.drop i)) e ST.RANGE (plainRecord i ST.RANGE)
        (BitVec.ofNat 64 (2 ^ 32)) hsrec
      exact ⟨_, hexec.trans (done_of (hdue.trans hq)), hmem, hother, fun h => absurd h hok, fun _ => ⟨hengine,
        State.engStartRefused_regs e hsrec (State.mapsCanonical_iff.mp hm).1.1⟩⟩
  · intro s eng r st w0 w1 hm hq hen e i hrun hhand hab hsrec hst hclock hx
    refine ⟨fun hroom => (exec_relayHandover_of_full hrun hhand hroom).trans (done_of hq), fun hroom hwait => ?_⟩
    have hexec := exec_relayHandover_of_room hrun hhand hroom hclock hab hx hwait
    obtain ⟨hengine, hmem, hdue, htiles⟩ := State.engEnd_frame (s := s.withTile (s.tileOf e i)) (e := e) true st
      (w0, handoverWord w1 0) hsrec hen
    obtain ⟨hrec, -⟩ := State.engEnd_records (s := s.withTile (s.tileOf e i)) (e := e) true st (w0, handoverWord w1 0) hsrec
      (State.mapsCanonical_iff.mp hm).1.1
    exact ⟨_, hexec.trans (done_of (hdue.trans hq)), hmem, by rw [hengine]; rfl, htiles, hrec⟩

end Sys2Proof.Machine
end

section
/-! SUPPORT. The completion of an engine instruction (R102 to R107, R114): what is written, what is counted, what its slot holds. -/

namespace Sys2Proof.Machine

variable {s : State}

/-! ### Counting and flags (R58, R112) -/

/-- t differs from s only in registers and in what hardware put into them in this tick. -/
structure CountStep (s t : State) : Prop where
  eq : t = { s with regs := t.regs, hw := t.hw }
  wf : mapWf regReset s.regs = true → mapWf regReset t.regs = true

namespace CountStep

theorem refl (s : State) : CountStep s s := ⟨rfl, id⟩

theorem trans {s t u : State} (h1 : CountStep s t) (h2 : CountStep t u) : CountStep s u := by
  refine ⟨?_, h2.wf ∘ h1.wf⟩
  rw [h2.eq, h1.eq]

theorem mem {s t : State} (h : CountStep s t) : t.mem = s.mem := by rw [h.eq]
theorem engines {s t : State} (h : CountStep s t) : t.engines = s.engines := by rw [h.eq]
theorem ueDue {s t : State} (h : CountStep s t) : t.ueDue = s.ueDue := by rw [h.eq]

/-- A count that is made or not. -/
theorem ite {s t u : State} (p : Prop) [Decidable p] (ht : CountStep s t) (hu : CountStep s u) :
    CountStep s (if p then t else u) := by
  split
  · exact ht
  · exact hu

end CountStep

theorem State.count_step (f : Fld) (u n : Nat) : CountStep s (s.count f u n) := ⟨rfl, State.count_wf f u n⟩
theorem State.hwSet_step (f : Fld) (v u : Nat) : CountStep s (s.hwSet f v u) := ⟨rfl, State.hwSet_wf f v u⟩
theorem State.setReg_step (off u : Nat) (w : Word64) : CountStep s (s.setReg off u w) := ⟨rfl, State.setReg_wf off u w⟩

theorem State.capture_step (valid : Fld) (w : Word64) (u : Nat) (precedes : Word64 → Bool) :
    CountStep s (s.capture valid w u precedes) := by
  unfold State.capture
  split
  · exact (State.setReg_step _ _ _).trans (State.hwSet_step _ _ _)
  · split
    · exact CountStep.refl s
    · exact ⟨rfl, id⟩

theorem State.numFlags_step (s : State) (flags : Nat) : CountStep s (s.numFlags flags) := by
  unfold State.numFlags
  refine List.foldlRecOn _ _ (CountStep.refl s) fun t ht i _ => ht.trans ?_
  exact CountStep.ite _ (State.hwSet_step _ _ _) (CountStep.refl t)

theorem State.numFirst_step (kind e row col : Nat) : CountStep s (s.numFirst kind e row col) := by
  unfold State.numFirst
  exact CountStep.ite _ ⟨rfl, mapWf_mapSet⟩ (State.capture_step _ _ _ _)

theorem State.countStall_step (e stall : Nat) : CountStep s (s.countStall e stall) :=
  CountStep.ite _ (CountStep.refl s) (State.count_step _ _ _)

theorem State.engEvents_step (e : Nat) (o : EngOut) : CountStep s (s.engEvents e o) := by
  have hflags := s.numFlags_step (b2n o.nf * 64 + b2n o.accNan * 32 + b2n o.accInf * 16 + b2n o.terms * 8 + b2n o.snan * 4
    + b2n o.clamp * 2 + b2n o.blockNan)
  have htiles := hflags.trans (CountStep.ite o.nf (State.count_step F.CMP_NUM_SUMMARY.NF_TILES 0 1) (CountStep.refl _))
  have hclamped := htiles.trans
    (CountStep.ite (o.clamped = 0) (CountStep.refl _) (State.count_step F.CMP_NUM_SUMMARY.CLAMPED 0 o.clamped))
  have hblocks := hclamped.trans
    (CountStep.ite (o.blocks = 0) (CountStep.refl _) (State.count_step F.CMP_NUM_SUMMARY.BLOCK_NAN 0 o.blocks))
  exact hblocks.trans (CountStep.ite o.nf (State.numFirst_step 0 e o.row o.col)
    (CountStep.ite (o.clamp || o.blockNan) (State.numFirst_step 2 e 0 o.col) (CountStep.refl _)))

/-! ### Bytes written at their home (R198) -/

/-- What holds of the state before and is kept by one home write holds after a list of them. -/
theorem State.homeWrites_keeps {P : State → Prop} (ps : List (Nat × List Byte))
    (hk : ∀ (t : State) (a : Nat) (bs : List Byte), P t → P (t.homeWrite a bs)) (h : P s) : P (s.homeWrites ps) :=
  List.foldlRecOn ps _ h fun t ht p _ => hk t p.1 p.2 ht

/-- t has the engines of s and nothing more to report, and its registers are canonical where those of s are. -/
structure HomeStep (s t : State) : Prop where
  engines : t.engines = s.engines
  ueDue : t.ueDue = s.ueDue
  wf : mapWf regReset s.regs = true → mapWf regReset t.regs = true

namespace HomeStep

theorem refl (s : State) : HomeStep s s := ⟨rfl, rfl, id⟩

theorem trans {s t u : State} (h1 : HomeStep s t) (h2 : HomeStep t u) : HomeStep s u :=
  ⟨h2.engines.trans h1.engines, h2.ueDue.trans h1.ueDue, h2.wf ∘ h1.wf⟩

end HomeStep

theorem CountStep.homeStep {t : State} (h : CountStep s t) : HomeStep s t := ⟨h.engines, h.ueDue, h.wf⟩

theorem State.moved_homeStep (m : Mover) (n : Nat) : HomeStep s (s.moved m n) := by
  obtain ⟨t, h⟩ := s.moved_cases m n
  rw [h]; exact ⟨rfl, rfl, id⟩

theorem State.countUnit_homeStep (a n : Nat) (w : Bool) : HomeStep s (s.countUnit a n w) := by
  have counted (f : Fld) (k c : Nat) (m : Mover) : HomeStep s ((s.count f k c).moved m (64 * c)) :=
    (State.count_step f k c).homeStep.trans (State.moved_homeStep m (64 * c))
  unfold State.countUnit
  dsimp only
  split
  · exact counted _ _ _ _
  · exact counted _ _ _ _
  · exact counted _ _ _ _
  · exact HomeStep.refl s

theorem State.countLines_homeStep (a n : Nat) (w : Bool) : HomeStep s (s.countLines a n w) :=
  State.countLines_keeps (P := HomeStep s) a n w (fun _ _ _ h => h.trans (State.countUnit_homeStep _ _ _)) (HomeStep.refl s)

theorem State.afterWrite_homeStep (a n : Nat) (w : Option Nat) : HomeStep s (s.afterWrite a n w) := by
  unfold State.afterWrite
  split
  · exact HomeStep.refl s
  · exact ⟨rfl, rfl, id⟩

theorem State.writeBytes_homeStep (a : Nat) (bs : List Byte) (w : Option Nat) : HomeStep s (s.writeBytes a bs w) := by
  unfold State.writeBytes
  refine HomeStep.trans ?_ ((State.countLines_homeStep _ _ _).trans (State.afterWrite_homeStep _ _ _))
  split <;> exact ⟨rfl, rfl, id⟩

theorem State.countHome_homeStep (a n : Nat) : HomeStep s (s.countHome a n) := by
  unfold State.countHome
  split
  · exact (State.count_step _ _ _).homeStep
  · exact HomeStep.refl s

theorem State.homeWrite_homeStep (a : Nat) (bs : List Byte) (w : Option Nat) : HomeStep s (s.homeWrite a bs w) :=
  (State.countHome_homeStep a bs.length).trans (State.writeBytes_homeStep a bs w)

theorem State.homeWrites_homeStep (ps : List (Nat × List Byte)) : HomeStep s (s.homeWrites ps) :=
  State.homeWrites_keeps (P := HomeStep s) ps (fun _ _ _ h => h.trans (State.homeWrite_homeStep _ _ _)) (HomeStep.refl s)

/-! ### Completing (R102 to R107, R114) -/

/-- What is counted and flagged of a completed instruction (R58, R112). -/
def State.engCounted (s : State) (e : Nat) (i : EngInstr) (o : EngOut) (stall : Nat) : State :=
  ((if i.op = .mma then s.count F.CMP_ENG_STATS.ARRAY_CYCLES e (tileCycles i) else s).countStall e stall).engEvents e o

theorem State.engCounted_step (e : Nat) (i : EngInstr) (o : EngOut) (stall : Nat) : CountStep s (s.engCounted e i o stall) :=
  (CountStep.ite _ (State.count_step _ _ _) (CountStep.refl s)).trans
    ((State.countStall_step _ _).trans (State.engEvents_step _ _))

/-- The kind by which an instruction's extents are sized: its own where it sets the slot's. -/
def Engine.kindOf (en : Engine) (i : EngInstr) : Bool :=
  if i.op = .fill || i.op = .zero then i.kind64 else (en.slot i.slot).kind64

/-- An engine with an instruction's result in the slot it names; XTCVT names none. -/
def Engine.withResult (en : Engine) (i : EngInstr) (v : Slot) : Engine := if i.op = .cvt then en else en.setSlot i.slot v

/-- What an engine's instruction does now to slot and memory, with what its record says of it. -/
def State.engResult (s : State) (e : Nat) (i : EngInstr) : Slot × List (Nat × List Byte) × EngOut :=
  s.engWork i ((s.engine e).slot i.slot)

/-- What the record says, with the cycles of the instruction. -/
def State.engReport (s : State) (e : Nat) (i : EngInstr) : EngOut :=
  { (s.engResult e i).2.2 with cycles := engCycles i ((s.engine e).kindOf i) }

/-- The record of an instruction that completes with ST_OK. -/
def State.engRecord (s : State) (e : Nat) (i : EngInstr) (stall : Nat) : Word64 × Word64 :=
  recordOf i ST.OK (s.engReport e i) false stall

/-- The bytes of an engine's instruction are in memory and its result is in the slot. -/
def State.engWritten (s : State) (e : Nat) (i : EngInstr) : State :=
  let t := s.homeWrites (s.engResult e i).2.1
  if i.op = .cvt then t else t.setEngine e ((t.engine e).setSlot i.slot (s.engResult e i).1)

/-- It has also been counted. -/
def State.engPerformed (s : State) (e : Nat) (i : EngInstr) (stall : Nat) : State :=
  (s.engWritten e i).engCounted e i (s.engReport e i) stall

/-- An instruction without a DONE action that meets no mark ends once it has been performed. -/
theorem State.engineEnd_eq {e : Nat} {xfer : Bool} {r : EngRun} (stall : Nat) (hlane : (s.engine e).lane xfer = some r)
    (hhand : r.handover = none) (hclock : s.clockOn (e / 32) = true) (hdone : r.ins.done = 0) (hab : r.ins.aborted = false)
    (hreads : ∀ x ∈ r.ins.reads ((s.engine e).kindOf r.ins), s.poisonIn x.1 x.2 = none)
    (hwrites : ∀ x ∈ r.ins.writes ((s.engine e).kindOf r.ins), s.poisonPart x.1 x.2 = none) :
    s.engineEnd e xfer stall
      = (s.engPerformed e r.ins stall).engEnd e xfer r.ins ST.OK (s.engRecord e r.ins stall) := by
  have hr := List.findSome?_eq_none_iff.mpr hreads
  have hw := List.findSome?_eq_none_iff.mpr hwrites
  unfold Engine.kindOf at hr hw
  simp only [State.engineEnd, hlane, hhand, hclock, hdone, hab, hr, hw, State.engFinish, Option.isSome_none]
  rfl

section
variable (e : Nat) (i : EngInstr) (stall : Nat)

/-- Performing an instruction writes its bytes and no others, and leaves nothing to report. -/
theorem State.engPerformed_frame : (s.engPerformed e i stall).mem = (s.homeWrites (s.engResult e i).2.1).mem
    ∧ (s.engPerformed e i stall).ueDue = s.ueDue
    ∧ (mapWf regReset s.regs = true → mapWf regReset (s.engPerformed e i stall).regs = true) := by
  have hcount := State.engCounted_step (s := s.engWritten e i) e i (s.engReport e i) stall
  have hhome := s.homeWrites_homeStep (s.engResult e i).2.1
  refine ⟨hcount.mem.trans ?_, hcount.ueDue.trans ?_, fun h => hcount.wf ?_⟩ <;> unfold State.engWritten
  · split <;> rfl
  · split <;> exact hhome.ueDue
  · split <;> exact hhome.wf h

/-- The slot that a performed instruction names holds its result. -/
theorem State.engPerformed_engine (hen : mapWf engineDefault s.engines = true) :
    (s.engPerformed e i stall).engine e = (s.engine e).withResult i (s.engResult e i).1
      ∧ mapWf engineDefault (s.engPerformed e i stall).engines = true := by
  have hcount := (State.engCounted_step (s := s.engWritten e i) e i (s.engReport e i) stall).engines
  have hhome := (s.homeWrites_homeStep (s.engResult e i).2.1).engines
  have hwf : mapWf engineDefault (s.homeWrites (s.engResult e i).2.1).engines = true := by rw [hhome]; exact hen
  rw [State.engPerformed, State.engine_congr hcount, hcount]
  unfold State.engWritten Engine.withResult
  split
  · exact ⟨State.engine_congr hhome e, hwf⟩
  · rw [State.engine_setEngine_same e _ hwf, State.engine_congr hhome]
    exact ⟨rfl, State.setEngine_wf e _ hwf⟩

end

/-! ### What an instruction leaves in its slot (R102, R106) -/

/-- XTFILL sets every element and leaves what the slot is. -/
theorem State.fillRun_head (s : State) (i : EngInstr) :
    (s.fillRun i).init = true ∧ (s.fillRun i).kind64 = i.kind64 ∧ (s.fillRun i).running = false :=
  List.foldlRecOn (motive := fun v : Slot => v.init = true ∧ v.kind64 = i.kind64 ∧ v.running = false) _ _ ⟨rfl, rfl, rfl⟩
    fun _ h _ _ => h

/-- A cell has its size (Table 02-8). -/
theorem Acc_.bytes_length (k64 : Bool) (a : Acc_) : (a.bytes k64).length = cellBytes k64 := by
  cases k64 <;> simp [Acc_.bytes, accBytes, accWidth, cellBytes]

/-- A spilled slot fills its cell array (R106). -/
theorem Slot.spill_length (v : Slot) : v.spill.length = cellArray v.kind64 := by
  simp only [Slot.spill, List.length_flatMap, Acc_.bytes_length, List.map_const', List.sum_replicate_nat, List.length_range,
    cellArray]

/-- An emptied slot holds empty elements. -/
theorem Slot.cell_of_no_cells {v : Slot} (h : v.cells = []) (j : Nat) : v.cell j = ⟨0, 0⟩ := by
  rw [Slot.cell, h]; rfl

theorem State.engWork_zero {i : EngInstr} (v : Slot) (h : i.op = .zero) :
    s.engWork i v = (⟨true, i.kind64, i.running && !i.canon, []⟩, [], { forced := i.running && i.canon }) := by
  simp only [State.engWork, h]

theorem State.engWork_fill {i : EngInstr} (v : Slot) (h : i.op = .fill) : s.engWork i v = (s.fillRun i, [], {}) := by
  simp only [State.engWork, h]

theorem State.engWork_spill {i : EngInstr} (v : Slot) (h : i.op = .spill) :
    s.engWork i v = (v, [(offOf i.cells, v.spill)], {}) := by
  simp only [State.engWork, h]

/-- Settles O14: the lane's instruction is performed, counted and ended, in that order; a slot's content by the operation. -/
theorem engineInstructionCompletes : Obligations.EngineInstructionCompletes := by
  unfold Obligations.EngineInstructionCompletes
  constructor
  · intro s eng xfer stall r hm hq hen e en i k w hlane hhand hclock hdone hsrec hab hreads hwrites
    have hend := State.engineEnd_eq stall hlane hhand hclock hdone hab hreads hwrites
    obtain ⟨hmem, hdue, hwf⟩ := State.engPerformed_frame (s := s) e i stall
    obtain ⟨hresult, hengines⟩ := State.engPerformed_engine e i stall hen
    obtain ⟨hlane', hmem', hdue', -⟩ := State.engEnd_frame (e := e) xfer ST.OK (s.engRecord e i stall) hsrec hengines
    refine ⟨_, (congrArg done hend).trans (done_of (hdue'.trans (hdue.trans hq))), ?_, hmem'.trans hmem, ?_⟩
    · exact hlane'.trans (congrArg (Engine.setLane · xfer none) hresult)
    · exact State.engEnd_records xfer ST.OK _ hsrec (hwf (State.mapsCanonical_iff.mp hm).1.1)
  · intro s i v
    refine ⟨fun h => ?_, fun h => ?_, fun h => ?_⟩
    · rw [State.engWork_zero v h]
      exact ⟨rfl, rfl, rfl, by simp only [Bool.and_eq_true, Bool.not_eq_true'], Slot.cell_of_no_cells rfl⟩
    · rw [State.engWork_spill v h]
      exact ⟨rfl, v.spill, rfl, v.spill_length⟩
    · rw [State.engWork_fill v h]
      exact ⟨rfl, s.fillRun_head i⟩

end Sys2Proof.Machine
end

section
/-! SUPPORT. Heats of a solver unit: their start (R117, R139) and their completion (R119). -/

namespace Sys2Proof.Machine

variable {s : State}

/-! ### Solver units as a map -/

/-- A solver unit written reads back. -/
theorem State.dsu_setDsu_same (u : Nat) (v : Dsu) (h : mapWf dsuDefault s.dsus = true) : (s.setDsu u v).dsu u = v :=
  mapGet_mapSet_same h

/-! ### Starting (R117, R139) -/

/-- A unit's lanes that run no problem, lowest first. -/
def Dsu.freeLanes (d : Dsu) : List Nat := (List.range 64).filter fun l => !d.busyLanes.contains l

/-- The run of a heat that starts now in these lanes, with both thresholds latched (R139, R411). -/
def State.heatRunIn (s : State) (h : Heat) (lanes : List Nat) : HeatRun :=
  ⟨h, s.fldOld F.DSU_PIVOT_TAU.TAU64, s.fldOld F.DSU_PIVOT_TAU.TAU32, (lanes.take h.count).zipIdx, s.now⟩

/-- A heat has left the head of its unit's queue for the lowest free lanes. -/
def State.heatStarted (s : State) (u : Nat) (h : Heat) (rest : List Heat) : State :=
  s.setDsu u { s.dsu u with queue := rest, running := (s.dsu u).running ++ [s.heatRunIn h (s.dsu u).freeLanes] }

/-- The head of a queue starts, or stays where lanes are too few or the lane limit forbids it. -/
theorem exec_heatStart {unit : BitVec 5} {h : Heat} {rest : List Heat} (hqueue : (s.dsu unit.toNat).queue = h :: rest)
    (hclock : s.clockOn unit.toNat = true) (hfence : s.dsuFenced unit.toNat = false) :
    exec (.heatStart unit) s = done (
      if (s.dsu unit.toNat).freeLanes.length < h.count ∨ s.laneLimit < (s.dsu unit.toNat).busyLanes.length + h.count then s
      else s.heatStarted unit.toNat h rest) := by
  show execHeatStart unit s = _
  simp only [execHeatStart, hqueue, hclock, hfence, Bool.not_true, Bool.false_eq_true, if_false, Bool.or_eq_true,
    decide_eq_true_eq]
  rfl

/-! ### Ending (R119) -/

/-- A heat has left its unit, is counted, and its context has gone on with ST_OK. -/
def State.heatEnded (s : State) (u : Nat) (h : Heat) : State :=
  ((s.dropHeat u h.id).count F.DSU_STATS.HEATS_DONE u).dsuWake h.hart h.id ST.OK

/-- The only heat of a unit, all its problems done and without a baton, ends. -/
theorem exec_heatComplete {unit : BitVec 5} {r : HeatRun} (hrun : (s.dsu unit.toNat).running = [r]) (htodo : r.todo = [])
    (hdone : r.heat.done = false) (hclock : s.clockOn unit.toNat = true) :
    exec (.heatComplete unit) s = done (s.heatEnded unit.toNat r.heat) := by
  have hfind : (s.dsu unit.toNat).running.find? (fun r => r.todo.isEmpty) = some r := by simp [hrun, htodo]
  show done (s.heatEnd unit.toNat) = _
  simp only [State.heatEnd, hfind, hclock, hdone, Bool.not_true, Bool.false_eq_true, Bool.false_and, if_false]
  rfl

/-- The context that waits for the heat id wakes with the status. -/
theorem State.dsuWake_of_wait {k u id dl : Nat} {rd : Rg} (st : Half) (h : (s.ctx k).wait = .dsu rd u id dl) :
    s.dsuWake k id st = s.onCtx k fun c => (c.setStatus rd st).wake := by
  simp only [State.dsuWake, h, if_true]

/-- Dropping the only heat of a unit leaves it without one. -/
theorem State.dropHeat_running_single {u : Nat} {r : HeatRun} (hd : mapWf dsuDefault s.dsus = true)
    (hrun : (s.dsu u).running = [r]) : ((s.dropHeat u r.heat.id).dsu u).running = [] := by
  rw [State.dropHeat, State.dsu_setDsu_same _ _ hd, hrun]
  simp

/-- Settles O15: a start is one of two next states, told apart by the free lanes and the lane limit; an end is the wake of the
waiting context in the state that has dropped and counted the heat. -/
theorem heatsStartAndComplete : Obligations.HeatsStartAndComplete := by
  unfold Obligations.HeatsStartAndComplete
  constructor
  · intro s unit h rest hq hd u d free hqueue hclock hfence
    have hexec := exec_heatStart hqueue hclock hfence
    refine ⟨fun hroom hlimit => ?_, fun hfew => ?_⟩
    · have hstart := hexec.trans (congrArg done (if_neg (not_or.mpr ⟨Nat.not_lt.mpr hroom, Nat.not_lt.mpr hlimit⟩)))
      have hunit : (s.heatStarted u h rest).dsu u = _ := State.dsu_setDsu_same _ _ hd
      exact ⟨_, hstart.trans (done_of hq), rfl, rfl, rfl, congrArg Dsu.queue hunit, congrArg Dsu.running hunit⟩
    · exact (hexec.trans (congrArg done (if_pos hfew))).trans (done_of hq)
  · intro s unit r rd dl hm hq hd u hrun htodo hdone hclock hwait
    obtain ⟨⟨hregs, -⟩, hharts⟩ := State.mapsCanonical_iff.mp hm
    have hwake : s.heatEnded u r.heat = ((s.dropHeat u r.heat.id).count F.DSU_STATS.HEATS_DONE u).onCtx r.heat.hart
        fun c => (c.setStatus rd ST.OK).wake := State.dsuWake_of_wait ST.OK hwait
    have hexec := exec_heatComplete hrun htodo hdone hclock
    rw [hwake] at hexec
    refine ⟨_, hexec.trans (done_of hq), rfl, State.dropHeat_running_single hd hrun, ?_, ?_⟩
    · exact State.ctx_setCtx_same _ _ hharts
    · rw [State.fld_congr (State.onCtx_regs ..)]
      exact State.fld_count_same (s := s.dropHeat u r.heat.id) F.DSU_STATS.HEATS_DONE u 1 hregs (by decide)

end Sys2Proof.Machine
end

section
/-! SUPPORT. Memory free of marks and waits, and the bytes that a home write leaves and that read back (R198). -/

namespace Sys2Proof.Machine

variable {s : State}

/-! ### Memory that is free of marks and waits -/

/-- In clean memory no write waits (R166, R169, R290, R316). -/
theorem State.writeHold_of_clean (hc : s.clean) (a n : Nat) : s.writeHold a n = none := by
  obtain ⟨-, -, hprotected, hreset, hblocks, hsparing⟩ := hc
  simp [State.writeHold, State.memWaits, State.memInReset, State.channelWaits, State.bankWaits, State.protectedAt, hprotected,
    hreset, hblocks, hsparing]

theorem State.stackFenced_of_clean (hc : s.clean) (a : Nat) : s.stackFenced a = false := by
  obtain ⟨-, hfenced, -⟩ := hc
  unfold State.stackFenced
  split
  · rw [hfenced]; rfl
  · rfl

/-- In clean memory no read meets a mark (R168, R302). -/
theorem State.poisonIn_of_clean (hc : s.clean) (a n : Nat) : s.poisonIn a n = none := by
  have hpoisoned : s.poisoned = [] := hc.1
  simp [State.poisonIn, State.stackFenced_of_clean hc, hpoisoned]

theorem State.poisonPart_of_clean (hc : s.clean) (a n : Nat) : s.poisonPart a n = none := by
  have hpoisoned : s.poisoned = [] := hc.1
  simp [State.poisonPart, State.stackFenced_of_clean hc, hpoisoned]

/-! ### Bytes that stay and bytes that read back (R198) -/

/-- A byte is told by the memories and the base of the host window (R329). -/
theorem State.byteAt_congr {t : State} (hmem : t.mem = s.mem) (hhost : t.hostMem = s.hostMem)
    (hbase : t.reg R.HIF_HWIN_BASE 0 = s.reg R.HIF_HWIN_BASE 0) (x : Nat) : t.byteAt x = s.byteAt x := by
  have hphys (o : Nat) : t.hwinPhys o = s.hwinPhys o := by simp only [State.hwinPhys, State.fld, hbase]
  simp only [State.byteAt, hmem, hhost, hphys]

theorem State.peek_congr {t : State} (h : ∀ x, t.byteAt x = s.byteAt x) (a n : Nat) : t.peek a n = s.peek a n := by
  simp only [State.peek, h]

/-- Work that is done or not. -/
theorem HomeStep.ite {s t u : State} (p : Prop) [Decidable p] (ht : HomeStep s t) (hu : HomeStep s u) :
    HomeStep s (if p then t else u) := by
  split
  · exact ht
  · exact hu

/-- A home step that changes no byte of memory. -/
structure SameBytes (s t : State) : Prop extends HomeStep s t where
  byteAt : mapWf regReset s.regs = true → ∀ x, t.byteAt x = s.byteAt x

namespace SameBytes

theorem refl (s : State) : SameBytes s s := ⟨HomeStep.refl s, fun _ _ => rfl⟩

theorem trans {s t u : State} (h1 : SameBytes s t) (h2 : SameBytes t u) : SameBytes s u :=
  ⟨h1.toHomeStep.trans h2.toHomeStep, fun hr x => (h2.byteAt (h1.wf hr) x).trans (h1.byteAt hr x)⟩

theorem ite {s t u : State} (p : Prop) [Decidable p] (ht : SameBytes s t) (hu : SameBytes s u) :
    SameBytes s (if p then t else u) := by
  split
  · exact ht
  · exact hu

end SameBytes

/-- No counter is the base of the host window. -/
theorem State.count_sameBytes (f : Fld) (u n : Nat) (hf : f.off < 0x4000000) (hne : R.HIF_HWIN_BASE ≠ f.off) :
    SameBytes s (s.count f u n) := by
  have hkey : keyOf R.HIF_HWIN_BASE 0 ≠ keyOf f.off u := keyOf_ne (by decide) hf hne
  exact ⟨(State.count_step f u n).homeStep, fun hr =>
    State.byteAt_congr (State.count_mem ..) (State.count_hostMem ..) (State.reg_count_other n hr hkey)⟩

theorem State.countHome_sameBytes (a n : Nat) : SameBytes s (s.countHome a n) :=
  SameBytes.ite _ (State.count_sameBytes _ _ _ (by decide) (by decide)) (SameBytes.refl s)

theorem State.countHome_canonical (a n : Nat) : (s.countHome a n).memCanonical = s.memCanonical := by
  simp only [State.memCanonical, State.countHome_mem, State.countHome_hostMem, State.countHome_bootMem]

/-- A home write counted leaves every register but that counter's alone. -/
theorem State.countHome_reg (a n : Nat) {off : Nat} (u : Nat) (hr : mapWf regReset s.regs = true) (ho : off < 0x4000000)
    (hne : off ≠ R.FAB_STATS) : (s.countHome a n).reg off u = s.reg off u := by
  unfold State.countHome
  split
  · exact State.reg_count_other 1 hr (keyOf_ne ho (by decide) hne)
  · rfl

section
variable {a : Nat} {bs : List Byte} (w : Option Nat) (hr : mapWf regReset s.regs = true)
include hr

/-- A home write leaves every register but the line counters and its own counter's alone. -/
theorem State.homeWrite_reg (a : Nat) (bs : List Byte) {off : Nat} (u : Nat) (ho : off < 0x4000000) (h0 : off ≠ R.FAB_STATS)
    (h1 : off ≠ R.MEM_WR_LINES) (h2 : off ≠ R.MEM_RD_LINES) (h3 : off ≠ R.TIER_WR_LINES) (h4 : off ≠ R.TIER_RD_LINES) :
    (s.homeWrite a bs w).reg off u = s.reg off u :=
  (State.writeBytes_reg _ _ _ _ ((State.countHome_sameBytes _ _).wf hr) ho h1 h2 h3 h4).trans
    (State.countHome_reg _ _ _ hr ho h0)

/-- Every byte outside the extent of a home write keeps its value (the extent behind the host window apart: R329). -/
theorem State.byteAt_homeWrite_outside {x : Nat} (h : s.memCanonical = true) (hx : x < a ∨ a + bs.length ≤ x)
    (hp : ∀ o, place a ≠ .hwin o) : (s.homeWrite a bs w).byteAt x = s.byteAt x := by
  rw [State.homeWrite, State.byteAt_writeBytes_outside w (by rw [State.countHome_canonical]; exact h)
    ((State.countHome_sameBytes _ _).wf hr) hx hp]
  exact (State.countHome_sameBytes _ _).byteAt hr x

end

/-- The first bytes of a home write read back. -/
theorem State.peek_homeWrite {a n : Nat} {bs : List Byte} (w : Option Nat) (h : s.memCanonical = true) (hn : n ≤ bs.length)
    (hp : ∀ o i, i < n → place (a + i) ≠ .hwin o) : (s.homeWrite a bs w).peek a n = bs.take n := by
  have hbyte (i : Nat) (hi : i < n) : (s.homeWrite a bs w).byteAt (a + i) = bs[i] :=
    State.byteAt_writeBytes_inside w (by rw [State.countHome_canonical]; exact h) (Nat.lt_of_lt_of_le hi hn)
      (fun o => hp o 0 (Nat.zero_lt_of_lt hi)) (fun o => hp o i hi)
  refine List.ext_getElem (by simp [State.peek, hn]) fun i hi _ => ?_
  have hi' : i < n := by simpa [State.peek] using hi
  simpa [State.peek] using hbyte i hi'

end Sys2Proof.Machine
end

section
/-! SUPPORT. Problems on a solver unit's lanes (R118, R123, R125): what a lane does, and what it writes. -/

namespace Sys2Proof.Machine

variable {s : State}

/-! ### A problem refused (R123) -/

/-- The status record of a refused problem. -/
def Prob.refusedRecord (p : Prob) (stall : Nat) : List Byte :=
  leBytes 8 (ST.RANGE.toNat * 2 ^ 48) ++ leBytes 8 0 ++ leBytes 8 (Nat.min (2 ^ 32 - 1) (p.readCycles + stall) * 2 ^ 32)
    ++ leBytes 8 0

theorem Prob.refusedRecord_length (p : Prob) (stall : Nat) : (p.refusedRecord stall).length = 32 := by
  simp [Prob.refusedRecord]

/-- The first word of a refused problem's record holds its status. -/
theorem Prob.refusedRecord_status (p : Prob) (stall : Nat) :
    ofLe ((p.refusedRecord stall).take 8) = ST.RANGE.toNat * 2 ^ 48 := by
  rw [Prob.refusedRecord, List.append_assoc, List.append_assoc, List.take_left' (leBytes_length _ _), ofLe_leBytes]
  decide

/-- A refused problem writes its record, unless its outputs have no room, and counts itself. -/
theorem State.problemRefused_eq (u : Nat) (h : Heat) (p : Prob) (i stall : Nat) :
    s.problemRefused u h p i stall
      = (if h.outStride = 0 then s else s.homeWrite (h.outAt i) (p.refusedRecord stall)).count F.DSU_STATS.REFUSED u := rfl

theorem State.problemRefused_homeStep (u : Nat) (h : Heat) (p : Prob) (i stall : Nat) :
    HomeStep s (s.problemRefused u h p i stall) := by
  rw [State.problemRefused_eq]
  exact (HomeStep.ite _ (HomeStep.refl s) (State.homeWrite_homeStep _ _ _)).trans (State.count_step _ _ _).homeStep

/-! ### A problem run whole (R118, R125) -/

/-- The lane has read the problem's warm record where its heat has one (R135). -/
def State.warmRead (s : State) (h : Heat) (p : Prob) (i : Nat) : State :=
  if h.warmIn then s.countLines (h.warmAt i) p.warmLen false else s

/-- A STEP with contacts has left free bytes in its workspace (R130). -/
def State.workspaceUsed (s : State) (h : Heat) (p : Prob) (i : Nat) : State :=
  if p.op = 4 && p.nr != 0 then (s.freeBytes p.workBytes).2.homeWrite (h.workAt i) (s.freeBytes p.workBytes).1 else s

/-- The warm record that a problem leaves for its next one where its heat asks for it (R135). -/
def State.warmKept (s : State) (h : Heat) (p : Prob) (i : Nat) (r : Solved) : State :=
  if h.warmOut then
    s.homeWrite (h.warmAt i) (leBytes 8 p.signature ++ leBytes 2 p.nr ++ List.replicate 6 0
      ++ (((p.written r).getLast?.map (·.2)).getD []).flatMap (leBytes 8))
  else s

/-- What a unit counts of a problem's outcome and of its warm record (R133, R129, R135). -/
def State.outcomeCounted (s : State) (u : Nat) (r : Solved) (warm : Option Bool) : State :=
  let s := if r.nonFinite.isSome then s.count F.DSU_STATS.NONFINITE u else s
  let s := if r.pivs.isEmpty then s else s.count F.DSU_STATS.PIVOTED u
  if warm = some false then s.count F.DSU_STATS.WARM_REJECTED u else s

/-- The warm record's impulses that a problem begins with (R135). -/
def State.warmStart (s : State) (h : Heat) (p : Prob) (i : Nat) : Option Vec :=
  if h.warmIn then s.warmRecord (h.warmAt i) p.signature p.nr else none

/-- What a status record says of the warm record. -/
def State.warmFound (s : State) (h : Heat) (p : Prob) (i : Nat) : Option Bool :=
  if h.warmIn then some (s.warmStart h p i).isSome else none

/-- The status record and the outputs of a problem (R125). -/
def Prob.outputBytes (p : Prob) (r : Solved) (warm : Option Bool) (stall : Nat) : List Byte :=
  statusWords p r p.signature warm (p.cycles r + stall) ++ (p.written r).flatMap fun o => o.2.flatMap (leBytes 8)

/-- A problem run whole, stage by stage. -/
theorem State.problemRun_eq (u : Nat) (h : Heat) (p : Prob) (i stall : Nat) :
    s.problemRun u h p i stall
      = (((((s.warmRead h p i).workspaceUsed h p i).homeWrite (h.outAt i)
          (p.outputBytes (p.solve (s.warmStart h p i)) (s.warmFound h p i) stall)).warmKept h p i
            (p.solve (s.warmStart h p i))).outcomeCounted u (p.solve (s.warmStart h p i)) (s.warmFound h p i)) := rfl

/-- What a unit counts of an outcome changes no byte. -/
theorem State.outcomeCounted_sameBytes (u : Nat) (r : Solved) (warm : Option Bool) :
    SameBytes s (s.outcomeCounted u r warm) := by
  have counted (t : State) (f : Fld) (hf : f.off = R.DSU_STATS) : SameBytes t (t.count f u) :=
    State.count_sameBytes f u 1 (by rw [hf]; decide) (by rw [hf]; decide)
  have hfinite := SameBytes.ite r.nonFinite.isSome (counted s F.DSU_STATS.NONFINITE rfl) (SameBytes.refl s)
  have hpivots := hfinite.trans (SameBytes.ite r.pivs.isEmpty (SameBytes.refl _) (counted _ F.DSU_STATS.PIVOTED rfl))
  exact hpivots.trans (SameBytes.ite (warm = some false) (counted _ F.DSU_STATS.WARM_REJECTED rfl) (SameBytes.refl _))

theorem State.warmRead_homeStep (h : Heat) (p : Prob) (i : Nat) : HomeStep s (s.warmRead h p i) :=
  HomeStep.ite _ (State.countLines_homeStep _ _ _) (HomeStep.refl s)

theorem State.workspaceUsed_homeStep (h : Heat) (p : Prob) (i : Nat) : HomeStep s (s.workspaceUsed h p i) := by
  have hfree : HomeStep s (s.freeBytes p.workBytes).2 := ⟨rfl, rfl, id⟩
  exact HomeStep.ite _ (hfree.trans (State.homeWrite_homeStep _ _ _)) (HomeStep.refl s)

theorem State.warmKept_homeStep (h : Heat) (p : Prob) (i : Nat) (r : Solved) : HomeStep s (s.warmKept h p i r) :=
  HomeStep.ite _ (State.homeWrite_homeStep _ _ _) (HomeStep.refl s)

theorem State.problemRun_homeStep (u : Nat) (h : Heat) (p : Prob) (i stall : Nat) :
    HomeStep s (s.problemRun u h p i stall) := by
  rw [State.problemRun_eq]
  have hread := (State.warmRead_homeStep (s := s) h p i).trans (State.workspaceUsed_homeStep h p i)
  exact hread.trans ((State.homeWrite_homeStep _ _ _).trans ((State.warmKept_homeStep h p i _).trans
    (State.outcomeCounted_sameBytes u _ _).toHomeStep))

/-- Without a warm record, a problem of FK, ID, FD or MASS writes its status record and outputs and nothing else. -/
theorem State.problemRun_of_no_warm (u : Nat) {h : Heat} {p : Prob} (i stall : Nat) (hop : p.op ≤ 3) (hin : h.warmIn = false)
    (hout : h.warmOut = false) :
    s.problemRun u h p i stall
      = (s.homeWrite (h.outAt i) (p.outputBytes (p.solve none) none stall)).outcomeCounted u (p.solve none) none := by
  have hstep : ¬ p.op = 4 := by omega
  simp only [State.problemRun_eq, State.warmRead, State.workspaceUsed, State.warmKept, State.warmStart, State.warmFound, hin,
    hout, hstep, decide_false, Bool.false_and, Bool.false_eq_true, if_false]

/-- A status record is 32 bytes (Table 05-12). -/
theorem statusWords_length (p : Prob) (r : Solved) (sig : Nat) (warm : Option Bool) (cycles : Nat) :
    (statusWords p r sig warm cycles).length = 32 := by
  simp [statusWords]

/-! ### What is written, and what is not (R123, R125) -/

section
variable {h : Heat} {p : Prob} (u : Nat) {i : Nat} (stall : Nat) (hregs : mapWf regReset s.regs = true)
  (hmem : s.memCanonical = true) (hplace : ∀ o n, n < 32 → place (h.outAt i + n) ≠ .hwin o)
include hregs hmem hplace

/-- A refused problem whose outputs have room writes its status record only, and counts itself. -/
theorem State.problemRefused_writes (hroom : h.outStride ≠ 0) :
    (s.problemRefused u h p i stall).peekNat (h.outAt i) 8 = ST.RANGE.toNat * 2 ^ 48
      ∧ (∀ x, x < h.outAt i ∨ h.outAt i + 32 ≤ x → (s.problemRefused u h p i stall).byteAt x = s.byteAt x)
      ∧ (s.problemRefused u h p i stall).fld F.DSU_STATS.REFUSED u
        = Nat.min F.DSU_STATS.REFUSED.top (s.fld F.DSU_STATS.REFUSED u + 1) := by
  have hlen := p.refusedRecord_length stall
  have hwf := (State.homeWrite_homeStep (s := s) (h.outAt i) (p.refusedRecord stall) none).wf hregs
  have hbytes := (State.count_sameBytes (s := s.homeWrite (h.outAt i) (p.refusedRecord stall)) F.DSU_STATS.REFUSED u 1
    (by decide) (by decide)).byteAt hwf
  rw [State.problemRefused_eq, if_neg hroom]
  refine ⟨?_, fun x hx => (hbytes x).trans ?_, ?_⟩
  · rw [State.peekNat, State.peek_congr hbytes, State.peek_homeWrite none hmem (by rw [hlen]; decide)
      fun o n hn => hplace o n (by omega)]
    exact p.refusedRecord_status stall
  · exact State.byteAt_homeWrite_outside none hregs hmem (by rw [hlen]; exact hx) fun o => hplace o 0 (by decide)
  · rw [State.fld_count_same _ _ _ hwf (by decide), State.fld, State.homeWrite_reg none hregs _ _ _ (by decide) (by decide)
      (by decide) (by decide) (by decide) (by decide)]
    rfl

/-- A problem of FK, ID, FD or MASS without a warm record leaves its status record, and no byte outside its output record
changes. -/
theorem State.problemRun_writes (hop : p.op ≤ 3) (hin : h.warmIn = false) (hout : h.warmOut = false) :
    (s.problemRun u h p i stall).peek (h.outAt i) 32
        = statusWords p (p.solve none) p.signature none (p.cycles (p.solve none) + stall)
      ∧ ∀ x, x < h.outAt i ∨ h.outAt i + (p.outputBytes (p.solve none) none stall).length ≤ x →
        (s.problemRun u h p i stall).byteAt x = s.byteAt x := by
  have hlen := statusWords_length p (p.solve none) p.signature none (p.cycles (p.solve none) + stall)
  have hwf := (State.homeWrite_homeStep (s := s) (h.outAt i) (p.outputBytes (p.solve none) none stall) none).wf hregs
  have hbytes := (State.outcomeCounted_sameBytes u (p.solve none) none).byteAt hwf
  rw [State.problemRun_of_no_warm u i stall hop hin hout]
  refine ⟨?_, fun x hx => (hbytes x).trans ?_⟩
  · rw [State.peek_congr hbytes, State.peek_homeWrite none hmem (by simp [Prob.outputBytes, hlen]) hplace]
    exact List.take_left' hlen
  · exact State.byteAt_homeWrite_outside none hregs hmem hx fun o => hplace o 0 (by decide)

end

/-! ### A lane (R118, R123) -/

/-- The bytes of its descriptor that a lane reads: 64 where the descriptor names no number of bodies that there can be. -/
def State.probLen (s : State) (run : HeatRun) (i : Nat) : Nat :=
  let a := run.heat.probAt i
  let nb := s.peekNat a 1
  let header : Prob := ⟨run.heat.op, s.peek a (64 + 192 * Nat.min 64 nb), run.tau64, run.tau32⟩
  if 1 ≤ nb && nb ≤ 64 then Nat.min run.heat.probStride header.len else 64

/-- Problem i of a heat as its descriptor stands in memory. -/
def State.probRead (s : State) (run : HeatRun) (i : Nat) : Prob :=
  ⟨run.heat.op, s.peek (run.heat.probAt i) (s.probLen run i), run.tau64, run.tau32⟩

/-- The checks of R123 hold of a heat's problem. -/
def Heat.admits (h : Heat) (p : Prob) : Bool := p.ok h.probStride h.outStride h.workStride h.warmStride (h.warmIn || h.warmOut)

/-- The lane has read problem i, has run it or refused it, and is free. -/
def State.laneEnded (s : State) (u : Nat) (run : HeatRun) (i lane stall : Nat) : State :=
  let t := s.countLines (run.heat.probAt i) (s.probLen run i) false
  (if run.heat.admits (s.probRead run i) then t.problemRun u run.heat (s.probRead run i) i stall
    else t.problemRefused u run.heat (s.probRead run i) i stall).laneDone u run.heat.id lane

theorem State.laneEnded_ueDue (u : Nat) (run : HeatRun) (i lane stall : Nat) :
    (s.laneEnded u run i lane stall).ueDue = s.ueDue := by
  have hread := (State.countLines_homeStep (s := s) (run.heat.probAt i) (s.probLen run i) false).ueDue
  unfold State.laneEnded State.laneDone
  dsimp only
  rw [State.setDsu_ueDue]
  split
  · exact (State.problemRun_homeStep _ _ _ _ _).ueDue.trans hread
  · exact (State.problemRefused_homeStep _ _ _ _ _).ueDue.trans hread

section
variable {u lane i : Nat} {run : HeatRun} (stall : Nat) (hrun : (s.dsu u).running = [run])
include hrun

/-- A command of another operation than the unit's only heat is no event of it. -/
theorem State.laneRun_of_other_op {op : Nat} (hop : op ≠ run.heat.op) : s.laneRun op u lane stall = s := by
  have hfind : (s.dsu u).running.find? (fun r => r.heat.op == op && r.todo.any fun e => e.1 == lane) = none := by
    simp [hrun, Ne.symm hop]
  simp only [State.laneRun, hfind]

/-- In clean memory a lane of the unit's only heat runs or refuses its problem. -/
theorem State.laneRun_of_clean (htodo : (run.todo.find? fun e => e.1 == lane) = some (lane, i)) (hclock : s.clockOn u = true)
    (hc : s.clean) : s.laneRun run.heat.op u lane stall = s.laneEnded u run i lane stall := by
  have hany : (run.todo.any fun e => e.1 == lane) = true :=
    List.any_eq_true.mpr ⟨(lane, i), List.mem_of_find?_eq_some htodo, beq_self_eq_true lane⟩
  have hfind : (s.dsu u).running.find? (fun r => r.heat.op == run.heat.op && r.todo.any fun e => e.1 == lane) = some run := by
    simp [hrun, hany]
  have hholds (xs : List (Nat × Nat)) : (xs.findSome? fun x => s.writeHold x.1 x.2) = none :=
    List.findSome?_eq_none_iff.mpr fun x _ => State.writeHold_of_clean hc x.1 x.2
  have hreads (xs : List (Nat × Nat)) : (xs.findSome? fun x => s.poisonIn x.1 x.2) = none :=
    List.findSome?_eq_none_iff.mpr fun x _ => State.poisonIn_of_clean hc x.1 x.2
  have hparts (xs : List (Nat × Nat)) : (xs.findSome? fun x => s.poisonPart x.1 x.2) = none :=
    List.findSome?_eq_none_iff.mpr fun x _ => State.poisonPart_of_clean hc x.1 x.2
  simp only [State.laneRun, hfind, htodo, hclock, hholds, hreads, hparts, Option.or_none, Bool.not_true, Bool.false_eq_true,
    if_false]
  rfl

end

/-- Settles O16: in clean memory a lane's command runs or refuses its problem and one of another operation finds none; what
either writes is one home write, and what it counts changes no byte. -/
theorem solverProblemsRun : Obligations.SolverProblemsRun := by
  unfold Obligations.SolverProblemsRun
  constructor
  · intro s unit lane stall i run hq u h a nb hdr n p ok hrun htodo hclock hc c hop
    have hexec (k : Nat) (hk : k ≤ 4) : exec (c k) s = done (s.laneRun k u lane.toNat stall) := by
      match k, hk with
      | 0, _ => rfl
      | 1, _ => rfl
      | 2, _ => rfl
      | 3, _ => rfl
      | 4, _ => rfl
    have hlane := State.laneRun_of_clean stall hrun htodo hclock hc
    refine ⟨?_, fun k hk hne => ?_⟩
    · rw [hexec _ hop, hlane]
      exact done_of ((State.laneEnded_ueDue _ _ _ _ _).trans hq)
    · rw [hexec k hk, State.laneRun_of_other_op stall hrun hne]
      exact done_of hq
  · intro s u h p i stall hm hmem hplace
    obtain ⟨⟨hregs, -⟩, -⟩ := State.mapsCanonical_iff.mp hm
    exact ⟨State.problemRefused_writes u stall hregs hmem hplace, State.problemRun_writes u stall hregs hmem hplace⟩

end Sys2Proof.Machine
end

section
/-! SUPPORT. Update units: the end of a command (R144) and the parking pair (R161). -/

namespace Sys2Proof.Machine

variable {s : State}

/-! ### Update units and contexts as maps -/

/-- An update unit written reads back. -/
theorem State.puu_setPuu_same (u : Nat) (v : Puu) (h : mapWf puuDefault s.puus = true) : (s.setPuu u v).puu u = v :=
  mapGet_mapSet_same h

/-- A value that is no default reads back from every map, canonical or not. -/
theorem mapGet_mapSet_of_ne_default {α : Type} [DecidableEq α] {d : Nat → α} {k : Nat} {v : α} (hv : v ≠ d k)
    (m : List (Nat × α)) : mapGet d k (mapSet d k v m) = v := by
  induction m with
  | nil => simp [mapSet, mapGet, hv]
  | cons e m ih =>
    simp only [mapSet, if_neg hv]
    split
    · simp [mapGet]
    · next hne =>
      split
      · simp [mapGet]
      · next hnlt => simp [mapGet, hne, hnlt, ih]

/-- A context that wakes reads back. -/
theorem State.ctx_onCtx_wake (k : Nat) (f : Ctx → Ctx) : (s.onCtx k fun c => (f c).wake).ctx k = (f (s.ctx k)).wake :=
  mapGet_mapSet_of_ne_default (d := ctxDefault) (fun hd => nomatch (congrArg Ctx.st hd : HState.ready = .empty)) s.harts

/-! ### What a home write leaves of units and contexts (R198) -/

theorem State.countUnit_link (a n : Nat) (w : Bool) : LinkStep s (s.countUnit a n w) := by
  have counted (f : Fld) (k c : Nat) (m : Mover) : LinkStep s ((s.count f k c).moved m (64 * c)) :=
    (State.count_link f k c).trans (State.moved_link m (64 * c))
  unfold State.countUnit
  dsimp only
  split
  · exact counted _ _ _ _
  · exact counted _ _ _ _
  · exact counted _ _ _ _
  · exact LinkStep.refl s

theorem State.countLines_link (a n : Nat) (w : Bool) : LinkStep s (s.countLines a n w) :=
  State.countLines_keeps (P := LinkStep s) a n w (fun _ _ _ h => h.trans (State.countUnit_link _ _ _)) (LinkStep.refl s)

theorem State.countHome_link (a n : Nat) : LinkStep s (s.countHome a n) := by
  unfold State.countHome
  split
  · exact State.count_link _ _ _
  · exact LinkStep.refl s

theorem LinkStep.puus {s t : State} (h : LinkStep s t) : t.puus = s.puus := by rw [h.eq]

/-- A home write leaves the update units alone. -/
theorem State.homeWrite_puus (a : Nat) (bs : List Byte) (w : Option Nat) : (s.homeWrite a bs w).puus = s.puus := by
  have hlook (t : State) : (t.afterWrite a bs.length w).puus = t.puus := by unfold State.afterWrite; split <;> rfl
  refine Eq.trans ?_ (State.countHome_link (s := s) a bs.length).puus
  unfold State.homeWrite State.writeBytes
  dsimp only
  rw [hlook, (State.countLines_link _ _ _).puus]
  split <;> rfl

/-- A write takes no more than its reservation from a context that waits for no baton word (R71, R79). -/
theorem wakeCtx_of_no_baton (s : State) (a n : Nat) (w : Option Nat) (k : Nat) {c : Ctx}
    (h : ∀ rd addr thr met dl, c.wait ≠ .baton rd addr thr met dl) : ∃ g, wakeCtx s a n w k c = { c with resv := g } := by
  unfold wakeCtx
  split
  next hw => exact absurd hw (h _ _ _ _ _)
  next =>
    dsimp only
    split
    · split
      · exact ⟨none, rfl⟩
      · exact ⟨c.resv, rfl⟩
    · exact ⟨c.resv, rfl⟩

/-- Looking at the contexts after a write looks at each of them. -/
theorem State.afterWrite_ctx (a n : Nat) (w : Option Nat) (k : Nat) :
    (s.afterWrite a n w).ctx k = if n = 0 then s.ctx k else wakeCtx s a n w k (s.ctx k) := by
  unfold State.afterWrite
  split
  · rfl
  · exact mapGet_map (d := ctxDefault) (wakeCtx s a n w) k s.harts (.inl rfl)

/-- A home write takes no more than its reservation from a context that waits for no baton word. -/
theorem State.homeWrite_ctx_of_no_baton (a : Nat) (bs : List Byte) (w : Option Nat) {k : Nat}
    (h : ∀ rd addr thr met dl, (s.ctx k).wait ≠ .baton rd addr thr met dl) :
    ∃ g, (s.homeWrite a bs w).ctx k = { s.ctx k with resv := g } := by
  have hhome := (State.countHome_link (s := s) a bs.length).ctx k
  unfold State.homeWrite State.writeBytes
  dsimp only
  rw [State.afterWrite_ctx]
  have hctx (t : State) (ht : t.ctx k = s.ctx k) :
      ∃ g, (if bs.length = 0 then t.ctx k else wakeCtx t a bs.length w k (t.ctx k)) = { s.ctx k with resv := g } := by
    rw [ht]
    split
    · exact ⟨(s.ctx k).resv, rfl⟩
    · exact wakeCtx_of_no_baton t a bs.length w k h
  refine hctx _ (((State.countLines_link _ _ _).ctx k).trans ?_)
  split <;> exact hhome

/-- In clean memory a unit's write is a home write. -/
theorem State.put_of_clean (hc : s.clean) (a : Nat) {bs : List Byte} (hbs : bs ≠ []) (core : Nat) :
    s.put a bs core = s.homeWrite a bs := by
  have hparts : s.poisonParts a bs.length = [] := by
    have hpoisoned : s.poisoned = [] := hc.1
    simp [State.poisonParts, State.stackFenced_of_clean hc, hpoisoned]
  simp only [State.put, List.isEmpty_eq_false_iff.mpr hbs, Bool.false_eq_true, if_false, State.writeHold_of_clean hc, hparts]

/-! ### The end of a command (R144) -/

/-- A result record is 32 bytes (Table 06-3). -/
theorem PuuRun.result_length (r : PuuRun) (st : Half) (cycles park : Nat) : (r.result st cycles park).length = 32 := by
  simp [PuuRun.result]

/-- The result record of a run that has its cycles is in memory, where its command names a place for one. -/
def State.puuRecorded (s : State) (r : PuuRun) (cycles park : Nat) : State :=
  if r.cmd.result = 0 then s else s.homeWrite (offOf r.cmd.result) (r.result r.status cycles park)

/-- In clean memory a finished run without a DONE action writes its result record and leaves its unit. -/
theorem exec_puuCommandComplete {unit : BitVec 4} {r : PuuRun} {n : Nat} (stall parkWait : Nat) (hc : s.clean)
    (hrun : (s.puu unit.toNat).run = some r) (hfin : r.finished = true) (hab : r.cmd.aborted = false)
    (hdone : r.cmd.done = false) (hclock : s.unitClock unit.toNat = true) (harea : s.puuNoArea unit.toNat r.cmd = false)
    (hcycles : r.cycles = some n) :
    exec (.puuCommandComplete unit stall parkWait) s
      = done ((s.puuRecorded r (n + (stall + parkWait)) parkWait).puuLeave unit.toNat r.cmd r.status) := by
  have hput (cycles : Nat) := State.put_of_clean hc (offOf r.cmd.result)
    (List.ne_nil_of_length_pos (Nat.lt_of_lt_of_eq (by decide) (r.result_length r.status cycles parkWait).symm)) (16 * unit.toNat)
  show done (s.puuEnd unit.toNat stall parkWait) = _
  by_cases hres : r.cmd.result = 0
  · simp [State.puuEnd, hrun, hfin, hclock, hab, hdone, hres, State.puuResult, State.puuRecorded]
  · simp [State.puuEnd, hrun, hfin, hclock, hab, hdone, hres, State.puuResult, State.puuRecorded, State.writeHold_of_clean hc,
      State.puuCycles, harea, hcycles, hput]

section
variable (r : PuuRun) (cycles park : Nat)

theorem State.puuRecorded_mem : (s.puuRecorded r cycles park).mem = if r.cmd.result = 0 then s.mem
    else (s.homeWrite (offOf r.cmd.result) (r.result r.status cycles park)).mem := by
  unfold State.puuRecorded
  split <;> rfl

theorem State.puuRecorded_homeStep : HomeStep s (s.puuRecorded r cycles park) :=
  HomeStep.ite _ (HomeStep.refl s) (State.homeWrite_homeStep _ _ _)

theorem State.puuRecorded_puus : (s.puuRecorded r cycles park).puus = s.puus := by
  unfold State.puuRecorded
  split
  · rfl
  · exact State.homeWrite_puus _ _ _

/-- The result record leaves the unit's counters alone. -/
theorem State.puuRecorded_stats (u : Nat) (hregs : mapWf regReset s.regs = true) :
    (s.puuRecorded r cycles park).reg R.PUU_STATS u = s.reg R.PUU_STATS u := by
  unfold State.puuRecorded
  split
  · rfl
  · exact State.homeWrite_reg none hregs _ _ u (by decide) (by decide) (by decide) (by decide) (by decide) (by decide)

/-- The result record takes no more than its reservation from a context that waits for a command. -/
theorem State.puuRecorded_ctx {k u id dl : Nat} {rd : Rg} (hwait : (s.ctx k).wait = .puu rd u id dl) :
    ∃ g, (s.puuRecorded r cycles park).ctx k = { s.ctx k with resv := g } := by
  unfold State.puuRecorded
  split
  · exact ⟨(s.ctx k).resv, rfl⟩
  · exact State.homeWrite_ctx_of_no_baton _ _ _ fun _ _ _ _ _ h => by rw [hwait] at h; cases h

end

/-- The context that waits for the command id of unit u wakes with the status. -/
theorem State.puuWake_of_wait {k u id dl : Nat} {rd : Rg} (st : Half) (h : (s.ctx k).wait = .puu rd u id dl) :
    s.puuWake u k id st = s.onCtx k fun c => (c.setStatus rd st).wake := by
  simp [State.puuWake, h]

section
variable {u dl : Nat} {rd : Rg} {c : PuuCmd} (st : Half) (hwait : (s.ctx c.hart).wait = .puu rd u c.id dl)
include hwait

/-- A command that leaves frees its unit, is counted and wakes the context that waits for it. -/
theorem State.puuLeave_of_wait : s.puuLeave u c st
    = ((s.setPuu u { s.puu u with run := none }).count F.PUU_STATS.CMDS_DONE u).onCtx c.hart
      fun c => (c.setStatus rd st).wake :=
  State.puuWake_of_wait st hwait

theorem State.puuLeave_frame : (s.puuLeave u c st).mem = s.mem ∧ (s.puuLeave u c st).ueDue = s.ueDue := by
  rw [State.puuLeave_of_wait st hwait]
  exact ⟨rfl, rfl⟩

theorem State.puuLeave_run (hpuus : mapWf puuDefault s.puus = true) : ((s.puuLeave u c st).puu u).run = none := by
  rw [State.puuLeave_of_wait st hwait]
  exact congrArg Puu.run (State.puu_setPuu_same u _ hpuus)

theorem State.puuLeave_counted (hregs : mapWf regReset s.regs = true) :
    s.counted (s.puuLeave u c st) F.PUU_STATS.CMDS_DONE u := by
  rw [State.puuLeave_of_wait st hwait]
  exact State.fld_count_same (s := s.setPuu u _) F.PUU_STATS.CMDS_DONE u 1 hregs (by decide)

theorem State.puuLeave_ctx : (s.puuLeave u c st).ctx c.hart = ((s.ctx c.hart).setStatus rd st).wake := by
  rw [State.puuLeave_of_wait st hwait]
  exact State.ctx_onCtx_wake c.hart fun c => c.setStatus rd st

end

/-- A waiting instruction that completes moves its context past it, with its status. -/
theorem Ctx.setStatus_wake (c : Ctx) (rd : Rg) (st : Half) :
    ((c.setStatus rd st).wake).st = .ready ∧ ((c.setStatus rd st).wake).pc = c.pc + 4
      ∧ (rd ≠ 0 → mapWf zero64 c.x = true → ((c.setStatus rd st).wake).xr rd = BitVec.ofNat 64 st.toNat) := by
  refine ⟨rfl, ?_, fun hrd hx => Ctx.xr_setX_same c _ hrd hx⟩
  unfold Ctx.setStatus Ctx.setX
  split <;> rfl

/-! ### The parking pair (R161) -/

/-- A word kept for its tick is no change of the register. -/
theorem State.hold_cases (s : State) (off u : Nat) : ∃ h, s.hold off u = { s with held := h } := by
  unfold State.hold
  split
  · exact ⟨s.held, rfl⟩
  · exact ⟨_, rfl⟩

@[simp] theorem State.hold_mem (off u : Nat) : (s.hold off u).mem = s.mem := by
  obtain ⟨h, e⟩ := s.hold_cases off u; rw [e]
@[simp] theorem State.hold_regs (off u : Nat) : (s.hold off u).regs = s.regs := by
  obtain ⟨h, e⟩ := s.hold_cases off u; rw [e]
@[simp] theorem State.hold_puus (off u : Nat) : (s.hold off u).puus = s.puus := by
  obtain ⟨h, e⟩ := s.hold_cases off u; rw [e]
@[simp] theorem State.hold_ueDue (off u : Nat) : (s.hold off u).ueDue = s.ueDue := by
  obtain ⟨h, e⟩ := s.hold_cases off u; rw [e]

section
variable (u : Nat) (base slots : Word64)

/-- A pair that is taken touches no memory and leaves nothing to report. -/
theorem State.parkTaken_frame : (s.parkTaken u base slots).mem = s.mem ∧ (s.parkTaken u base slots).ueDue = s.ueDue :=
  ⟨(State.hold_mem _ _).trans (State.hold_mem _ _), (State.hold_ueDue _ _).trans (State.hold_ueDue _ _)⟩

/-- A pair that is taken is the active one, and COMMIT_ST says so. -/
theorem State.parkTaken_regs (hregs : mapWf regReset s.regs = true) :
    (s.parkTaken u base slots).reg R.PUU_PARK_BASE u = base ∧ (s.parkTaken u base slots).reg R.PUU_PARK_SLOTS u = slots
      ∧ (s.parkTaken u base slots).fld F.PUU_STATE.COMMIT_ST u = 0 := by
  have hheld : mapWf regReset ((s.hold R.PUU_PARK_BASE u).hold R.PUU_PARK_SLOTS u).regs = true := by simpa using hregs
  have hbase := State.setReg_wf R.PUU_PARK_BASE u base hheld
  have hslots := State.setReg_wf R.PUU_PARK_SLOTS u slots hbase
  refine ⟨?_, ?_, State.fld_setFld_same _ _ _ hslots (by decide)⟩
  · refine (State.reg_setReg_other _ hslots (keyOf_ne (by decide) (by decide) (by decide))).trans ?_
    rw [State.reg_setReg_other _ hbase (keyOf_ne (by decide) (by decide) (by decide)), State.reg_setReg_same _ _ _ hheld]
  · refine (State.reg_setReg_other _ hslots (keyOf_ne (by decide) (by decide) (by decide))).trans ?_
    rw [State.reg_setReg_same _ _ _ hbase]

/-- No commit of a unit is pending once a pair is taken. -/
theorem State.parkTaken_commit (hpuus : mapWf puuDefault s.puus = true) :
    ((s.parkTaken u base slots).puu u).commit = none := by
  have hheld : mapWf puuDefault ((s.hold R.PUU_PARK_BASE u).hold R.PUU_PARK_SLOTS u).puus = true := by simpa using hpuus
  exact congrArg Puu.commit (State.puu_setPuu_same u _ hheld)

end

/-- The checks of R161: SLOTS in range and the area within the stack. -/
abbrev ParkPairOk (base slots : Word64) : Prop :=
  (wordGet slots 12 0 = 0 ∨ (4 ≤ wordGet slots 12 0 ∧ wordGet slots 12 0 ≤ 4096))
    ∧ (wordGet base 36 16 + wordGet slots 12 0) * 65536 ≤ 0x1800000000

/-- The commit of a bad pair: shown and counted. -/
def State.parkRefused (s : State) (u : Nat) : State := (s.setFld F.PUU_STATE.COMMIT_ST 1 u).commitRefused

/-- The commit of a good pair on a busy unit: held, and shown as pending. -/
def State.parkHeld (s : State) (u : Nat) (base slots : Word64) : State :=
  (s.setPuu u { s.puu u with commit := some (base, slots) }).setFld F.PUU_STATE.COMMIT_ST 2 u

/-- The model's check refuses the other pairs. -/
theorem parkPair_refused_iff (base slots : Word64) :
    (!(wordGet slots 12 0 == 0 || decide (4 ≤ wordGet slots 12 0 ∧ wordGet slots 12 0 ≤ 4096))
      || decide (0x1800000000 < (wordGet base 36 16 + wordGet slots 12 0) * 65536)) = true ↔ ¬ ParkPairOk base slots := by
  by_cases hslots : wordGet slots 12 0 = 0
  · simp [ParkPairOk, hslots]
  · simp [ParkPairOk, hslots, Decidable.imp_iff_not_or]

/-- A commit refuses its staged pair, holds it or takes it. -/
theorem State.puuCommitGo_eq (u : Nat) : s.puuCommitGo u =
    if ParkPairOk (s.stgOld R.PUU_PARK_BASE u) (s.stgOld R.PUU_PARK_SLOTS u) then
      if s.puuBusy u then s.parkHeld u (s.stgOld R.PUU_PARK_BASE u) (s.stgOld R.PUU_PARK_SLOTS u)
      else s.parkTaken u (s.stgOld R.PUU_PARK_BASE u) (s.stgOld R.PUU_PARK_SLOTS u)
    else s.parkRefused u := by
  simp only [State.puuCommitGo, parkPair_refused_iff, ite_not]
  rfl

/-- A bad pair changes no unit and no active pair; its refusal is shown and counted. -/
theorem State.parkRefused_regs (u : Nat) (hregs : mapWf regReset s.regs = true) :
    (s.parkRefused u).fld F.PUU_STATE.COMMIT_ST u = 1 ∧ s.counted (s.parkRefused u) F.ERR_STATS.REFUSED_COMMITS
      ∧ (s.parkRefused u).reg R.PUU_PARK_BASE u = s.reg R.PUU_PARK_BASE u := by
  have hshown := State.setFld_wf F.PUU_STATE.COMMIT_ST 1 u hregs
  refine ⟨?_, ?_, ?_⟩
  · exact (State.fld_count_other 1 hshown (keyOf_ne (by decide) (by decide) (by decide))).trans
      (State.fld_setFld_same _ _ _ hregs (by decide))
  · refine (State.fld_count_same F.ERR_STATS.REFUSED_COMMITS 0 1 hshown (by decide)).trans ?_
    rw [State.fld_setFld_other 1 hregs (keyOf_ne (by decide) (by decide) (by decide))]
    rfl
  · exact (State.reg_count_other 1 hshown (keyOf_ne (by decide) (by decide) (by decide))).trans
      (State.reg_setReg_other _ hregs (keyOf_ne (by decide) (by decide) (by decide)))

/-- A held pair is pending at its unit and shown so; the active pair stays. -/
theorem State.parkHeld_regs (u : Nat) (base slots : Word64) (hregs : mapWf regReset s.regs = true) :
    (s.parkHeld u base slots).fld F.PUU_STATE.COMMIT_ST u = 2
      ∧ (s.parkHeld u base slots).reg R.PUU_PARK_BASE u = s.reg R.PUU_PARK_BASE u :=
  ⟨State.fld_setFld_same (s := s.setPuu u _) _ _ _ hregs (by decide),
    State.reg_setReg_other (s := s.setPuu u _) _ hregs (keyOf_ne (by decide) (by decide) (by decide))⟩

/-! ### A register's whole write (R9 to R11) -/

/-- A write of all 64 bits of a register that answers covers no WO field in part, and goes on to its ranges. -/
theorem State.write64_of_open (src : Source) {off : Nat} {d : RegDesc} (v : Word64) (hopen : s.opens off) (hoff : off % 8 = 0)
    (hlt : off < stagedView) (hdesc : s.descAt off = some d) :
    s.write64 src off v = s.writeWord src d off off (BitVec.allOnes 64) v v := by
  obtain ⟨hdark, hclosed⟩ := hopen
  have haccess : badAccess off 8 = false := by simp [badAccess, hoff]
  have hspace : ¬ regSpace ≤ off := Nat.not_le.mpr (Nat.lt_trans hlt (by decide))
  have hat : off / 8 * 8 = off := Nat.div_mul_cancel (Nat.dvd_of_mod_eq_zero hoff)
  have hpart : d.partWo (BitVec.allOnes 64) = false := List.any_eq_false.mpr fun f _ => by
    simp only [BitVec.and_allOnes, bne_self_eq_false, Bool.and_false, Bool.false_eq_true, not_false_eq_true]
  have hmask : accessMask off 8 = BitVec.allOnes 64 := rfl
  simp only [State.write64, State.regWrite, hdark, haccess, hspace, Nat.not_le.mpr hlt, hat, hdesc, hclosed, hmask, hpart, hoff,
    Nat.mul_zero, BitVec.shiftLeft_zero, Bool.false_eq_true, if_false]
  rfl

/-- A register with no field that keeps a written value stores nothing. -/
theorem State.storeFields_of_no_stored {d : RegDesc} (off u : Nat) (mask m : Word64) (hrw : d.mask .rw = 0)
    (hrws : d.mask .rws = 0) (hw1c : d.mask .w1c = 0) : s.storeFields d off u mask m = s := by
  simp [State.storeFields, State.clearW1c, hrw, hrws, hw1c]

/-- PUU_COMMIT's description: GO alone (Table 06-12). -/
def puuCommitDesc : RegDesc := ⟨R.PUU_COMMIT, 0, [⟨0, 0, .wo, false⟩]⟩

/-- A write of PUU_COMMIT.GO commits the selected unit's pair where no commit of it is pending. -/
theorem exec_puuCommit (src : Source) (hopen : s.opens R.PUU_COMMIT)
    (hnone : (s.puu (s.selv F.PUU_SEL.UNIT)).commit = none) :
    exec (.puuCommit src 1) s = done (s.puuCommitGo (s.selv F.PUU_SEL.UNIT)) := by
  have hrw : puuCommitDesc.mask .rw = 0 := by decide
  have hrws : puuCommitDesc.mask .rws = 0 := by decide
  have hmerged : s.merged puuCommitDesc R.PUU_COMMIT (s.selv F.PUU_SEL.UNIT) (BitVec.allOnes 64) 1 = 1 := by
    have hdefined : puuCommitDesc.defined = 1 := by decide
    simp [State.merged, hrw, hrws, hdefined]
  have hrange : s.outOfRange src R.PUU_COMMIT 1 = false := rfl
  have hact (old raw : Word64) : s.regAct src R.PUU_COMMIT (s.selv F.PUU_SEL.UNIT) (BitVec.allOnes 64) 1 old raw
      = if (s.puu (s.selv F.PUU_SEL.UNIT)).commit.isSome then s.refuse src 7 R.PUU_COMMIT raw
        else s.puuCommitGo (s.selv F.PUU_SEL.UNIT) := rfl
  have hunit : s.unitFor R.PUU_COMMIT = s.selv F.PUU_SEL.UNIT := rfl
  show done (s.write64 src R.PUU_COMMIT 1) = _
  rw [State.write64_of_open src 1 hopen (d := puuCommitDesc) (by decide) (by decide) rfl]
  simp only [State.writeWord, hunit, hmerged, hrange, Bool.false_eq_true, if_false,
    State.storeFields_of_no_stored (s := s) R.PUU_COMMIT (s.selv F.PUU_SEL.UNIT) (BitVec.allOnes 64) 1 hrw hrws (by decide), hact,
    hnone, Option.isSome_none]

/-- A pending pair is taken where its unit is idle with an empty ring. -/
theorem exec_puuPendingCommitTaken {unit : BitVec 4} {base slots : Word64}
    (hcommit : (s.puu unit.toNat).commit = some (base, slots)) (hidle : s.puuBusy unit.toNat = false) :
    exec (.puuPendingCommitTaken unit) s = done (s.parkTaken unit.toNat base slots) := by
  show execPuuPendingCommitTaken unit s = _
  simp only [execPuuPendingCommitTaken, hcommit, hidle, Bool.false_eq_true, if_false]

/-- Settles O19: a command that ends leaves its unit in the state that holds its result record; a commit is one of three next
states, told apart by the check of the pair and by whether the unit is busy. -/
theorem updateCommandsEndAndParkingPair : Obligations.UpdateCommandsEndAndParkingPair := by
  unfold Obligations.UpdateCommandsEndAndParkingPair
  refine ⟨?_, ?_, ?_⟩
  · intro s unit stall parkWait n r rd dl hm hq hc hpuus u c hrun hfin hab hdone hclock harea hcycles hwait
    obtain ⟨⟨hregs, -⟩, -⟩ := State.mapsCanonical_iff.mp hm
    have hexec := exec_puuCommandComplete stall parkWait hc hrun hfin hab hdone hclock harea hcycles
    have hhome := State.puuRecorded_homeStep (s := s) r (n + (stall + parkWait)) parkWait
    obtain ⟨g, hctx⟩ := State.puuRecorded_ctx r (n + (stall + parkWait)) parkWait hwait
    have hwait' : ((s.puuRecorded r (n + (stall + parkWait)) parkWait).ctx c.hart).wait = .puu rd u c.id dl := by
      rw [hctx]; exact hwait
    obtain ⟨hmem, hdue⟩ := State.puuLeave_frame r.status hwait'
    have hwoken := State.puuLeave_ctx r.status hwait'
    rw [hctx] at hwoken
    obtain ⟨hst, hpc, hrd⟩ := Ctx.setStatus_wake { s.ctx c.hart with resv := g } rd r.status
    refine ⟨_, hexec.trans (done_of (hdue.trans (hhome.ueDue.trans hq))), ?_, ?_, ?_, ?_, ?_, ?_⟩
    · exact State.puuLeave_run r.status hwait' (by rw [State.puuRecorded_puus]; exact hpuus)
    · have hcounted := State.puuLeave_counted r.status hwait' (hhome.wf hregs)
      rw [State.counted, State.fld, State.fld, State.puuRecorded_stats r _ _ u hregs] at hcounted
      exact hcounted
    · rw [hwoken]; exact hst
    · rw [hwoken]; exact hpc
    · rw [hwoken]; exact hrd
    · exact hmem.trans (State.puuRecorded_mem r _ _)
  · intro s src hm hq hopen hpuus u base slots n good hnone
    obtain ⟨⟨hregs, -⟩, -⟩ := State.mapsCanonical_iff.mp hm
    have hexec := exec_puuCommit src hopen hnone
    rw [State.puuCommitGo_eq] at hexec
    by_cases hgood : good
    · rw [if_pos hgood] at hexec
      by_cases hbusy : s.puuBusy u = true
      · rw [if_pos hbusy] at hexec
        obtain ⟨hshown, hbase⟩ := State.parkHeld_regs u base slots hregs
        have hcommit := congrArg Puu.commit
          (State.puu_setPuu_same u { s.puu u with commit := some (base, slots) } hpuus)
        exact ⟨_, hexec.trans (done_of hq), rfl, fun _ hidle => absurd hbusy (by rw [hidle]; decide),
          fun _ _ => ⟨hcommit, hshown, hbase⟩, fun hbad => absurd hgood hbad⟩
      · rw [if_neg hbusy] at hexec
        obtain ⟨hmem, hdue⟩ := State.parkTaken_frame (s := s) u base slots
        exact ⟨_, hexec.trans (done_of (hdue.trans hq)), hmem, fun _ _ => State.parkTaken_regs u base slots hregs,
          fun _ h => absurd h hbusy, fun hbad => absurd hgood hbad⟩
    · rw [if_neg hgood] at hexec
      obtain ⟨hshown, hcounted, hbase⟩ := State.parkRefused_regs u hregs
      exact ⟨_, hexec.trans (done_of hq), rfl, fun h => absurd h hgood, fun h => absurd h hgood,
        fun _ => ⟨hshown, hcounted, rfl, hbase⟩⟩
  · intro s unit base slots hm hq hpuus u hcommit hidle
    obtain ⟨⟨hregs, -⟩, -⟩ := State.mapsCanonical_iff.mp hm
    obtain ⟨hmem, hdue⟩ := State.parkTaken_frame (s := s) u base slots
    exact ⟨_, (exec_puuPendingCommitTaken hcommit hidle).trans (done_of (hdue.trans hq)), hmem,
      State.parkTaken_commit u base slots hpuus, State.parkTaken_regs u base slots hregs⟩

end Sys2Proof.Machine
end

section
/-! SUPPORT. Packets in transit (R228, R231). -/

namespace Sys2Proof.Machine

variable {s : State}

/-! ### Where a packet goes (R228) -/

/-- Routing a packet leaves its count of hops: at most its detour ends. -/
theorem State.nextPorts_hops (pk : Packet) : (s.nextPorts pk).1.hops = pk.hops := by
  simp only [State.nextPorts, apply_ite Prod.fst, apply_ite Packet.hops, ite_self]

/-! ### Arrival on an UP port with an empty receive buffer (R226, R235) -/

/-- With an empty receive buffer there is nothing to free. -/
theorem State.takeRx_of_no_rx {p : Nat} (hrx : (s.port p).rx = []) (pk : Packet) : s.takeRx p pk = s := by
  simp [State.takeRx, hrx]

/-- On an UP port with an empty receive buffer every packet can be taken up. -/
theorem State.arrives_of_no_rx {p : Nat} (hup : s.isUp p = true) (hrx : (s.port p).rx = []) (pk : Packet) :
    s.arrives p pk = true := by
  simp [State.arrives, hup, hrx]

/-- A packet of the job for another endpoint, under an ACTIVE tag of its port, is forwarded. -/
theorem State.accept_of_transit {p i : Nat} {pk : Packet} (hup : s.isUp p = true) (hrx : (s.port p).rx = [])
    (hform : malformed pk = false) (htime : pk.type ≠ PT.TIME) (hlaunch : pk.type ≠ PT.LAUNCH) (hpoison : pk.type ≠ PT.POISON)
    (hdrain : s.drainingEntry pk.tag.toNat = none) (hactive : s.activeEntry pk.tag.toNat = some i)
    (hport : bitOf (s.fld F.LNK_TAG_PORTS.PORTS i) p = true) (hdest : pk.dest.toNat ≠ s.self) :
    s.accept p pk = (false, s.forwardPacket p pk) := by
  simp only [State.accept, State.arrives_of_no_rx hup hrx, State.takeRx_of_no_rx hrx, hform, beq_false_of_ne htime,
    beq_false_of_ne hlaunch, beq_false_of_ne hpoison, hdrain, hactive, hport, hdest, Bool.not_true, Bool.or_false,
    Option.isSome_none, Bool.false_eq_true, if_false]

/-- A packet in transit that has made eight hops is dropped (R231). -/
theorem State.forwardPacket_of_hops {p : Nat} {pk : Packet} (hhops : pk.hops.toNat = 8) :
    s.forwardPacket p pk = s.count F.LNK_PORT_STATS.ROUTE_DROPS p := if_pos hhops

/-- One that has made another number of hops and finds a port is queued there, one hop further (R229, R231). -/
theorem State.forwardPacket_of_route {p o : Nat} {pk pk' : Packet} {ps : List Nat} (hhops : pk.hops.toNat ≠ 8)
    (hnext : s.nextPorts pk = (pk', .ports ps)) (hchoose : s.choosePort pk' ps = .ok o) :
    s.forwardPacket p pk = s.enqueue o pk' := by
  simp only [State.forwardPacket, hhops, if_false, hnext, hchoose]

/-- Settles O29: the packet reaches the forwarding of R228 to R231, which drops it or queues it, by its count of hops. -/
theorem transitCountsHops : Obligations.TransitCountsHops := by
  unfold Obligations.TransitCountsHops
  intro s port pk i _ hq p hup hrx hform htime hlaunch hpoison hdrain hactive hport hdest
  have haccept := State.accept_of_transit hup hrx hform htime hlaunch hpoison hdrain hactive hport hdest
  have hexec : exec (.packetTransit port pk) s = done (s.forwardPacket p pk) := by
    show execPacketTransit port pk s = _
    rw [execPacketTransit, haccept]
    simp only [hdest, decide_false, Bool.false_and, Bool.false_eq_true, if_false]
  rw [hexec, done_of ((State.forwardPacket_link p pk).ueDue.trans hq)]
  refine ⟨fun hhops => by rw [State.forwardPacket_of_hops hhops], fun pk' ps o hhops hnext hchoose => ?_⟩
  have hkept : pk'.hops = pk.hops := by
    have h := State.nextPorts_hops (s := s) pk
    rwa [hnext] at h
  rw [State.forwardPacket_of_route hhops hnext hchoose, State.enqueue, hkept]

end Sys2Proof.Machine
end

section
/-! SUPPORT. The header of a flit (R217), and what sent flits say of their FTYPE. -/

namespace Sys2Proof.Machine

variable {s : State}

/-! ### Ports as a map -/

/-- A port written reads back. -/
theorem State.port_setPort_same (p : Nat) (v : Port) (h : mapWf portDefault s.ports = true) : (s.setPort p v).port p = v :=
  mapGet_mapSet_same h

/-! ### The header of a flit (Table 09-5) -/

/-- A number at the head of a byte string reads back. -/
theorem fieldAt_leBytes_append (n v : Nat) (bs : List Byte) : fieldAt (leBytes n v ++ bs) 0 n = v % 2 ^ (8 * n) := by
  have htake : (leBytes n v ++ bs).take n = leBytes n v := List.take_left' (leBytes_length n v)
  simp [fieldAt, slice, htake, ofLe_leBytes]

/-- FTYPE of a flit that the port sends: the counter number that it reports stands right below, in five bits (R223). -/
theorem State.flit_ftype (p seq ftype : Nat) {nslots : Nat} (payload : List Byte) (hslots : nslots < 16) :
    bitsOf (fieldAt (s.flit p seq ftype nslots payload) 0 8) 39 37 = (ftype + (s.port p).crNext / 32) % 8 := by
  simp only [State.flit, List.append_assoc, fieldAt_leBytes_append, bitsOf]
  omega

/-! ### What sent flits say -/

/-- A framed flit takes nothing out of the outbox. -/
theorem State.mem_frame_outbox {o : Out} (p : Nat) (f : List Byte) (ho : o ∈ s.outbox) : o ∈ (s.frame p f).outbox := by
  simp only [State.frame]
  split
  · exact ho
  · exact List.mem_append_left _ ho

/-- A sent flit is put out. -/
theorem State.flit_mem_sendFlit_outbox (p seq ftype nslots : Nat) (payload : List Byte) :
    Out.flit p (s.flit p seq ftype nslots payload) ∈ (s.sendFlit p seq ftype nslots payload).outbox :=
  State.mem_frame_outbox p _ (List.mem_append_right _ (List.mem_singleton.mpr rfl))

/-- Every flit put out by a state that had put out nothing has the FTYPE that its sends are said to have. -/
theorem State.sends_ftype {t : State} {p q ft n : Nat} {f : List Byte} (h : s.sends t p ft n) (hs : s.outbox = [])
    (hf : Out.flit q f ∈ t.outbox) : bitsOf (fieldAt f 0 8) 39 37 = ft := by
  obtain ⟨os, hout, hall, -⟩ := h
  rw [hout, hs, List.nil_append] at hf
  have hflit := List.all_eq_true.mp hall _ hf
  simp only [Bool.and_eq_true, beq_iff_eq] at hflit
  exact hflit.2

/-- A PARAM flit reads as one only where the port's counter number fits its five bits. -/
theorem State.crNext_of_sends_param {t u : State} {p n : Nat} (h : u.sends t p 3 n) (hu : u.outbox = [])
    (ht : t = s.sendParam p) (hports : mapWf portDefault s.ports = true) : (s.port p).crNext / 32 % 8 = 0 := by
  subst ht
  have hflit := State.flit_mem_sendFlit_outbox (s := s.setPort p { s.port p with paramAt := s.now }) p 0 3 2 (s.paramPayload p)
  have hread := State.sends_ftype h hu hflit
  rw [State.flit_ftype p 0 3 _ (by decide), State.port_setPort_same _ _ hports] at hread
  simp only at hread
  omega

/-! ### A port whose counter number is out of range -/

/-- Port 0 in a state, the credit counter that it reports next numbered 32: the statements bound no such number, where R223's end
at 17. -/
def withCounter32 (st : Nat) : State :=
  { (State.reset.setFld F.FAB_SELF.ENDPOINT 1).setFld F.LNK_PORT_STATE.STATE st with
    ports := [(0, { Port.empty with crNext := 32 })] }

/-- A PARAM flit that reports this counter is none by its header. -/
theorem not_sends_param_of_counter32 {st n : Nat} {t v : State} (ht : t = v.sendParam 0) (hv : mapWf portDefault v.ports = true)
    (hcr : (v.port 0).crNext = 32) : ¬ (withCounter32 st).sends t 0 3 n := fun h => by
  have hfits := State.crNext_of_sends_param h rfl ht hv
  rw [hcr] at hfits
  exact absurd hfits (by decide)

/-- A trained port sends its first PARAM flit from the state that notes the training. -/
def State.noteTrained (s : State) (p : Nat) : State :=
  let s' := s.setPort p { s.port p with peerSeen := false, full := false, resends := 0, trained := s.self == 0xFFFF }
  if s'.self = 0xFFFF then s' else s'.setPortState p 2

/-- A parent port that is lost leaves nothing to report (R266). -/
theorem State.parentLost_ueDue (p : Nat) : (s.parentLost p).ueDue = s.ueDue := by
  unfold State.parentLost
  simp only
  repeat' split
  all_goals rfl

theorem State.setPortState_ueDue (p st : Nat) : (s.setPortState p st).ueDue = s.ueDue := by
  simp only [State.setPortState]
  split
  · exact State.parentLost_ueDue p
  · rfl

theorem State.noteTrained_ueDue (p : Nat) : (s.noteTrained p).ueDue = s.ueDue := by
  simp only [State.noteTrained]
  split
  · rfl
  · exact State.setPortState_ueDue p 2

theorem State.sendParam_link (p : Nat) : LinkStep s (s.sendParam p) :=
  (State.setPort_link _ _).trans (State.sendFlit_link _ _ _ _ _)

theorem State.portTrained_eq (p : Nat) : s.portTrained p = (s.noteTrained p).sendParam p := rfl

/-- A fast retrain that works trains the port (Table 09-6). -/
theorem exec_fastRetrainDone {port : BitVec 5} (hq : s.quiet) (hst : s.portState port.toNat = 3)
    (hfull : (s.port port.toNat).full = false) :
    exec (.fastRetrainDone port true) s = .next ((s.noteTrained port.toNat).sendParam port.toNat) := by
  show execFastRetrainDone port true s = _
  simp only [execFastRetrainDone, hst, hfull, beq_self_eq_true, Bool.not_false, Bool.and_self, Bool.not_true, Bool.false_eq_true, if_false,
    if_true, State.portTrained_eq]
  exact done_of ((State.sendParam_link _).ueDue.trans ((State.noteTrained_ueDue _).trans hq))

/-- An UP port without its peer's PARAM flit sends one (R218). -/
theorem exec_paramPeriodicSend {port : BitVec 5} (hq : s.quiet) (hup : s.isUp port.toNat = true)
    (hseen : (s.port port.toNat).peerSeen = false) : exec (.paramPeriodicSend port) s = .next (s.sendParam port.toNat) := by
  rw [State.isUp] at hup
  show execParamPeriodicSend port s = _
  simp only [execParamPeriodicSend, hup, hseen, Bool.true_or, Bool.not_false, Bool.and_self, if_true]
  exact done_of ((State.sendParam_link _).ueDue.trans hq)

/-- Refutes O30: after a fast retrain that works, port 0 numbers the credit counter of its PARAM flit 32, and the flit's FTYPE
reads 4. -/
theorem not_portsTrainAndDrainsEnd : ¬ Obligations.PortsTrainAndDrainsEnd := by
  unfold Obligations.PortsTrainAndDrainsEnd
  intro h
  obtain ⟨-, -, -, -, hfast, -⟩ := h.1 (withCounter32 3) 0 .host (by decide +kernel) rfl (by decide +kernel)
  obtain ⟨t, hexec, -, -, -, -, hsends⟩ := hfast (by decide +kernel) (by decide +kernel) (by decide +kernel)
  have hrun : exec (.fastRetrainDone 0 true) (withCounter32 3) = .next (((withCounter32 3).noteTrained 0).sendParam 0) :=
    exec_fastRetrainDone rfl (by decide +kernel) (by decide +kernel)
  exact not_sends_param_of_counter32 (Host.Outcome.next.inj (hexec.symm.trans hrun)) (by decide +kernel) (by decide +kernel)
    hsends

/-- Refutes O31: port 0, UP and without its peer's PARAM flit, numbers the credit counter of the PARAM flit that is due 32, and
the flit's FTYPE reads 4. -/
theorem not_flitsAreAnswered : ¬ Obligations.FlitsAreAnswered := by
  unfold Obligations.FlitsAreAnswered
  intro h
  obtain ⟨-, -, -, -, -, -, hparam⟩ := h (withCounter32 2) 0 [] false (by decide +kernel) rfl (by decide +kernel) (by decide +kernel)
    (by decide +kernel) (by decide +kernel)
  obtain ⟨t, hexec, -, -, hsends⟩ := hparam (.inl (by decide +kernel))
  have hrun : exec (.paramPeriodicSend 0) (withCounter32 2) = .next ((withCounter32 2).sendParam 0) :=
    exec_paramPeriodicSend rfl (by decide +kernel) (by decide +kernel)
  exact not_sends_param_of_counter32 (Host.Outcome.next.inj (hexec.symm.trans hrun)) (by decide +kernel) (by decide +kernel)
    hsends

end Sys2Proof.Machine
end

section
/-! SUPPORT. Commits (R310): the write of a GO bit, staged values that are taken, and those that are refused. -/

namespace Sys2Proof.Machine

variable {s : State}

/-! ### A GO bit written -/

/-- No field of the register keeps a written value, and bit 0 is a field: a GO register. -/
abbrev RegDesc.GoOnly (d : RegDesc) : Prop :=
  d.mask .rw = 0 ∧ d.mask .rws = 0 ∧ d.mask .w1c = 0 ∧ 1 &&& d.defined = 1

/-- A write of 1 to a GO register stores nothing and does what its GO bit starts (R9, R310). -/
theorem State.write64_go (src : Source) {off : Nat} {d : RegDesc} {t : State} (hd : d.GoOnly) (hopen : s.opens off)
    (hoff : off % 8 = 0) (hlt : off < stagedView) (hdesc : s.descAt off = some d) (hunit : s.unitFor off = 0)
    (hrange : s.outOfRange src off 1 = false)
    (hact : s.regAct src off 0 (BitVec.allOnes 64) 1 (s.reg off 0) 1 = if wordGet 1 0 0 == 1 then t else s) :
    s.write64 src off 1 = t := by
  obtain ⟨hrw, hrws, hw1c, hdefined⟩ := hd
  have hmerged : s.merged d off 0 (BitVec.allOnes 64) 1 = 1 := by
    simpa [State.merged, hrw, hrws] using hdefined
  rw [State.write64_of_open src 1 hopen hoff hlt hdesc]
  simp only [State.writeWord, hunit, hmerged, hrange, Bool.false_eq_true, if_false,
    State.storeFields_of_no_stored off 0 _ _ hrw hrws hw1c, hact]
  exact if_pos (by decide)

/-- HIF_COMMIT, PWR_COMMIT and MGT_TEL_COMMIT: REFUSED and GO. -/
def commitDesc (off : Nat) : RegDesc := ⟨off, 0, [⟨1, 1, .ro, false⟩, ⟨0, 0, .wo, false⟩]⟩

/-- LNK_COMMIT: STATUS and GO (Table 09-12). -/
def lnkCommitDesc : RegDesc := ⟨R.LNK_COMMIT, 0, [⟨63, 48, .ro, true⟩, ⟨0, 0, .wo, false⟩]⟩

section
variable (src : Source)

theorem exec_hifCommit (hopen : s.opens R.HIF_COMMIT) : exec (.hifCommit src 1) s = done s.hifCommit := by
  have hact (old : Word64) : s.regAct src R.HIF_COMMIT 0 (BitVec.allOnes 64) 1 old 1
      = if wordGet 1 0 0 == 1 then s.hifCommit else s := by
    rw [State.regAct, if_neg (by decide), if_pos rfl]
  exact congrArg done
    (State.write64_go src (d := commitDesc R.HIF_COMMIT) (by decide) hopen rfl (by decide) rfl rfl rfl (hact _))

theorem exec_pwrCommit (hopen : s.opens R.PWR_COMMIT) : exec (.pwrCommit src 1) s = done s.pwrCommit :=
  congrArg done (State.write64_go src (d := commitDesc R.PWR_COMMIT) (by decide) hopen rfl (by decide) rfl rfl rfl rfl)

theorem exec_mgtTelCommit (hopen : s.opens R.MGT_TEL_COMMIT) : exec (.mgtTelCommit src 1) s = done s.telCommit :=
  congrArg done (State.write64_go src (d := commitDesc R.MGT_TEL_COMMIT) (by decide) hopen rfl (by decide) rfl rfl rfl rfl)

theorem exec_lnkCommit (hopen : s.opens R.LNK_COMMIT) : exec (.lnkCommit src 1) s = done s.lnkCommit :=
  congrArg done (State.write64_go src (d := lnkCommitDesc) (by decide) hopen rfl (by decide) rfl rfl rfl rfl)

end

/-! ### A commit that is refused -/

/-- A refused commit: shown in a field, and counted. -/
def State.showRefused (s : State) (f : Fld) (v : Nat) : State := (s.setFld f v).commitRefused

theorem State.showRefused_frame (f : Fld) (v : Nat) : (s.showRefused f v).mem = s.mem ∧ (s.showRefused f v).ueDue = s.ueDue :=
  ⟨rfl, rfl⟩

section
variable {f : Fld} (v : Nat) (hregs : mapWf regReset s.regs = true) (hoff : f.off < 0x4000000)
include hregs hoff

/-- The field shows the refusal, which is counted. -/
theorem State.showRefused_shown (hne : f.off ≠ F.ERR_STATS.REFUSED_COMMITS.off) (hhi : f.hi < 64) :
    (s.showRefused f v).fld f = v % 2 ^ (f.hi + 1 - f.lo)
    ∧ s.counted (s.showRefused f v) F.ERR_STATS.REFUSED_COMMITS := by
  have hshown := State.setFld_wf f v 0 hregs
  constructor
  · exact (State.fld_count_other 1 hshown (keyOf_ne hoff (by decide) hne)).trans (State.fld_setFld_same f v 0 hregs hhi)
  · refine (State.fld_count_same F.ERR_STATS.REFUSED_COMMITS 0 1 hshown (by decide)).trans ?_
    rw [State.fld_setFld_other v hregs (keyOf_ne (by decide) hoff hne.symm)]
    rfl

/-- Every other register stays. -/
theorem State.reg_showRefused {off : Nat} (u : Nat) (ho : off < 0x4000000) (hf : off ≠ f.off)
    (hstats : off ≠ F.ERR_STATS.REFUSED_COMMITS.off) : (s.showRefused f v).reg off u = s.reg off u :=
  (State.reg_count_other 1 (State.setFld_wf f v 0 hregs) (keyOf_ne ho (by decide) hstats)).trans
    (State.reg_setReg_other _ hregs (keyOf_ne ho hoff hf))

end

/-! ### Staged values that are taken -/

@[simp] theorem State.hold_staged (off u : Nat) : (s.hold off u).staged = s.staged := by
  obtain ⟨h, e⟩ := s.hold_cases off u; rw [e]
@[simp] theorem State.hold_heldStage (off u : Nat) : (s.hold off u).heldStage = s.heldStage := by
  obtain ⟨h, e⟩ := s.hold_cases off u; rw [e]

/-- A field's change leaves the words of other registers. -/
theorem State.reg_setFld_other {f : Fld} (v : Nat) {u off u' : Nat} (h : mapWf regReset s.regs = true)
    (hk : keyOf off u' ≠ keyOf f.off u) : (s.setFld f v u).reg off u' = s.reg off u' := State.reg_setReg_other _ h hk

/-- The window that HIF_COMMIT takes (R355). -/
def State.hifTaken (s : State) : State :=
  ((((s.hold R.HIF_HWIN_BASE 0).hold R.HIF_HWIN_SIZE 0).setReg R.HIF_HWIN_BASE 0 (s.stgOld R.HIF_HWIN_BASE)).setReg
    R.HIF_HWIN_SIZE 0 (s.stgOld R.HIF_HWIN_SIZE)).setFld F.HIF_COMMIT.REFUSED 0

/-- The check of R355: the size, and the end of the window. -/
abbrev HostWindowOk (b z : Word64) : Prop :=
  wordGet z 51 21 * 2 ^ 21 ≤ 2 ^ 44 ∧ wordGet b 51 21 * 2 ^ 21 + wordGet z 51 21 * 2 ^ 21 ≤ 2 ^ 52

theorem State.hifCommit_eq : s.hifCommit =
    if HostWindowOk (s.stgOld R.HIF_HWIN_BASE) (s.stgOld R.HIF_HWIN_SIZE) then s.hifTaken
    else s.showRefused F.HIF_COMMIT.REFUSED 1 := by
  simp only [State.hifCommit, Bool.and_eq_true, decide_eq_true_eq]
  rfl

theorem State.hifTaken_frame : s.hifTaken.mem = s.mem ∧ s.hifTaken.ueDue = s.ueDue :=
  ⟨(State.hold_mem _ _).trans (State.hold_mem _ _), (State.hold_ueDue _ _).trans (State.hold_ueDue _ _)⟩

theorem State.hifTaken_regs (hregs : mapWf regReset s.regs = true) :
    s.hifTaken.reg R.HIF_HWIN_BASE = s.stgOld R.HIF_HWIN_BASE ∧ s.hifTaken.reg R.HIF_HWIN_SIZE = s.stgOld R.HIF_HWIN_SIZE
      ∧ s.hifTaken.fld F.HIF_COMMIT.REFUSED = 0 := by
  have hheld : mapWf regReset ((s.hold R.HIF_HWIN_BASE 0).hold R.HIF_HWIN_SIZE 0).regs = true := by simpa using hregs
  have hbase := State.setReg_wf R.HIF_HWIN_BASE 0 (s.stgOld R.HIF_HWIN_BASE) hheld
  have hsize := State.setReg_wf R.HIF_HWIN_SIZE 0 (s.stgOld R.HIF_HWIN_SIZE) hbase
  refine ⟨?_, ?_, State.fld_setFld_same _ _ _ hsize (by decide)⟩
  · rw [State.hifTaken, State.reg_setFld_other _ hsize (by decide), State.reg_setReg_other _ hbase (by decide),
      State.reg_setReg_same _ _ _ hheld]
  · rw [State.hifTaken, State.reg_setFld_other _ hsize (by decide), State.reg_setReg_same _ _ _ hbase]

/-- The limits that PWR_COMMIT takes (R380). -/
def State.pwrTaken (s : State) : State :=
  ((s.hold R.PWR_TJ 0).setReg R.PWR_TJ 0 (s.stgOld R.PWR_TJ)).setFld F.PWR_COMMIT.REFUSED 0

/-- The check of R380: both limits in range, pacing five degrees below the stop. -/
abbrev JunctionLimitsOk (w : Word64) : Prop :=
  80 ≤ wordGet w 15 8 ∧ wordGet w 15 8 ≤ 110 ∧ 90 ≤ wordGet w 23 16 ∧ wordGet w 23 16 ≤ 120
    ∧ wordGet w 15 8 + 5 ≤ wordGet w 23 16

theorem State.pwrCommit_eq : s.pwrCommit =
    if JunctionLimitsOk (s.stgOld R.PWR_TJ) then s.pwrTaken else s.showRefused F.PWR_COMMIT.REFUSED 1 := by
  simp only [State.pwrCommit, Bool.and_eq_true, decide_eq_true_eq, and_assoc]
  rfl

theorem State.pwrTaken_frame : s.pwrTaken.mem = s.mem ∧ s.pwrTaken.ueDue = s.ueDue :=
  ⟨State.hold_mem _ _, State.hold_ueDue _ _⟩

theorem State.pwrTaken_regs (hregs : mapWf regReset s.regs = true) :
    s.pwrTaken.reg R.PWR_TJ = s.stgOld R.PWR_TJ ∧ s.pwrTaken.fld F.PWR_COMMIT.REFUSED = 0 := by
  have hheld : mapWf regReset (s.hold R.PWR_TJ 0).regs = true := by simpa using hregs
  have hset := State.setReg_wf R.PWR_TJ 0 (s.stgOld R.PWR_TJ) hheld
  refine ⟨?_, State.fld_setFld_same _ _ _ hset (by decide)⟩
  rw [State.pwrTaken, State.reg_setFld_other _ hset (by decide), State.reg_setReg_same _ _ _ hheld]

/-- ENTRIES as it is staged (Table 16-21). -/
def State.telEntries (s : State) : Nat := wordGet (s.stgOld R.MGT_TEL_CFG) F.MGT_TEL_CFG.ENTRIES.hi F.MGT_TEL_CFG.ENTRIES.lo

/-- The ring that MGT_TEL_COMMIT takes (R384). -/
def State.telTaken (s : State) : State :=
  ((((s.hold R.MGT_TEL_BASE 0).hold R.MGT_TEL_CFG 0).setReg R.MGT_TEL_BASE 0 (s.stgOld R.MGT_TEL_BASE)).setFld
    F.MGT_TEL_CFG.ENTRIES s.telEntries).setFld F.MGT_TEL_COMMIT.REFUSED 0

/-- The check of R384: an aligned ring of this package, in one place. -/
abbrev State.TelemetryRingOk (s : State) : Prop :=
  (s.stgOld R.MGT_TEL_BASE).toNat % 256 = 0 ∧ s.isSelf (s.stgOld R.MGT_TEL_BASE).toNat = true
    ∧ s.telPlace (offOf (s.stgOld R.MGT_TEL_BASE).toNat) (256 * s.telEntries) = true

theorem State.telCommit_eq : s.telCommit =
    if s.TelemetryRingOk then s.telTaken else s.showRefused F.MGT_TEL_COMMIT.REFUSED 1 := by
  simp only [State.telCommit, Bool.and_eq_true, decide_eq_true_eq, and_assoc]
  rfl

theorem State.telTaken_frame : s.telTaken.mem = s.mem ∧ s.telTaken.ueDue = s.ueDue :=
  ⟨(State.hold_mem _ _).trans (State.hold_mem _ _), (State.hold_ueDue _ _).trans (State.hold_ueDue _ _)⟩

theorem State.telTaken_regs (hregs : mapWf regReset s.regs = true) :
    s.telTaken.reg R.MGT_TEL_BASE = s.stgOld R.MGT_TEL_BASE ∧ s.telTaken.fld F.MGT_TEL_CFG.ENTRIES = s.telEntries
      ∧ s.telTaken.fld F.MGT_TEL_COMMIT.REFUSED = 0 := by
  have hheld : mapWf regReset ((s.hold R.MGT_TEL_BASE 0).hold R.MGT_TEL_CFG 0).regs = true := by simpa using hregs
  have hbase := State.setReg_wf R.MGT_TEL_BASE 0 (s.stgOld R.MGT_TEL_BASE) hheld
  have hcfg := State.setFld_wf F.MGT_TEL_CFG.ENTRIES s.telEntries 0 hbase
  refine ⟨?_, ?_, State.fld_setFld_same _ _ _ hcfg (by decide)⟩
  · rw [State.telTaken, State.reg_setFld_other _ hcfg (by decide), State.reg_setFld_other _ hbase (by decide),
      State.reg_setReg_same _ _ _ hheld]
  · rw [State.telTaken, State.fld_setFld_other _ hcfg (by decide), State.fld_setFld_same _ _ _ hbase (by decide)]
    exact Nat.mod_eq_of_lt (Nat.mod_lt _ (by decide))

end Sys2Proof.Machine
end

section
/-! SUPPORT. The commit of the job tags and the endpoint ID (R236): what each entry's operation changes, and what it leaves. -/

namespace Sys2Proof.Machine

variable {s : State}

/-- The staged operation of an entry is read from the staged words alone. -/
theorem State.stgTag_congr {t : State} {i : Nat} (hheld : t.heldStage = s.heldStage)
    (hstg : ∀ off, off < 0x4000000 → t.stg off i = s.stg off i) : t.stgTag i = s.stgTag i := by
  simp only [State.stgTag, State.stgOld, hheld, hstg R.LNK_TAG_ENTRY (by decide), hstg R.LNK_TAG_PORTS (by decide)]

/-! ### What the operations of some entries leave alone -/

/-- t differs from s, as far as a commit goes on to look, in the registers and staged words of these units at most. -/
structure UnitStep (is : List Nat) (s t : State) : Prop where
  mem : t.mem = s.mem
  ueDue : t.ueDue = s.ueDue
  heldStage : t.heldStage = s.heldStage
  regsWf : mapWf regReset s.regs = true → mapWf regReset t.regs = true
  stagedWf : mapWf regReset s.staged = true → mapWf regReset t.staged = true
  reg : mapWf regReset s.regs = true → ∀ off i, off < 0x4000000 → i ∉ is → t.reg off i = s.reg off i
  stg : mapWf regReset s.staged = true → ∀ off i, off < 0x4000000 → i ∉ is → t.stg off i = s.stg off i

namespace UnitStep

theorem refl (is : List Nat) (s : State) : UnitStep is s s :=
  ⟨rfl, rfl, rfl, id, id, fun _ _ _ _ _ => rfl, fun _ _ _ _ _ => rfl⟩

theorem trans {is : List Nat} {s t u : State} (h1 : UnitStep is s t) (h2 : UnitStep is t u) : UnitStep is s u where
  mem := h2.mem.trans h1.mem
  ueDue := h2.ueDue.trans h1.ueDue
  heldStage := h2.heldStage.trans h1.heldStage
  regsWf := h2.regsWf ∘ h1.regsWf
  stagedWf := h2.stagedWf ∘ h1.stagedWf
  reg hr off i ho hi := (h2.reg (h1.regsWf hr) off i ho hi).trans (h1.reg hr off i ho hi)
  stg hs off i ho hi := (h2.stg (h1.stagedWf hs) off i ho hi).trans (h1.stg hs off i ho hi)

/-- What leaves more units leaves these. -/
theorem mono {is js : List Nat} {s t : State} (hsub : is ⊆ js) (h : UnitStep is s t) : UnitStep js s t :=
  { h with
    reg := fun hr off i ho hi => h.reg hr off i ho fun hin => hi (hsub hin)
    stg := fun hs off i ho hi => h.stg hs off i ho fun hin => hi (hsub hin) }

/-- A unit left alone has its staged operation. -/
theorem stgTag {is : List Nat} {s t : State} (h : UnitStep is s t) (hs : mapWf regReset s.staged = true) {i : Nat} (hi : i ∉ is) :
    t.stgTag i = s.stgTag i := State.stgTag_congr h.heldStage fun off ho => h.stg hs off i ho hi

end UnitStep

section
variable {i : Nat}

theorem State.hold_unit (off : Nat) : UnitStep [i] s (s.hold off i) := by
  obtain ⟨h, e⟩ := s.hold_cases off i
  rw [e]
  exact ⟨rfl, rfl, rfl, id, id, fun _ _ _ _ _ => rfl, fun _ _ _ _ _ => rfl⟩

theorem State.setFld_unit (f : Fld) (v : Nat) (hf : f.off < 0x4000000) : UnitStep [i] s (s.setFld f v i) where
  mem := rfl
  ueDue := rfl
  heldStage := rfl
  regsWf := State.setFld_wf f v i
  stagedWf := id
  reg hr _ _ ho hj := State.reg_setFld_other v hr fun hk => hj (List.mem_singleton.mpr (keyOf_inj ho hf hk).2)
  stg _ _ _ _ _ := rfl

theorem State.restage_unit (off : Nat) (ho : off < 0x4000000) : UnitStep [i] s (s.restage off i) := by
  unfold State.restage
  split
  · exact UnitStep.refl _ s
  · exact ⟨rfl, rfl, rfl, id, mapWf_mapSet, fun _ _ _ _ _ => rfl, fun hs _ _ ho' hj =>
      mapGet_mapSet_other hs fun hk => hj (List.mem_singleton.mpr (keyOf_inj ho' ho hk).2)⟩

/-- A restaged entry keeps its registers. -/
theorem State.restage_regs (off : Nat) : (s.restage off i).regs = s.regs := by
  unfold State.restage
  split <;> rfl

end

/-! ### One entry's operation (R236, R237) -/

/-- The words of an entry kept for their tick, where its operation changes them (R310). -/
def State.holdTag (s : State) (i op : Nat) : State :=
  if op = 0 then s else (s.hold R.LNK_TAG_ENTRY i).hold R.LNK_TAG_PORTS i

/-- An entry's register of an installed tag: its number, LOCAL, ACTIVE (Table 09-14). -/
def State.activateEntry (s : State) (i : Nat) (local_ : Bool) (tag : Nat) : State :=
  ((s.setFld F.LNK_TAG_ENTRY.TAG tag i).setFld F.LNK_TAG_ENTRY.LOCAL (b2n local_) i).setFld F.LNK_TAG_ENTRY.STATE 1 i

/-- An installed entry with its ports and its tick (Tables 09-15, 09-16). -/
def State.installTag (s : State) (i : Nat) (local_ : Bool) (tag ports : Nat) : State :=
  ((s.activateEntry i local_ tag).setFld F.LNK_TAG_PORTS.PORTS ports i).setFld F.LNK_TAG_TIME.TICK s.now i

/-- A LOCAL installation measured, its poison state new (R305, R364). -/
def State.measureTag (s : State) (tag : Nat) : State :=
  { s.extendMr 6 (pad64 (leBytes 2 tag ++ leBytes 2 s.self ++ leBytes 8 s.now)) with poisonMet := false, origins := [] }

/-- A revoked entry: DRAINING for 2^20 ticks (R237). -/
def State.revokeTag (s : State) (i : Nat) : State :=
  (s.setFld F.LNK_TAG_ENTRY.STATE 2 i).setFld F.LNK_TAG_TIME.TICK (s.now + 2 ^ 20) i

/-- The operation of an entry on the state that has kept its words. -/
def State.operateTag (s : State) (i : Nat) (o : Nat × Bool × Nat × Nat) : State :=
  if o.1 = 1 then
    let t := s.installTag i o.2.1 o.2.2.1 o.2.2.2
    if o.2.1 then t.measureTag o.2.2.1 else t
  else if o.1 = 2 then s.revokeTag i
  else s

theorem applyTag_eq (s : State) (i : Nat) : applyTag s i
    = (((s.holdTag i (s.stgTag i).1).operateTag i (s.stgTag i)).restage R.LNK_TAG_ENTRY i).restage R.LNK_TAG_PORTS i := by
  unfold applyTag
  obtain ⟨op, local_, tag, ports⟩ := s.stgTag i
  rfl

section
variable (i : Nat)

theorem State.holdTag_unit (op : Nat) : UnitStep [i] s (s.holdTag i op) := by
  unfold State.holdTag
  split
  · exact UnitStep.refl _ s
  · exact (State.hold_unit _).trans (State.hold_unit _)

theorem State.holdTag_regs (op : Nat) : (s.holdTag i op).regs = s.regs := by
  unfold State.holdTag
  split
  · rfl
  · exact (State.hold_regs _ _).trans (State.hold_regs _ _)

theorem State.measureTag_unit (tag : Nat) : UnitStep [i] s (s.measureTag tag) :=
  ⟨rfl, rfl, rfl, id, id, fun _ _ _ _ _ => rfl, fun _ _ _ _ _ => rfl⟩

theorem State.installTag_unit (local_ : Bool) (tag ports : Nat) : UnitStep [i] s (s.installTag i local_ tag ports) :=
  (((State.setFld_unit F.LNK_TAG_ENTRY.TAG tag (by decide)).trans
    (State.setFld_unit F.LNK_TAG_ENTRY.LOCAL (b2n local_) (by decide))).trans
    (State.setFld_unit F.LNK_TAG_ENTRY.STATE 1 (by decide))).trans
    ((State.setFld_unit F.LNK_TAG_PORTS.PORTS ports (by decide)).trans (State.setFld_unit F.LNK_TAG_TIME.TICK s.now (by decide)))

theorem State.revokeTag_unit : UnitStep [i] s (s.revokeTag i) :=
  (State.setFld_unit F.LNK_TAG_ENTRY.STATE 2 (by decide)).trans
    (State.setFld_unit F.LNK_TAG_TIME.TICK (s.now + 2 ^ 20) (by decide))

theorem State.operateTag_unit (o : Nat × Bool × Nat × Nat) : UnitStep [i] s (s.operateTag i o) := by
  have hinstall := State.installTag_unit (s := s) i o.2.1 o.2.2.1 o.2.2.2
  simp only [State.operateTag]
  split
  · split
    · exact hinstall.trans (State.measureTag_unit i _)
    · exact hinstall
  · split
    · exact State.revokeTag_unit i
    · exact UnitStep.refl _ s

/-- An entry's operation leaves every other entry. -/
theorem applyTag_unit (s : State) : UnitStep [i] s (applyTag s i) := by
  rw [applyTag_eq]
  exact (((State.holdTag_unit i _).trans (State.operateTag_unit i _)).trans (State.restage_unit R.LNK_TAG_ENTRY (by decide))).trans
    (State.restage_unit R.LNK_TAG_PORTS (by decide))

end

/-- The entry shows the installation of a tag over some ports. -/
def State.tagInstalled (t : State) (i tag ports : Nat) : Prop :=
  t.fld F.LNK_TAG_ENTRY.STATE i = 1 ∧ t.fld F.LNK_TAG_ENTRY.TAG i = tag ∧ t.fld F.LNK_TAG_PORTS.PORTS i = ports

/-- Entries are told by their two registers. -/
theorem State.tagInstalled_congr {t u : State} {i tag ports : Nat} (hentry : u.reg R.LNK_TAG_ENTRY i = t.reg R.LNK_TAG_ENTRY i)
    (hports : u.reg R.LNK_TAG_PORTS i = t.reg R.LNK_TAG_PORTS i) (ht : t.tagInstalled i tag ports) :
    u.tagInstalled i tag ports := by
  simpa only [State.tagInstalled, State.fld, hentry, hports] using ht

section
variable (i : Nat) (local_ : Bool) {tag : Nat} (hregs : mapWf regReset s.regs = true)
include hregs

theorem State.activateEntry_wf : mapWf regReset (s.activateEntry i local_ tag).regs = true :=
  State.setFld_wf _ _ i (State.setFld_wf _ _ i (State.setFld_wf _ _ i hregs))

theorem State.activateEntry_fields (htag : tag < 2 ^ 16) : (s.activateEntry i local_ tag).fld F.LNK_TAG_ENTRY.STATE i = 1
    ∧ (s.activateEntry i local_ tag).fld F.LNK_TAG_ENTRY.TAG i = tag := by
  have htagWf := State.setFld_wf F.LNK_TAG_ENTRY.TAG tag i hregs
  have hlocalWf := State.setFld_wf F.LNK_TAG_ENTRY.LOCAL (b2n local_) i htagWf
  refine ⟨State.fld_setFld_same F.LNK_TAG_ENTRY.STATE 1 i hlocalWf (by decide), ?_⟩
  rw [State.activateEntry, State.fld_setFld_apart _ _ hlocalWf (by rfl) (by decide) (by decide),
    State.fld_setFld_apart _ _ htagWf (by rfl) (by decide) (by decide)]
  exact (State.fld_setFld_same _ _ _ hregs (by decide)).trans (Nat.mod_eq_of_lt htag)

theorem State.installTag_installed {ports : Nat} (htag : tag < 2 ^ 16) (hports : ports < 2 ^ 32) :
    (s.installTag i local_ tag ports).tagInstalled i tag ports := by
  have hentryWf := State.activateEntry_wf i local_ (tag := tag) hregs
  have hportsWf := State.setFld_wf F.LNK_TAG_PORTS.PORTS ports i hentryWf
  have hentry : (s.installTag i local_ tag ports).reg R.LNK_TAG_ENTRY i = (s.activateEntry i local_ tag).reg R.LNK_TAG_ENTRY i := by
    rw [State.installTag, State.reg_setFld_other _ hportsWf (keyOf_ne (by decide) (by decide) (by decide)),
      State.reg_setFld_other _ hentryWf (keyOf_ne (by decide) (by decide) (by decide))]
  obtain ⟨hstate, hnumber⟩ := State.activateEntry_fields i local_ hregs htag
  refine ⟨?_, ?_, ?_⟩
  · rw [State.fld, hentry]; exact hstate
  · rw [State.fld, hentry]; exact hnumber
  · rw [State.installTag, State.fld_setFld_other _ hportsWf (keyOf_ne (by decide) (by decide) (by decide))]
    exact (State.fld_setFld_same _ _ _ hentryWf (by decide)).trans (Nat.mod_eq_of_lt hports)

end

/-- An entry whose staged operation is INSTALL is installed (R236). -/
theorem applyTag_installed {i : Nat} (hregs : mapWf regReset s.regs = true) (hop : (s.stgTag i).1 = 1) :
    (applyTag s i).tagInstalled i (s.stgTag i).2.2.1 (s.stgTag i).2.2.2 := by
  have hheld : mapWf regReset (s.holdTag i 1).regs = true := by rw [State.holdTag_regs]; exact hregs
  have hinstalled := State.installTag_installed (s := s.holdTag i 1) i (s.stgTag i).2.1 (tag := (s.stgTag i).2.2.1)
    (ports := (s.stgTag i).2.2.2) hheld (Nat.mod_lt _ (by decide)) (Nat.mod_lt _ (by decide))
  have hregsEq : (applyTag s i).regs
      = ((s.holdTag i 1).installTag i (s.stgTag i).2.1 (s.stgTag i).2.2.1 (s.stgTag i).2.2.2).regs := by
    rw [applyTag_eq, State.restage_regs, State.restage_regs, hop]
    simp only [State.operateTag, hop, if_true]
    split <;> rfl
  exact State.tagInstalled_congr (State.reg_congr hregsEq _ _) (State.reg_congr hregsEq _ _) hinstalled

/-! ### Every entry's operation -/

theorem foldl_applyTag_unit (is : List Nat) (s : State) : UnitStep is s (is.foldl applyTag s) := by
  induction is generalizing s with
  | nil => exact UnitStep.refl _ s
  | cons i is ih =>
    exact ((applyTag_unit i s).mono (by simp)).trans ((ih (applyTag s i)).mono (by simp))

/-- Each entry's operation is the one staged before the commit: no other entry's changes it. -/
theorem foldl_applyTag_installed {is : List Nat} (hnodup : is.Nodup) (hregs : mapWf regReset s.regs = true)
    (hstaged : mapWf regReset s.staged = true) {i : Nat} (hi : i ∈ is) (hop : (s.stgTag i).1 = 1) :
    (is.foldl applyTag s).tagInstalled i (s.stgTag i).2.2.1 (s.stgTag i).2.2.2 := by
  induction is generalizing s with
  | nil => cases hi
  | cons j is ih =>
    obtain ⟨hj, hnodup⟩ := List.nodup_cons.mp hnodup
    have hstep := applyTag_unit j s
    have hrest := foldl_applyTag_unit is (applyTag s j)
    rcases List.mem_cons.mp hi with rfl | hi
    · exact State.tagInstalled_congr (hrest.reg (hstep.regsWf hregs) _ _ (by decide) hj)
        (hrest.reg (hstep.regsWf hregs) _ _ (by decide) hj) (applyTag_installed hregs hop)
    · have hsame : (applyTag s j).stgTag i = s.stgTag i :=
        hstep.stgTag hstaged fun h => hj (List.mem_singleton.mp h ▸ hi)
      rw [← hsame] at hop ⊢
      exact ih hnodup (hstep.regsWf hregs) (hstep.stagedWf hstaged) hi hop

/-! ### The endpoint ID (R210) -/

/-- The staged group and node taken. -/
def State.idTaken (s : State) : State :=
  ((s.hold R.LNK_ID 0).setFld F.LNK_ID.GROUP (wordGet (s.stgOld R.LNK_ID) 13 6)).setFld F.LNK_ID.NODE
    (wordGet (s.stgOld R.LNK_ID) 5 2)

/-- The endpoint ID that LNK_ID spells. -/
def State.idOf (s : State) : Nat := s.fld F.LNK_ID.GROUP * 64 + s.fld F.LNK_ID.NODE * 4 + s.fld F.LNK_ID.POSITION

/-- The staged endpoint ID is the one the package has. -/
def State.idKept (s : State) : Prop :=
  wordGet (s.stgOld R.LNK_ID) 13 6 * 64 + wordGet (s.stgOld R.LNK_ID) 5 2 * 4 + s.fld F.LNK_ID.POSITION = s.self

section
variable (hregs : mapWf regReset s.regs = true)
include hregs

theorem State.idTaken_wf : mapWf regReset s.idTaken.regs = true :=
  State.setFld_wf _ _ _ (State.setFld_wf _ _ _ (by simpa using hregs))

theorem State.idTaken_self : s.idTaken.self = s.self := by
  have hheld : mapWf regReset (s.hold R.LNK_ID 0).regs = true := by simpa using hregs
  rw [State.self, State.idTaken, State.fld_setFld_other _ (State.setFld_wf _ _ _ hheld) (by decide),
    State.fld_setFld_other _ hheld (by decide), State.fld_congr (State.hold_regs _ _), State.self]

theorem State.idTaken_idOf : s.idTaken.idOf
    = wordGet (s.stgOld R.LNK_ID) 13 6 * 64 + wordGet (s.stgOld R.LNK_ID) 5 2 * 4 + s.fld F.LNK_ID.POSITION := by
  have hheld : mapWf regReset (s.hold R.LNK_ID 0).regs = true := by simpa using hregs
  have hgroupWf := State.setFld_wf F.LNK_ID.GROUP (wordGet (s.stgOld R.LNK_ID) 13 6) 0 hheld
  have hgroup : s.idTaken.fld F.LNK_ID.GROUP = wordGet (s.stgOld R.LNK_ID) 13 6 := by
    rw [State.idTaken, State.fld_setFld_apart _ _ hgroupWf (by rfl) (by decide) (by decide)]
    exact (State.fld_setFld_same _ _ _ hheld (by decide)).trans (Nat.mod_eq_of_lt (Nat.mod_lt _ (by decide)))
  have hnode : s.idTaken.fld F.LNK_ID.NODE = wordGet (s.stgOld R.LNK_ID) 5 2 :=
    (State.fld_setFld_same _ _ _ hgroupWf (by decide)).trans (Nat.mod_eq_of_lt (Nat.mod_lt _ (by decide)))
  have hposition : s.idTaken.fld F.LNK_ID.POSITION = s.fld F.LNK_ID.POSITION := by
    rw [State.idTaken, State.fld_setFld_apart _ _ hgroupWf (by rfl) (by decide) (by decide),
      State.fld_setFld_apart _ _ hheld (by rfl) (by decide) (by decide), State.fld_congr (State.hold_regs _ _)]
  rw [State.idOf, hgroup, hnode, hposition]

/-- A commit that keeps the endpoint ID sends nothing and wires nothing. -/
theorem State.assignId_of_kept (hself : s.self ≠ 0xFFFF) (hid : s.idKept) :
    s.assignId = s.idTaken.setFld F.FAB_SELF.ENDPOINT s.idTaken.idOf := by
  have hsame : s.idTaken.idOf = s.idTaken.self := by
    rw [State.idTaken_idOf hregs, State.idTaken_self hregs]; exact hid
  have hfirst : (s.self == 0xFFFF) = false := beq_false_of_ne hself
  have hchanged : (!(s.idTaken.idOf != s.idTaken.self)) = true := by rw [hsame]; simp
  show (if !(s.idTaken.idOf != s.idTaken.self) then
    (if s.self == 0xFFFF then _ else s.idTaken.setFld F.FAB_SELF.ENDPOINT s.idTaken.idOf) else _) = _
  rw [if_pos hchanged, hfirst]
  rfl

end

/-- A commit that keeps the endpoint ID changes registers alone. -/
theorem State.assignId_frame (hregs : mapWf regReset s.regs = true) (hself : s.self ≠ 0xFFFF) (hid : s.idKept) :
    s.assignId.mem = s.mem ∧ s.assignId.ueDue = s.ueDue ∧ mapWf regReset s.assignId.regs = true
      ∧ s.assignId.staged = s.staged ∧ s.assignId.heldStage = s.heldStage := by
  rw [State.assignId_of_kept hregs hself hid]
  exact ⟨State.hold_mem _ _, State.hold_ueDue _ _, State.setFld_wf _ _ _ (State.idTaken_wf hregs), State.hold_staged _ _,
    State.hold_heldStage _ _⟩

/-! ### The commit (R236) -/

/-- The tags and the endpoint ID that LNK_COMMIT takes. -/
def State.lnkTaken (s : State) : State :=
  ((List.range 64).foldl applyTag s.assignId).setFld F.LNK_COMMIT.STATUS ST.OK.toNat

theorem State.lnkCommit_eq : s.lnkCommit =
    if s.tagChecks = ST.OK then s.lnkTaken else s.showRefused F.LNK_COMMIT.STATUS s.tagChecks.toNat := by
  simp only [State.lnkCommit, bne_iff_ne, ite_not]
  rfl

section
variable (hregs : mapWf regReset s.regs = true) (hself : s.self ≠ 0xFFFF) (hid : s.idKept)
include hregs hself hid

/-- A commit that keeps the endpoint ID touches no memory, leaves nothing to report and answers ST_OK. -/
theorem State.lnkTaken_frame : s.lnkTaken.mem = s.mem ∧ s.lnkTaken.ueDue = s.ueDue
    ∧ s.lnkTaken.fld F.LNK_COMMIT.STATUS = ST.OK.toNat := by
  obtain ⟨hmem, hdue, hwf, -, -⟩ := State.assignId_frame hregs hself hid
  have htags := foldl_applyTag_unit (List.range 64) s.assignId
  rw [State.lnkTaken, State.setFld_mem, State.setFld_ueDue]
  exact ⟨htags.mem.trans hmem, htags.ueDue.trans hdue,
    State.fld_setFld_same F.LNK_COMMIT.STATUS ST.OK.toNat 0 (htags.regsWf hwf) (by decide)⟩

/-- Every entry that was staged to be installed is. -/
theorem State.lnkTaken_installed (hstaged : mapWf regReset s.staged = true) {i : Nat} (hi : i < 64) (hop : (s.stgTag i).1 = 1) :
    s.lnkTaken.tagInstalled i (s.stgTag i).2.2.1 (s.stgTag i).2.2.2 := by
  obtain ⟨-, -, hwf, hstg, hheld⟩ := State.assignId_frame hregs hself hid
  have hsame : s.assignId.stgTag i = s.stgTag i :=
    State.stgTag_congr hheld fun _ _ => by rw [State.stg, hstg, State.stg]
  have hall := foldl_applyTag_installed (s := s.assignId) (i := i) List.nodup_range hwf (hstg ▸ hstaged) (List.mem_range.mpr hi)
    (by rw [hsame]; exact hop)
  rw [hsame] at hall
  have hafter := (foldl_applyTag_unit (List.range 64) s.assignId).regsWf hwf
  exact State.tagInstalled_congr (State.reg_setFld_other _ hafter (keyOf_ne (by decide) (by decide) (by decide)))
    (State.reg_setFld_other _ hafter (keyOf_ne (by decide) (by decide) (by decide))) hall

end

/-- A command that ends in one of two states, each with memory as it stands, answers the one that its check tells. -/
theorem exists_next_of_ite {good : Prop} [Decidable good] {t u : State} {e : Host.Outcome State Fault Refusal}
    {P Q : State → Prop} (hexec : e = done (if good then t else u)) (hq : s.quiet) (ht : t.mem = s.mem ∧ t.ueDue = s.ueDue)
    (hu : u.mem = s.mem ∧ u.ueDue = s.ueDue) (hP : P t) (hQ : Q u) :
    ∃ v, e = .next v ∧ v.mem = s.mem ∧ (good → P v) ∧ (¬ good → Q v) := by
  by_cases hgood : good
  · rw [if_pos hgood] at hexec
    exact ⟨t, hexec.trans (done_of (ht.2.trans hq)), ht.1, fun _ => hP, fun hbad => absurd hgood hbad⟩
  · rw [if_neg hgood] at hexec
    exact ⟨u, hexec.trans (done_of (hu.2.trans hq)), hu.1, fun h => absurd h hgood, fun _ => hQ⟩

/-- Settles O23: each commit is one of two next states, told apart by its check: the staged values taken, or the refusal shown
and counted. -/
theorem commitsTakeOrKeep : Obligations.CommitsTakeOrKeep := by
  unfold Obligations.CommitsTakeOrKeep
  intro s src hm hq
  obtain ⟨⟨hregs, hstaged⟩, -⟩ := State.mapsCanonical_iff.mp hm
  refine ⟨?_, ?_, ?_, ?_, ?_⟩
  · intro hopen b z good
    have hshown := State.showRefused_shown (f := F.HIF_COMMIT.REFUSED) 1 hregs (by decide) (by decide) (by decide)
    have hkept {off : Nat} := State.reg_showRefused (f := F.HIF_COMMIT.REFUSED) 1 hregs (by decide) (off := off) 0
    exact exists_next_of_ite ((exec_hifCommit src hopen).trans (congrArg done State.hifCommit_eq)) hq State.hifTaken_frame
      (State.showRefused_frame _ _) (State.hifTaken_regs hregs)
      ⟨hkept (by decide) (by decide) (by decide), hkept (by decide) (by decide) (by decide), hshown⟩
  · intro hopen w stop pace good
    have hshown := State.showRefused_shown (f := F.PWR_COMMIT.REFUSED) 1 hregs (by decide) (by decide) (by decide)
    have hkept := State.reg_showRefused (f := F.PWR_COMMIT.REFUSED) 1 hregs (by decide) (off := R.PWR_TJ) 0 (by decide) (by decide)
      (by decide)
    exact exists_next_of_ite ((exec_pwrCommit src hopen).trans (congrArg done State.pwrCommit_eq)) hq State.pwrTaken_frame
      (State.showRefused_frame _ _) (State.pwrTaken_regs hregs) ⟨hkept, hshown⟩
  · intro hopen b n good
    have hshown := State.showRefused_shown (f := F.MGT_TEL_COMMIT.REFUSED) 1 hregs (by decide) (by decide) (by decide)
    have hkept := State.reg_showRefused (f := F.MGT_TEL_COMMIT.REFUSED) 1 hregs (by decide) (off := R.MGT_TEL_BASE) 0 (by decide)
      (by decide) (by decide)
    exact exists_next_of_ite ((exec_mgtTelCommit src hopen).trans (congrArg done State.telCommit_eq)) hq State.telTaken_frame
      (State.showRefused_frame _ _) (State.telTaken_regs hregs) ⟨hkept, hshown⟩
  · intro hopen hbad
    have hexec := exec_lnkCommit src hopen
    rw [State.lnkCommit_eq, if_neg hbad] at hexec
    obtain ⟨hshown, hcounted⟩ := State.showRefused_shown (f := F.LNK_COMMIT.STATUS) s.tagChecks.toNat hregs (by decide)
      (by decide) (by decide)
    have hkept {off : Nat} (u : Nat) := State.reg_showRefused (f := F.LNK_COMMIT.STATUS) s.tagChecks.toNat hregs (by decide)
      (off := off) u
    have hself := hkept (off := F.FAB_SELF.ENDPOINT.off) 0 (by decide) (by decide) (by decide)
    exact ⟨_, hexec.trans (done_of hq), rfl, hshown.trans (Nat.mod_eq_of_lt s.tagChecks.isLt), hcounted,
      congrArg (wordGet · F.FAB_SELF.ENDPOINT.hi F.FAB_SELF.ENDPOINT.lo) hself,
      fun i _ => hkept i (by decide) (by decide) (by decide)⟩
  · intro hopen hgood hself hid
    have hexec := exec_lnkCommit src hopen
    rw [State.lnkCommit_eq, if_pos hgood] at hexec
    obtain ⟨hmem, hdue, hstatus⟩ := State.lnkTaken_frame hregs hself hid
    exact ⟨_, hexec.trans (done_of (hdue.trans hq)), hmem, hstatus,
      fun i hi hop => State.lnkTaken_installed hregs hself hid hstaged hi hop⟩

end Sys2Proof.Machine
end

section
/-! SUPPORT. The end of a transfer (R246, R247): what a home write leaves of the transfers, the completion word, the counters. -/

namespace Sys2Proof.Machine

variable {s : State}

/-! ### What a home write leaves alone (R198) -/

/-- t differs from s, as a home write does, in memory and its marks, in thread states, and in what ports and counters keep. -/
structure WriteStep (s t : State) : Prop where
  eq : t = { s with mem := t.mem, hostMem := t.hostMem, poisoned := t.poisoned, harts := t.harts, ports := t.ports,
                    outbox := t.outbox, regs := t.regs, hw := t.hw, rotNode := t.rotNode, rotGroup := t.rotGroup,
                    traffic := t.traffic }
  marks : s.poisoned = [] → t.poisoned = []

namespace WriteStep

theorem refl (s : State) : WriteStep s s := ⟨rfl, id⟩

theorem trans {s t u : State} (h1 : WriteStep s t) (h2 : WriteStep t u) : WriteStep s u := by
  refine ⟨?_, h2.marks ∘ h1.marks⟩
  rw [h2.eq, h1.eq]

theorem xfers {s t : State} (h : WriteStep s t) : t.xfers = s.xfers := by rw [h.eq]
theorem nextXfer {s t : State} (h : WriteStep s t) : t.nextXfer = s.nextXfer := by rw [h.eq]
theorem fencedCols {s t : State} (h : WriteStep s t) : t.fencedCols = s.fencedCols := by rw [h.eq]
theorem ueDue {s t : State} (h : WriteStep s t) : t.ueDue = s.ueDue := by rw [h.eq]

/-- Clean memory stays clean. -/
theorem clean {s t : State} (h : WriteStep s t) (hc : s.clean) : t.clean := by
  obtain ⟨hpoisoned, hrest⟩ := hc
  refine ⟨h.marks hpoisoned, ?_⟩
  rw [h.eq]
  exact hrest

end WriteStep

theorem LinkStep.writeStep {t : State} (h : LinkStep s t) : WriteStep s t :=
  ⟨by rw [h.eq], fun hp => h.poisoned.trans hp⟩

theorem State.afterWrite_writeStep (a n : Nat) (w : Option Nat) : WriteStep s (s.afterWrite a n w) := by
  unfold State.afterWrite
  split
  · exact WriteStep.refl s
  · exact ⟨rfl, id⟩

theorem State.writeBytes_writeStep (a : Nat) (bs : List Byte) (w : Option Nat) : WriteStep s (s.writeBytes a bs w) := by
  unfold State.writeBytes
  refine WriteStep.trans ?_ ((State.countLines_link _ _ _).writeStep.trans (State.afterWrite_writeStep _ _ _))
  split <;> exact ⟨rfl, fun hp => by simp [hp]⟩

theorem State.homeWrite_writeStep (a : Nat) (bs : List Byte) (w : Option Nat) : WriteStep s (s.homeWrite a bs w) :=
  (State.countHome_link a bs.length).writeStep.trans (State.writeBytes_writeStep a bs w)

/-- In clean memory no write meets a mark (R168, R302). -/
theorem State.poisonParts_of_clean (hc : s.clean) (a n : Nat) : s.poisonParts a n = [] := by
  have hpoisoned : s.poisoned = [] := hc.1
  simp [State.poisonParts, State.stackFenced_of_clean hc, hpoisoned]

/-- In clean memory a unit's number is a home write. -/
theorem State.putNat_of_clean (hc : s.clean) (a v core : Nat) : s.putNat a 8 v core = s.homeWrite a (leBytes 8 v) :=
  State.put_of_clean hc a (List.ne_nil_of_length_pos (by simp)) core

/-- In clean memory a home agent's store is a home write. -/
theorem State.storeAt_of_clean (hc : s.clean) (w : Option Nat) (a : Nat) (bs : List Byte) :
    s.storeAt true w a bs = (s.homeWrite a bs w, []) := by
  simp [State.storeAt, State.poisonParts_of_clean hc, State.agentWrite]

/-- In clean memory no read waits (R166, R169, R316). -/
theorem State.memWaits_of_clean (hc : s.clean) (a n : Nat) : s.memWaits a n = false := by
  have hhold := State.writeHold_of_clean hc a n
  rw [State.writeHold] at hhold
  exact Bool.eq_false_iff.mpr fun hwait => by rw [if_pos hwait] at hhold; cases hhold

/-- What a home write is followed by counts at a collective unit on from the count before the write. -/
theorem State.counted_of_homeWrite {t : State} {f : Fld} {a u : Nat} {bs : List Byte} (hregs : mapWf regReset s.regs = true)
    (hf : f.off = R.COL_UNIT_STATS) (h : (s.homeWrite a bs).counted t f u) : s.counted t f u := by
  have hreg : (s.homeWrite a bs).reg f.off u = s.reg f.off u := by
    rw [hf]
    exact State.homeWrite_reg none hregs a bs u (by decide) (by decide) (by decide) (by decide) (by decide) (by decide)
  rwa [State.counted, State.fld, State.fld, hreg] at h

/-! ### The only transfer of a state -/

/-- An association list of one key with that key set. -/
theorem assocSet_single {α : Type} (k : Nat) (v w : α) : assocSet k v [(k, w)] = [(k, v)] := if_pos rfl

section
variable {id : Nat} {x : Xfer} (hx : s.xfers = [(id, x)])
include hx

theorem State.xfer_of_single : s.xfer id = some x := by rw [State.xfer, hx]; exact if_pos rfl

theorem State.setXfer_of_single (y : Xfer) : s.setXfer id y = { s with xfers := [(id, y)] } := by
  rw [State.setXfer, hx, assocSet_single]

/-- The only transfer leaves, its match entry is freed, and none waits for it. -/
theorem State.removeXfer_of_single : ∃ g, s.removeXfer id = { s with xfers := [], matchGens := g } := by
  have hdrop : s.dropXfer id = { s with xfers := [] } := by simp [State.dropXfer, hx]
  simp only [State.removeXfer, State.xfer_of_single hx, hdrop]
  split
  · exact ⟨_, rfl⟩
  · exact ⟨s.matchGens, rfl⟩

end

/-! ### The end of a transfer (R246, R247) -/

/-- A count leaves the fields beside it. -/
theorem State.fld_count_apart {f g : Fld} (u n : Nat) (hregs : mapWf regReset s.regs = true) (hoff : g.off = f.off)
    (hg : g.hi < 64) (apart : g.hi < f.lo ∨ f.hi < g.lo) : (s.count f u n).fld g u = s.fld g u :=
  State.fld_setFld_apart _ u hregs hoff hg apart

/-- A transfer that ended counted: DONE, and MISMATCH or TIMEOUTS by its status (Table 10-15). -/
def State.endCounted (s : State) (unit : Nat) (st : Half) : State :=
  let s := s.count F.COL_UNIT_STATS.DONE unit
  let s := if st = ST.COLL_MISMATCH then s.count F.COL_UNIT_STATS.MISMATCH unit else s
  if st = ST.TIMEOUT then s.count F.COL_UNIT_STATS.TIMEOUTS unit else s

theorem State.endCounted_step (unit : Nat) (st : Half) : CountStep s (s.endCounted unit st) :=
  ((State.count_step _ _ _).trans (CountStep.ite _ (State.count_step _ _ _) (CountStep.refl _))).trans
    (CountStep.ite _ (State.count_step _ _ _) (CountStep.refl _))

/-- A transfer that ends with ST_TIMEOUT is counted in TIMEOUTS, whatever is counted beside it. -/
theorem State.endCounted_timeouts (unit : Nat) (hregs : mapWf regReset s.regs = true) :
    s.counted (s.endCounted unit ST.TIMEOUT) F.COL_UNIT_STATS.TIMEOUTS unit := by
  have hcount := State.fld_count_same F.COL_UNIT_STATS.TIMEOUTS unit 1 (State.count_wf F.COL_UNIT_STATS.DONE unit 1 hregs)
    (by decide)
  rwa [State.fld_count_apart unit 1 hregs (by rfl) (by decide) (by decide)] at hcount

/-- The completion word of a transfer written at its home, and the end counted. -/
def State.ended (s : State) (x : Xfer) (st : Half) : State :=
  (s.homeWrite x.doneAt (leBytes 8 (completionWord st x.chunks))).endCounted x.unit st

theorem State.ended_frame (x : Xfer) (st : Half) :
    (s.ended x st).mem = (s.homeWrite x.doneAt (leBytes 8 (completionWord st x.chunks))).mem
      ∧ (s.ended x st).xfers = s.xfers ∧ (s.ended x st).ueDue = s.ueDue := by
  have hwrite := State.homeWrite_writeStep (s := s) x.doneAt (leBytes 8 (completionWord st x.chunks)) none
  rw [State.ended, (State.endCounted_step x.unit st).eq]
  exact ⟨rfl, hwrite.xfers, hwrite.ueDue⟩

theorem State.ended_timeouts (x : Xfer) (hregs : mapWf regReset s.regs = true) :
    s.counted (s.ended x ST.TIMEOUT) F.COL_UNIT_STATS.TIMEOUTS x.unit :=
  State.counted_of_homeWrite hregs rfl
    (State.endCounted_timeouts x.unit ((State.homeWrite_homeStep x.doneAt _ none).wf hregs))

section
variable {id : Nat} {x : Xfer} (hc : s.clean) (hx : s.xfers = [(id, x)])
include hc hx

/-- In clean memory the only transfer ends: its completion word is a home write, its end is counted, and it leaves. -/
theorem State.endXfer_of_single (st : Half) :
    ∃ g, s.endXfer id st = { s.ended x st with xfers := [], matchGens := g } := by
  obtain ⟨-, hxfers, -⟩ := State.ended_frame (s := s) x st
  have hend : s.endXfer id st = (s.ended x st).removeXfer id := by
    simp only [State.endXfer, State.xfer_of_single hx, State.putNat_of_clean hc]
    rfl
  rw [hend]
  exact State.removeXfer_of_single (hxfers.trans hx)

theorem State.endXfer_frame (st : Half) : (s.endXfer id st).xfers = []
    ∧ (s.endXfer id st).mem = (s.homeWrite x.doneAt (leBytes 8 (completionWord st x.chunks))).mem
    ∧ (s.endXfer id st).ueDue = s.ueDue := by
  obtain ⟨g, h⟩ := State.endXfer_of_single hc hx st
  obtain ⟨hmem, -, hdue⟩ := State.ended_frame (s := s) x st
  rw [h]
  exact ⟨rfl, hmem, hdue⟩

/-- A transfer that its stopwatch ends is counted at its unit (R247). -/
theorem State.endXfer_timeouts (hregs : mapWf regReset s.regs = true) :
    s.counted (s.endXfer id ST.TIMEOUT) F.COL_UNIT_STATS.TIMEOUTS x.unit := by
  obtain ⟨g, h⟩ := State.endXfer_of_single hc hx ST.TIMEOUT
  rw [State.counted, State.fld_congr (s := s.ended x ST.TIMEOUT) (by rw [h])]
  exact State.ended_timeouts x hregs

end

end Sys2Proof.Machine
end

section
/-! SUPPORT. Control packets of transfers (R245, R251): what each of them does to the SEND or the RECV that it names. -/

namespace Sys2Proof.Machine

variable {s : State}

/-! ### Packets sent and received -/

/-- A control packet leaves by the ports, or is lost. -/
theorem State.sendCtl_link (dest sub : Nat) (payload : List Byte) : LinkStep s (s.sendCtl dest sub payload) := by
  unfold State.sendCtl
  split
  next h => exact State.sendJob_link h
  next => exact LinkStep.refl s

/-- Without tiles in an intake none is offered to a transfer. -/
theorem State.relayPump_of_no_tile (ht : s.tiles = []) (unit : Nat) : s.relayPump unit = s := by
  rw [State.relayPump, ht]
  rfl

/-- A packet delivered to this package is acted on. -/
theorem State.onPacket_of_delivers {port : BitVec 5} {pk : Packet} {type : BitVec 6} (hd : s.delivers port pk)
    (ht : pk.type = type) (act : State → State) : s.onPacket type port.toNat pk act = act s := by
  simp only [State.onPacket, ht, bne_self_eq_false, Bool.false_eq_true, if_false, hd]

section
variable {port : BitVec 5} {pk : Packet} (hd : s.delivers port pk) (ht : pk.type = PT.COL_CTL)
include hd ht

/-- A control packet delivered to this package is acted on by its SUB. -/
theorem State.onColCtl_of_delivers {sub : BitVec 6} (hsub : pk.sub = sub) (act : State → State) :
    s.onColCtl sub.toNat port pk act = act s := by
  simp only [State.onColCtl, hsub, bne_self_eq_false, Bool.false_eq_true, if_false, State.onPacket_of_delivers hd ht]

/-! ### RTS (R245) -/

theorem exec_rts (hsub : pk.sub = 0) : exec (.rts port pk) s = done (s.onRts pk) :=
  congrArg done (State.onColCtl_of_delivers hd ht hsub _)

/-! ### Packets that name a SEND (R251) -/

section
variable {id at_ : Nat} {busy : Bool} {x : Xfer} (hnamed : s.sendNamed pk = some (id, x))
include hnamed

theorem exec_cts (hsub : pk.sub = 1) (hphase : x.phase = .rts at_ busy) : exec (.cts port pk) s
    = done ((s.setXfer id { x with phase := .bound (fieldAt pk.data 24 4) false }).relayPump x.unit) := by
  refine congrArg done ((State.onColCtl_of_delivers hd ht hsub _).trans ?_)
  simp only [hnamed, hphase]

theorem exec_busy (hsub : pk.sub = 2) (hphase : x.phase = .rts at_ busy) :
    exec (.busy port pk) s = done (s.setXfer id { x with phase := .rts s.now true }) := by
  refine congrArg done ((State.onColCtl_of_delivers hd ht hsub _).trans ?_)
  simp only [hnamed, hphase]

theorem exec_mismatch (hsub : pk.sub = 3) : exec (.mismatch port pk) s = done (s.endXfer id ST.COLL_MISMATCH) := by
  refine congrArg done ((State.onColCtl_of_delivers hd ht hsub _).trans ?_)
  simp only [hnamed]

omit hd ht in
/-- What a control packet names is a SEND. -/
theorem State.kind_of_sendNamed : x.kind = 0 := by
  have hfound := List.find?_some hnamed
  simp only [Bool.and_eq_true, beq_iff_eq] at hfound
  exact hfound.1.1.2

/-- Where the named SEND is the only transfer there is no RECV to cancel. -/
theorem exec_cancel (hsub : pk.sub = 4) (hx : s.xfers = [(id, x)]) :
    exec (.cancel port pk) s = done (s.endXfer id (BitVec.ofNat 16 (fieldAt pk.data 12 2))) := by
  refine congrArg done ((State.onColCtl_of_delivers hd ht hsub _).trans ?_)
  simp [hx, State.kind_of_sendNamed hnamed, hnamed]

end

/-- A CTS, a BUSY or a MISMATCH for no live SEND is late. -/
theorem exec_late (hnone : s.sendNamed pk = none) {c : Instr} {sub : BitVec 6}
    (hc : (c, sub) ∈ [(Instr.cts port pk, (1 : BitVec 6)), (.busy port pk, 2), (.mismatch port pk, 3)]) (hsub : pk.sub = sub) :
    exec c s = done (s.count F.FAB_STATS.LATE_RESP) := by
  simp only [List.mem_cons, Prod.mk.injEq, List.not_mem_nil, or_false] at hc
  rcases hc with ⟨rfl, rfl⟩ | ⟨rfl, rfl⟩ | ⟨rfl, rfl⟩
  all_goals
    refine congrArg done ((State.onColCtl_of_delivers hd ht hsub _).trans ?_)
    simp only [hnone, State.late]

end

section
variable {pk : Packet}

/-- An RTS without a RECV is answered BUSY. -/
theorem State.onRts_of_no_recv (hfind : s.findRecv (fieldAt pk.data 0 2) (fieldAt pk.data 4 4) (fieldAt pk.data 8 4) = none) :
    s.onRts pk = s.sendCtl pk.src.toNat 2
      (busyPayload (keyBytes (fieldAt pk.data 0 2) (fieldAt pk.data 4 4) (fieldAt pk.data 8 4)) (fieldAt pk.data 20 4)) := by
  simp only [State.onRts, hfind]

/-- An RTS that fits its RECV is bound to it and answered CTS. -/
theorem State.onRts_of_match {id : Nat} {x : Xfer}
    (hfind : s.findRecv (fieldAt pk.data 0 2) (fieldAt pk.data 4 4) (fieldAt pk.data 8 4) = some (id, x))
    (hmatch : matchCause x (s.sigOf x) pk.src.toNat (fieldAt pk.data 12 1) (fieldAt pk.data 16 4) (fieldAt pk.data 24 8) = none) :
    s.onRts pk = (s.bindSend id x pk.src.toNat (fieldAt pk.data 20 4) (fieldAt pk.data 13 1 % 16)).sendCtl pk.src.toNat 1
      (ctsPayload (keyBytes (fieldAt pk.data 0 2) (fieldAt pk.data 4 4) (fieldAt pk.data 8 4)) x.count (fieldAt pk.data 20 4)
        x.rref) := by
  simp only [State.onRts, hfind, hmatch]

end

/-- A command that ends the only transfer of clean memory answers the state in which it has left. -/
theorem exists_next_of_endXfer {id : Nat} {x : Xfer} {st : Half} {e : Host.Outcome State Fault Refusal} (hq : s.quiet) (hc : s.clean)
    (hx : s.xfers = [(id, x)]) (hexec : e = done (s.endXfer id st)) :
    e = .next (s.endXfer id st) ∧ (s.endXfer id st).xfers = []
      ∧ (s.endXfer id st).mem = (s.homeWrite x.doneAt (leBytes 8 (completionWord st x.chunks))).mem := by
  obtain ⟨hxfers, hmem, hdue⟩ := State.endXfer_frame hc hx st
  exact ⟨hexec.trans (done_of (hdue.trans hq)), hxfers, hmem⟩

/-- Settles O33: each packet acts on the one transfer, which it binds, makes wait or ends; where it names none it is answered or
counted. -/
theorem controlPacketsMoveTransfers : Obligations.ControlPacketsMoveTransfers := by
  unfold Obligations.ControlPacketsMoveTransfers
  intro s port pk id x _ hq hc hd ht hx htiles d comm seq step sref
  refine ⟨?_, ?_, ?_, ?_, ?_, ?_, ?_⟩
  · intro hsub hfind
    rw [exec_rts hd ht hsub, State.onRts_of_no_recv hfind]
    exact done_of ((State.sendCtl_link _ _ _).ueDue.trans hq)
  · intro hsub hfind hmatch
    have hexec := exec_rts hd ht hsub
    rw [State.onRts_of_match hfind hmatch, State.bindSend, State.setXfer_of_single hx] at hexec
    have hsent := State.sendCtl_link (s := { s with xfers :=
      [(id, { x with srcs := x.srcs ++ [⟨pk.src.toNat, sref, fieldAt d 13 1 % 16, [], x.count == 0⟩] })] }) pk.src.toNat 1
      (ctsPayload (keyBytes comm seq step) x.count sref x.rref)
    exact ⟨_, hexec.trans (done_of (hsent.ueDue.trans hq)), hsent.mem, hsent.xfers⟩
  · intro at_ busy hsub hnamed hphase
    have hexec := exec_cts hd ht hnamed hsub hphase
    rw [State.setXfer_of_single hx, State.relayPump_of_no_tile (by exact htiles)] at hexec
    exact ⟨_, hexec.trans (done_of hq), rfl, rfl⟩
  · intro at_ busy hsub hnamed hphase
    rw [exec_busy hd ht hnamed hsub hphase, State.setXfer_of_single hx]
    exact done_of hq
  · intro hsub hnamed
    exact ⟨_, exists_next_of_endXfer hq hc hx (exec_mismatch hd ht hnamed hsub)⟩
  · intro hsub hnamed
    exact ⟨_, exists_next_of_endXfer hq hc hx (exec_cancel hd ht hnamed hsub hx)⟩
  · intro hnone c n hcn hsub
    exact (exec_late hd ht hnone hcn hsub).trans (done_of hq)

end Sys2Proof.Machine
end

section
/-! SUPPORT. Data and ends of transfers (R246 to R248, R253): a packet of a COPY, completion, stopwatch, retry, orphan tiles. -/

namespace Sys2Proof.Machine

variable {s : State} {id : Nat} {x : Xfer}

/-! ### Data of a COPY (R248) -/

/-- In clean memory the bytes of a COPY are a home write at their index. -/
theorem State.combine_of_copy (hc : s.clean) (hop : x.op = 0) (index : Nat) {data : List Byte} (hdata : data ≠ []) :
    s.combine x [.bytes index data] = (.done [], s.homeWrite (x.local_ + index) data) := by
  have hlen : data.length ≠ 0 := fun h => hdata (List.eq_nil_of_length_eq_zero h)
  simp [State.combine, contribSpan, Xfer.destBytes, hop, hlen, State.writeHold_of_clean hc, State.storeAt_of_clean hc]

/-- Without BATON no chunks are told as they arrive (R246). -/
theorem Xfer.chunks_of_no_baton (hbaton : x.baton = false) : x.chunks = 0 := by
  simp [Xfer.chunks, hbaton]

/-- The only transfer's only source advanced: without BATON its pieces grow and nothing else changes. -/
theorem State.advance_of_single {r : XSrc} (hx : s.xfers = [(id, x)]) (hsrcs : x.srcs = [r]) (hbaton : x.baton = false)
    (index : Nat) (data : List Byte) : s.advance id x r.ep [.bytes index data]
      = { s with xfers := [(id, { x with srcs := [XSrc.grow x.count index data.length r] })] } := by
  have hkept : ({ x with srcs := [XSrc.grow x.count index data.length r] } : Xfer).baton = false := hbaton
  simp [State.advance, contribSpan, hsrcs, Xfer.chunks_of_no_baton hbaton, Xfer.chunks_of_no_baton hkept,
    State.setXfer_of_single hx]

/-- COL_DATA of a COPY at the RECV that its TXN and its sender name. -/
theorem State.onColData_of_copy {port : Nat} {pk : Packet} {r : XSrc} {e g : Nat} (hc : s.clean) (hx : s.xfers = [(id, x)])
    (hphase : x.phase = .open_ e g) (htxn : pk.txn.toNat = e * 128 + g) (hg : g < 128) (hsrcs : x.srcs = [r])
    (hep : r.ep = pk.src.toNat) (hop : x.op = 0) (hbaton : x.baton = false)
    (hspan : pk.word.toNat + pk.data.length ≤ x.count) (hdata : pk.data ≠ []) :
    s.onColData port pk = { s.homeWrite (x.local_ + pk.word.toNat) pk.data with
      xfers := [(id, { x with srcs := [XSrc.grow x.count pk.word.toNat pk.data.length r] })] } := by
  have hentry : pk.txn.toNat / 128 = e := by omega
  have hgen : pk.txn.toNat % 128 = g := by omega
  have hcontribs (fmt : Nat) : contribs x (pk.sub.toNat / 16) pk.word.toNat fmt pk.data = [.bytes pk.word.toNat pk.data] := by
    simp [contribs, hop]
  have hwritten : (s.homeWrite (x.local_ + pk.word.toNat) pk.data).xfers = [(id, x)] :=
    (State.homeWrite_writeStep _ _ _).xfers.trans hx
  have hadvance := State.advance_of_single hwritten hsrcs hbaton pk.word.toNat pk.data
  rw [hep] at hadvance
  have hfind : (s.xfers.find? fun r => r.2.phase == .open_ (pk.txn.toNat / 128) (pk.txn.toNat % 128)
      && r.2.srcs.any fun q => q.ep == pk.src.toNat) = some (id, x) := by
    simp [hx, hphase, hentry, hgen, hsrcs, hep]
  simp [State.onColData, hfind, hcontribs, contribSpan, Nat.not_lt.mpr hspan, hop, State.combine_of_copy hc hop _ hdata, hadvance]

theorem exec_colData {port : BitVec 5} {pk : Packet} (hd : s.delivers port pk) (ht : pk.type = PT.COL_DATA) :
    exec (.colData port pk) s = done (s.onColData port.toNat pk) :=
  congrArg done (State.onPacket_of_delivers hd ht _)

/-! ### Completion, stopwatch, retry (R246, R247, R245) -/

/-- A RECV whose sources are whole ends with ST_OK. -/
theorem exec_transferComplete_of_whole {e g : Nat} (hx : s.xfers = [(id, x)]) (hphase : x.phase = .open_ e g)
    (hsrcs : x.srcs.length = x.nsrc) (hwhole : (x.srcs.all (·.whole)) = true) :
    exec (.transferComplete id) s = done (s.endXfer id ST.OK) := by
  show execTransferComplete id s = _
  simp only [execTransferComplete, State.transferStep, State.xfer_of_single hx, hphase, hsrcs, hwhole, decide_true, Bool.and_self,
    if_true]

/-- A SEND that was answered BUSY has no peer to tell of its end. -/
theorem State.failXfer_of_busy {at_ : Nat} (hx : s.xfers = [(id, x)]) (hphase : x.phase = .rts at_ true) (st : Half) :
    s.failXfer id st = s.endXfer id st := by
  simp only [State.failXfer, State.xfer_of_single hx, hphase]

theorem exec_transferTimeout (hx : s.xfers = [(id, x)]) :
    exec (.transferTimeout id) s = done (if s.now < x.deadline then s else s.failXfer id ST.TIMEOUT) := by
  show execTransferTimeout id s = _
  simp only [execTransferTimeout, State.xfer_of_single hx]

theorem exec_rtsRetry {at_ : Nat} (hx : s.xfers = [(id, x)]) (hphase : x.phase = .rts at_ true) :
    exec (.rtsRetry id) s = done (if s.now < at_ + x.retry then s
      else (s.count F.COL_UNIT_STATS.RTS_RETRIES x.unit).sendGo id x) := by
  show execRtsRetry id s = _
  simp only [execRtsRetry, State.xfer_of_single hx, hphase]

/-- While the only transfer is not bound no tile is taken from an intake. -/
theorem relayTile_of_rts {at_ : Nat} {busy : Bool} (hx : s.xfers = [(id, x)]) (hphase : x.phase = .rts at_ busy) (t : Tile) :
    relayTile s t = s := by
  simp [relayTile, hx, hphase]

theorem State.relayPump_of_rts {at_ : Nat} {busy : Bool} (hx : s.xfers = [(id, x)]) (hphase : x.phase = .rts at_ busy)
    (unit : Nat) : s.relayPump unit = s :=
  List.foldlRecOn (motive := fun t => t = s) _ _ rfl fun t ht tile _ => by
    rw [ht]; exact relayTile_of_rts hx hphase tile

/-- A SEND to this package that finds no RECV waits from this tick (R245). -/
theorem State.sendGo_of_no_recv (hx : s.xfers = [(id, x)]) (hown : s.ownPeer x = true)
    (hfind : s.findRecv x.comm x.seq x.step = none) :
    s.sendGo id x = { s with xfers := [(id, { x with phase := .rts s.now true })] } := by
  have hrts : s.sendRts id x = { s with xfers := [(id, { x with phase := .rts s.now true })] } := by
    simp only [State.sendRts, hown, if_true, State.matchLocal, hfind, State.setXfer_of_single hx]
  rw [State.sendGo, hrts]
  exact State.relayPump_of_rts rfl rfl x.unit

/-- Counting elsewhere leaves the package's own ID. -/
theorem State.self_count {f : Fld} (u n : Nat) (hregs : mapWf regReset s.regs = true) (hf : f.off < 0x4000000)
    (hne : R.FAB_SELF ≠ f.off) : (s.count f u n).self = s.self :=
  State.fld_count_other n hregs (keyOf_ne (by decide) hf hne)

/-- RETRY ticks after a BUSY a SEND to this package looks again for its RECV. -/
theorem exec_rtsRetry_of_due {at_ : Nat} (hregs : mapWf regReset s.regs = true) (hx : s.xfers = [(id, x)])
    (hphase : x.phase = .rts at_ true) (hdue : at_ + x.retry ≤ s.now) (hown : s.ownPeer x = true)
    (hfind : s.findRecv x.comm x.seq x.step = none) : exec (.rtsRetry id) s
      = done { s.count F.COL_UNIT_STATS.RTS_RETRIES x.unit with xfers := [(id, { x with phase := .rts s.now true })] } := by
  have hown' : (s.count F.COL_UNIT_STATS.RTS_RETRIES x.unit).ownPeer x = true := by
    rw [State.ownPeer, State.self_count _ _ hregs (by decide) (by decide)]
    exact hown
  rw [exec_rtsRetry hx hphase, if_neg (Nat.not_lt.mpr hdue)]
  exact congrArg done (State.sendGo_of_no_recv (s := s.count F.COL_UNIT_STATS.RTS_RETRIES x.unit) hx hown' hfind)

/-! ### Orphan tiles (R253) -/

theorem exec_relayOrphanTimeout_of_due {unit : BitVec 5} {tile : Tile} (htiles : s.tiles = [tile]) (hunit : tile.unit = unit.toNat)
    (hdue : tile.since + s.fld F.COL_CFG.XLIM ≤ s.now) : exec (.relayOrphanTimeout unit) s
      = done (({ s with tiles := [] } : State).count F.COL_UNIT_STATS.RELAY_ORPHANS unit.toNat) := by
  show execRelayOrphanTimeout unit s = _
  simp [execRelayOrphanTimeout, htiles, hunit, hdue]

/-- Settles O34: data of a COPY are one home write; completion and stopwatch are ends of the one transfer; a retry and an orphan
tile are told apart from what must still wait by the tick. -/
theorem transfersEnd : Obligations.TransfersEnd := by
  unfold Obligations.TransfersEnd
  intro s id x hm hq hc hx word
  obtain ⟨⟨hregs, -⟩, -⟩ := State.mapsCanonical_iff.mp hm
  refine ⟨?_, ?_, ?_, ?_, ?_, ?_⟩
  · intro port pk r e g hd ht hphase htxn hg hsrcs hep hop hbaton hspan hdata
    have hexec := exec_colData hd ht
    rw [State.onColData_of_copy hc hx hphase htxn hg hsrcs hep hop hbaton hspan hdata] at hexec
    exact ⟨_, hexec.trans (done_of ((State.homeWrite_writeStep _ _ _).ueDue.trans hq)), rfl, rfl⟩
  · intro e g hphase hsrcs hwhole
    exact ⟨_, exists_next_of_endXfer hq hc hx (exec_transferComplete_of_whole hx hphase hsrcs hwhole)⟩
  · intro at_ hphase hdue
    have hexec := exec_transferTimeout hx
    rw [if_neg (Nat.not_lt.mpr hdue), State.failXfer_of_busy hx hphase] at hexec
    obtain ⟨hnext, hxfers, hmem⟩ := exists_next_of_endXfer hq hc hx hexec
    exact ⟨_, hnext, hxfers, hmem, State.endXfer_timeouts hc hx hregs⟩
  · intro hearly
    rw [exec_transferTimeout hx, if_pos hearly]
    exact done_of hq
  · intro at_ hphase
    refine ⟨fun hearly => ?_, fun hdue hown hfind => ?_⟩
    · rw [exec_rtsRetry hx hphase, if_pos hearly]
      exact done_of hq
    · exact ⟨_, (exec_rtsRetry_of_due hregs hx hphase hdue hown hfind).trans (done_of hq), rfl,
        State.fld_count_same F.COL_UNIT_STATS.RTS_RETRIES x.unit 1 hregs (by decide), rfl⟩
  · intro unit tile htiles hunit hdue
    exact ⟨_, (exec_relayOrphanTimeout_of_due htiles hunit hdue).trans (done_of hq), rfl, rfl,
      State.fld_count_same (s := { s with tiles := [] }) F.COL_UNIT_STATS.RELAY_ORPHANS unit.toNat 1 hregs (by decide)⟩

end Sys2Proof.Machine
end

section
/-! SUPPORT. Posts of transfers (R244): the write of COL_POST, the descriptor read, the completion word set to zero, the checks. -/

namespace Sys2Proof.Machine

variable {s : State}

/-! ### The write of COL_POST_k (R9 to R11, R308) -/

/-- The description of COL_POST_k: ADDR alone. -/
def colPostDesc (off : Nat) : RegDesc := ⟨off, 0, [⟨63, 0, .wo, false⟩]⟩

theorem regDesc_colPost : ∀ k < 32, regDesc (R.COL_POST + 8 * k) = some (colPostDesc (R.COL_POST + 8 * k)) := by decide

section
variable {k : Nat} (hk : k < 32)
include hk

/-- The 32 post registers lie together. -/
theorem colPost_ne {r : Nat} (hr : r < R.COL_POST ∨ R.COL_POST + 256 ≤ r) : R.COL_POST + 8 * k ≠ r := by omega

theorem State.descAt_colPost : s.descAt (R.COL_POST + 8 * k) = some (colPostDesc (R.COL_POST + 8 * k)) := by
  simp only [State.descAt, colPost_ne hk (r := R.LNK_ROUTE_ENTRY) (by decide), decide_false, Bool.false_and, Bool.false_eq_true,
    if_false, regDesc_colPost k hk]

/-- No range bounds the address of a post. -/
theorem State.outOfRange_colPost (src : Source) (m : Word64) : s.outOfRange src (R.COL_POST + 8 * k) m = false := by
  simp (disch := decide) only [State.outOfRange, colPost_ne hk, ↓reduceIte, decide_false, Bool.or_self, Bool.false_eq_true]

/-- A write of COL_POST_k is a post. -/
theorem State.regAct_colPost (src : Source) (u : Nat) (mask m old raw : Word64) :
    s.regAct src (R.COL_POST + 8 * k) u mask m old raw = s.posted src (R.COL_POST + 8 * k) m := by
  have hpost : isPost (R.COL_POST + 8 * k) = true := by simp [isPost]; omega
  simp (disch := decide) only [State.regAct, colPost_ne hk, ↓reduceIte, hpost]

/-- A post on memory that does not wait is one of its own unit. -/
theorem State.posted_colPost (src : Source) {v : Word64} (hwait : s.memWaits (offOf v.toNat) 64 = false) :
    s.posted src (R.COL_POST + 8 * k) v = s.colPost src k v := by
  have hblock : regBlock (R.COL_POST + 8 * k) ≠ 15 := by simp only [regBlock, R.COL_POST]; omega
  have hunit : (R.COL_POST + 8 * k - R.COL_POST) / 8 = k := by omega
  simp (disch := decide) only [State.posted, colPost_ne hk, ↓reduceIte, hwait, Bool.and_false, Bool.false_eq_true, hblock, hunit]

theorem State.write64_colPost (src : Source) {v : Word64} (hopen : s.opens (R.COL_POST + 8 * k))
    (hwait : s.memWaits (offOf v.toNat) 64 = false) : s.write64 src (R.COL_POST + 8 * k) v = s.colPost src k v := by
  have hrw : (colPostDesc (R.COL_POST + 8 * k)).mask .rw = 0#64 := rfl
  have hrws : (colPostDesc (R.COL_POST + 8 * k)).mask .rws = 0#64 := rfl
  have hdefined : (colPostDesc (R.COL_POST + 8 * k)).defined = BitVec.allOnes 64 := rfl
  have hmerged (u : Nat) : s.merged (colPostDesc (R.COL_POST + 8 * k)) (R.COL_POST + 8 * k) u (BitVec.allOnes 64) v = v := by
    simp only [State.merged, hrw, hrws, hdefined, BitVec.and_zero, BitVec.or_zero, BitVec.zero_and, BitVec.zero_or,
      BitVec.and_allOnes]
  rw [State.write64_of_open src v hopen (by simp only [R.COL_POST]; omega) (by simp only [R.COL_POST, stagedView]; omega) (State.descAt_colPost hk)]
  simp only [State.writeWord, hmerged, State.outOfRange_colPost hk, Bool.false_eq_true, if_false,
    State.storeFields_of_no_stored _ _ _ _ hrw hrws rfl, State.regAct_colPost hk, State.posted_colPost hk src hwait]

end

/-! ### The descriptor and the checks (R244) -/

/-- Cluster SRAM counts no lines (R181). -/
theorem State.countLines_of_csram {a k o : Nat} (hplace : place a = .csram k o) (halign : a % 64 = 0) (hlt : a < 2 ^ 48)
    (w : Bool) : s.countLines a 64 w = s := by
  have hunit (n : Nat) : s.countUnit a n w = s := by simp only [State.countUnit, hplace]
  have hend : unitEnd a = 2 ^ 48 := by simp only [unitEnd, hplace]
  have hpast : a + 64 ≤ 2 ^ 48 := by omega
  have hhere : ¬ a + 64 ≤ a := by omega
  simp only [State.countLines, State.countLines.go, if_neg hhere, hunit, hend, if_pos hpast]

/-- Fences of collective units are untouched by a home write. -/
theorem State.colFenced_homeWrite (a : Nat) (bs : List Byte) (k : Nat) (hregs : mapWf regReset s.regs = true) :
    (s.homeWrite a bs).colFenced k = s.colFenced k := by
  have hstatus : (s.homeWrite a bs).reg R.ERR_STATUS 0 = s.reg R.ERR_STATUS 0 :=
    State.homeWrite_reg none hregs a bs 0 (by decide) (by decide) (by decide) (by decide) (by decide) (by decide)
  simp only [State.colFenced, State.packageFenced, State.flag, State.fld, hstatus, (State.homeWrite_writeStep a bs none).fencedCols]

/-- The transfer that a descriptor asks for on unit k, its stopwatch started (R247, R263). -/
def State.postedXfer (s : State) (k : Nat) (d : List Byte) : Xfer :=
  ⟨k, d, s.now + s.fld F.COL_CFG.XLIM, s.fld F.COL_CFG.RETRY, .waitEntry, [], 0, false⟩

/-- A posted transfer's completion word set to zero. -/
def State.postBegun (s : State) (x : Xfer) : State := s.homeWrite x.doneAt (leBytes 8 0)

/-- A posted transfer that a check refuses: its completion word written, and counted. -/
def State.postRefused (s : State) (x : Xfer) (st : Half) : State :=
  (s.homeWrite x.doneAt (leBytes 8 (completionWord st 0))).count F.COL_UNIT_STATS.DONE x.unit

/-- A post in place, on a unit with room, is accepted or completes with the first failing check's status. -/
theorem State.colPost_of_room {src : Source} {k o : Nat} {v : Word64} (hregs : mapWf regReset s.regs = true) (hc : s.clean)
    (hself : s.isSelf v.toNat = true) (halign : offOf v.toNat % 64 = 0) (hplace : place (offOf v.toNat) = .csram k o)
    (hroom : s.unitQueued k < 256) (hword : s.wordPlace (fieldAt (s.peek (offOf v.toNat) 64) 32 8) = true)
    (hfence : s.colFenced k = false) :
    s.colPost src k v = (
      let x := s.postedXfer k (s.peek (offOf v.toNat) 64)
      if (s.postBegun x).xferCheck x = ST.OK then (s.postBegun x).acceptXfer x
      else (s.postBegun x).postRefused x ((s.postBegun x).xferCheck x)) := by
  have hlt : offOf v.toNat < 2 ^ 48 := Nat.mod_lt _ (by decide)
  have hfence' (a : Nat) : (s.homeWrite a (leBytes 8 0)).colFenced k = false :=
    (State.colFenced_homeWrite a _ k hregs).trans hfence
  have hclean (a : Nat) : (s.homeWrite a (leBytes 8 0)).clean := (State.homeWrite_writeStep a _ none).clean hc
  simp only [State.colPost, hself, halign, hplace, beq_self_eq_true, bne_self_eq_false, Bool.not_true, Bool.or_self,
    Bool.false_eq_true, if_false, Nat.not_le.mpr hroom, State.poisonIn_of_clean hc, State.read,
    State.countLines_of_csram hplace halign hlt, hword, State.putNat_of_clean hc, State.putNat_of_clean (hclean _), hfence']
  rfl

/-- SEND, RECV and ROUND are posts of descriptors of their KIND (Table 10-3). -/
theorem exec_post {src : Source} {unit : BitVec 5} {addr : Word64} {c : Instr} {kind : Nat}
    (hmem : (c, kind) ∈ [(Instr.send src unit addr, 0), (.recv src unit addr, 1), (.round src unit addr, 2)])
    (hkind : fieldAt (s.peek (offOf addr.toNat) 64) 0 1 = kind) :
    exec c s = done (s.write64 src (R.COL_POST + 8 * unit.toNat) addr) := by
  have hbyte : (s.byteAt (offOf addr.toNat + 0)).toNat = kind := by
    rw [← hkind]
    simp [fieldAt, slice, State.peek, List.range_succ_eq_map, ofLe]
  have hpost : s.postOf src (R.COL_POST + 8 * unit.toNat) 0 (· == kind) addr
      = s.write64 src (R.COL_POST + 8 * unit.toNat) addr := by
    simp only [State.postOf, hbyte, beq_self_eq_true, Bool.not_true, Bool.and_false, Bool.false_eq_true, if_false]
  simp only [List.mem_cons, Prod.mk.injEq, List.not_mem_nil, or_false] at hmem
  rcases hmem with ⟨rfl, rfl⟩ | ⟨rfl, rfl⟩ | ⟨rfl, rfl⟩
  all_goals exact congrArg done hpost

/-- What an accepted ROUND is. -/
theorem State.acceptXfer_round {x : Xfer} (hkind : x.kind = 2) :
    (s.acceptXfer x).xfer s.nextXfer = some { x with phase := .round } := by
  simp only [State.acceptXfer, hkind]
  exact assocGet_assocSet_same _ _ _

section
variable (x : Xfer) (st : Half)

theorem State.postRefused_frame : (s.postRefused x st).mem = (s.homeWrite x.doneAt (leBytes 8 (completionWord st 0))).mem
    ∧ (s.postRefused x st).xfers = s.xfers ∧ (s.postRefused x st).nextXfer = s.nextXfer
    ∧ (s.postRefused x st).ueDue = s.ueDue := by
  have hwrite := State.homeWrite_writeStep (s := s) x.doneAt (leBytes 8 (completionWord st 0)) none
  exact ⟨rfl, hwrite.xfers, hwrite.nextXfer, hwrite.ueDue⟩

/-- A refused post is counted once. -/
theorem State.postRefused_counted (hregs : mapWf regReset s.regs = true) :
    s.counted (s.postRefused x st) F.COL_UNIT_STATS.DONE x.unit :=
  State.counted_of_homeWrite hregs rfl
    (State.fld_count_same F.COL_UNIT_STATS.DONE x.unit 1 ((State.homeWrite_homeStep x.doneAt _ none).wf hregs) (by decide))

end

/-- Settles O32: a post reaches its unit, where the check in the state with the zeroed word tells acceptance from completion. -/
theorem postedTransfersAreChecked : Obligations.PostedTransfersAreChecked := by
  unfold Obligations.PostedTransfersAreChecked
  intro s src unit addr c kind hm hq hc hmem k a d x begun hopen hself halign hplace hkind hroom hword hfence
  obtain ⟨o, hplace⟩ := hplace
  obtain ⟨⟨hregs, -⟩, -⟩ := State.mapsCanonical_iff.mp hm
  have hlt : a < 2 ^ 48 := Nat.mod_lt _ (by decide)
  have hbegun : begun = s.postBegun x := by
    simp only [begun, State.countLines_of_csram hplace halign hlt, State.putNat_of_clean hc]
    rfl
  have hexec := exec_post hmem hkind
  rw [State.write64_colPost unit.isLt src hopen (State.memWaits_of_clean hc _ _),
    State.colPost_of_room hregs hc hself halign hplace hroom hword hfence] at hexec
  rw [hbegun]
  have hstep : WriteStep s (s.postBegun x) := State.homeWrite_writeStep _ _ _
  refine ⟨fun hok => ⟨?_, fun hround => ?_⟩, fun hbad => ?_⟩
  · exact hexec.trans (congrArg done (if_pos hok))
  · have hxfer := State.acceptXfer_round (s := s.postBegun x) (hkind.trans hround)
    rwa [hstep.nextXfer] at hxfer
  · have hwf : mapWf regReset (s.postBegun x).regs = true := (State.homeWrite_homeStep x.doneAt (leBytes 8 0) none).wf hregs
    obtain ⟨hmem', hxfers, hnext, hdue⟩ := State.postRefused_frame (s := s.postBegun x) x ((s.postBegun x).xferCheck x)
    exact ⟨_, (hexec.trans (congrArg done (if_neg hbad))).trans (done_of (hdue.trans (hstep.ueDue.trans hq))),
      hxfers.trans hstep.xfers, hnext.trans hstep.nextXfer,
      State.counted_of_homeWrite hregs rfl (State.postRefused_counted x _ hwf), hmem'⟩

end Sys2Proof.Machine
end

section
/-! SUPPORT. The finish line (R257, R259, R413): what a release sends, and what it leaves at this package. -/

namespace Sys2Proof.Machine

variable {s : State}

/-! ### Sent packets keep the registers canonical -/

/-- A framed flit counts nothing. -/
theorem State.frame_regs (p : Nat) (f : List Byte) : (s.frame p f).regs = s.regs := by
  simp only [State.frame]
  split <;> rfl

theorem State.sendFlit_regs (p seq ftype nslots : Nat) (payload : List Byte) :
    (s.sendFlit p seq ftype nslots payload).regs = s.regs :=
  (State.frame_regs _ _).trans (State.moved_regs _ _)

theorem sendRest_regs (p n : Nat) (s : State) : (sendRest p n s).regs = s.regs := by
  induction n generalizing s with
  | zero => rfl
  | succ n ih =>
    simp only [sendRest]
    split
    · rfl
    · exact (ih _).trans (State.sendFlit_regs _ _ _ _ _)

theorem pumpN_regs (p n : Nat) (s : State) : (pumpN p n s).regs = s.regs := by
  induction n generalizing s with
  | zero => exact sendRest_regs _ _ _
  | succ n ih =>
    simp only [pumpN]
    split
    · exact sendRest_regs _ _ _
    · split
      · exact sendRest_regs _ _ _
      · exact (ih _).trans (sendRest_regs _ _ _)

theorem State.idleIfFull_regs (p : Nat) : (s.idleIfFull p).regs = s.regs := by
  simp only [State.idleIfFull]
  split
  · exact State.sendFlit_regs _ _ _ _ _
  · rfl

section
variable (hregs : mapWf regReset s.regs = true)
include hregs

/-- Packets dropped from a queue are counted. -/
theorem State.dropStale_wf (p : Nat) : mapWf regReset (s.dropStale p).regs = true := by
  simp only [State.dropStale]
  split
  · exact hregs
  · split <;> split
    · exact hregs
    · exact State.count_wf _ _ _ hregs
    · exact State.count_wf _ _ _ hregs
    · exact State.count_wf _ _ _ (State.count_wf _ _ _ hregs)

theorem State.pump_wf (p : Nat) : mapWf regReset (s.pump p).regs = true := by
  simp only [State.pump]
  split
  · exact State.dropStale_wf hregs p
  · rw [State.idleIfFull_regs, pumpN_regs]
    exact State.dropStale_wf hregs p

theorem State.enqueue_wf (p : Nat) (pk : Packet) : mapWf regReset (s.enqueue p pk).regs = true :=
  State.pump_wf (s := s.setPort p _) hregs p

end

theorem State.countSent_regs (pk : Packet) (detoured : Bool) : (s.countSent pk detoured).regs = s.regs := by
  unfold State.countSent
  split <;> rfl

theorem State.detour_regs (pk : Packet) : (s.detour pk).2.regs = s.regs := by
  unfold State.detour
  simp only
  repeat' split
  all_goals rfl

theorem State.send_wf {t : State} {pk : Packet} (hregs : mapWf regReset s.regs = true) (h : s.send pk = .ok t) :
    mapWf regReset t.regs = true := by
  have hdetour := State.detour_regs (s := s) pk
  simp only [State.send] at h
  split at h
  · cases h
  · split at h
    · split at h
      · cases h
        refine State.enqueue_wf ?_ _ _
        rw [State.countSent_regs, hdetour]
        exact hregs
      · cases h
    · cases h

theorem State.sendCtl_wf (dest sub : Nat) (payload : List Byte) (hregs : mapWf regReset s.regs = true) :
    mapWf regReset (s.sendCtl dest sub payload).regs = true := by
  unfold State.sendCtl State.sendJob
  split
  next h =>
    split at h
    · cases h
    · split at h
      · cases h
      · exact State.send_wf hregs h
  next => exact hregs

/-! ### RELEASE sent (R413) -/

/-- t differs from s only in what ports keep, count and send, and its registers are canonical where those of s are. -/
structure SendStep (s t : State) : Prop extends LinkStep s t where
  wf : mapWf regReset s.regs = true → mapWf regReset t.regs = true

theorem SendStep.refl (s : State) : SendStep s s := ⟨LinkStep.refl s, id⟩

theorem SendStep.trans {s t u : State} (h1 : SendStep s t) (h2 : SendStep t u) : SendStep s u :=
  ⟨h1.toLinkStep.trans h2.toLinkStep, h2.wf ∘ h1.wf⟩

theorem SendStep.comms {s t : State} (h : SendStep s t) : t.comms = s.comms := by rw [h.eq]

/-- Packets that are sent or not. -/
theorem SendStep.ite {s t u : State} (p : Prop) [Decidable p] (ht : SendStep s t) (hu : SendStep s u) :
    SendStep s (if p then t else u) := by
  split
  · exact ht
  · exact hu

theorem State.sendCtl_step (dest sub : Nat) (payload : List Byte) : SendStep s (s.sendCtl dest sub payload) :=
  ⟨State.sendCtl_link dest sub payload, State.sendCtl_wf dest sub payload⟩

theorem State.sendRelease_step (c : Comm) (a : Arrive) (eps : List Nat) : SendStep s (s.sendRelease c a eps) :=
  List.foldlRecOn _ _ (SendStep.refl s) fun _ h _ _ => h.trans (State.sendCtl_step _ _ _)

/-- A release is that of this package, in the state in which it has gone on to whom this package leads. -/
theorem State.releaseDown_eq (i : Nat) (c : Comm) (a : Arrive) :
    ∃ t, SendStep s t ∧ s.releaseDown i c a = t.releaseHere i c a := by
  have hsent (t : State) (p : Prop) [Decidable p] (eps : List Nat) :
      SendStep t (if p then t.sendRelease c a eps else t) :=
    SendStep.ite p (State.sendRelease_step c a eps) (SendStep.refl t)
  exact ⟨_, ((hsent s _ _).trans (hsent _ _ _)).trans (hsent _ _ _), rfl⟩

/-! ### The release at this package (R257, R259) -/

/-- This package's lag behind a lap's first arrival noted, and that it was the last (Table 10-19). -/
def State.lagNoted (s : State) (i lastEp lag : Nat) : State :=
  let s := (s.setFld F.COL_LAG.LAG_LAST lag i).countMax F.COL_LAG.LAG_MAX i lag
  if lastEp = s.self then s.count F.COL_LAG.LAGGED i else s

/-- The last package of a lap noted (Table 10-20). -/
def State.laggardNoted (s : State) (i ep lag lap : Nat) : State :=
  ((s.setFld F.COL_LAGGARD.ENDPOINT ep i).setFld F.COL_LAGGARD.LAG lag i).setFld F.COL_LAGGARD.LAP lap i

/-- A communicator between laps: nothing has arrived, and a lap is done. -/
def Comm.lapEnded (c : Comm) (lap : Nat) : Comm :=
  { c with lap := none, arrived := 0, atNode := none, atGroup := none, atRoot := none, lapDone := some lap }

/-- Every context that waits at the communicator's finish line goes on. -/
def State.finishWoken (s : State) (comm : Nat) : State :=
  { s with harts := s.harts.map fun e => (e.1, finishWake comm ST.OK e.2) }

/-- The lap ended at this package: the lags noted, the waiting contexts woken. -/
def State.lapReleased (s : State) (i : Nat) (c : Comm) (a : Arrive) (own lag lap : Nat) : State :=
  (((s.setComm i (c.lapEnded a.lap)).lagNoted i a.lastEp own).laggardNoted i a.lastEp lag lap).finishWoken c.comm

/-- A release with ST_OK ends the lap, with the lags cut to their fields. -/
theorem State.releaseHere_of_ok {i : Nat} {c : Comm} {a : Arrive} (hok : a.status = ST.OK) : s.releaseHere i c a
    = s.lapReleased i c a (Nat.min (2 ^ 24 - 1) (c.ownTick - a.firstTick)) (Nat.min (2 ^ 32 - 1) (a.lastTick - a.firstTick))
      (a.lap % 2 ^ 16) := by
  simp only [State.releaseHere, hok, if_true, bne_self_eq_false, Bool.false_eq_true, if_false]
  generalize Nat.min (2 ^ 24 - 1) (c.ownTick - a.firstTick) = own
  generalize Nat.min (2 ^ 32 - 1) (a.lastTick - a.firstTick) = lag
  generalize a.lap % 2 ^ 16 = lap
  rfl

theorem State.setFld_step (f : Fld) (v u : Nat) : CountStep s (s.setFld f v u) := ⟨rfl, State.setFld_wf f v u⟩
theorem State.countMax_step (f : Fld) (u n : Nat) : CountStep s (s.countMax f u n) := ⟨rfl, mapWf_mapSet⟩

/-- A maximum noted leaves the fields beside it. -/
theorem State.fld_countMax_apart {f g : Fld} (u n : Nat) (hregs : mapWf regReset s.regs = true) (hoff : g.off = f.off)
    (hg : g.hi < 64) (apart : g.hi < f.lo ∨ f.hi < g.lo) : (s.countMax f u n).fld g u = s.fld g u :=
  State.fld_setFld_apart _ u hregs hoff hg apart

theorem State.lagNoted_step (i lastEp lag : Nat) : CountStep s (s.lagNoted i lastEp lag) :=
  ((State.setFld_step _ _ _).trans (State.countMax_step _ _ _)).trans (CountStep.ite _ (State.count_step _ _ _) (CountStep.refl _))

theorem State.laggardNoted_step (i ep lag lap : Nat) : CountStep s (s.laggardNoted i ep lag lap) :=
  ((State.setFld_step _ _ _).trans (State.setFld_step _ _ _)).trans (State.setFld_step _ _ _)

section
variable (i : Nat) (hregs : mapWf regReset s.regs = true)
include hregs

/-- LAG_LAST reads the lag. -/
theorem State.lagNoted_last (lastEp : Nat) {lag : Nat} (hlag : lag < 2 ^ 24) :
    (s.lagNoted i lastEp lag).fld F.COL_LAG.LAG_LAST i = lag := by
  have hset := State.setFld_wf F.COL_LAG.LAG_LAST lag i hregs
  have hmax : ((s.setFld F.COL_LAG.LAG_LAST lag i).countMax F.COL_LAG.LAG_MAX i lag).fld F.COL_LAG.LAG_LAST i = lag := by
    rw [State.fld_countMax_apart _ _ hset (by rfl) (by decide) (by decide), State.fld_setFld_same _ _ _ hregs (by decide)]
    exact Nat.mod_eq_of_lt hlag
  simp only [State.lagNoted]
  split
  · rw [State.fld_count_apart _ _ ((State.countMax_step _ _ _).wf hset) (by rfl) (by decide) (by decide)]
    exact hmax
  · exact hmax

/-- COL_LAGGARD.ENDPOINT reads the last package; COL_LAG stays. -/
theorem State.laggardNoted_regs (ep lag lap : Nat) :
    (s.laggardNoted i ep lag lap).fld F.COL_LAGGARD.ENDPOINT i = ep % 2 ^ 16
      ∧ (s.laggardNoted i ep lag lap).fld F.COL_LAG.LAG_LAST i = s.fld F.COL_LAG.LAG_LAST i := by
  have hep := State.setFld_wf F.COL_LAGGARD.ENDPOINT ep i hregs
  have hlag := State.setFld_wf F.COL_LAGGARD.LAG lag i hep
  constructor
  · rw [State.laggardNoted, State.fld_setFld_apart _ _ hlag (by rfl) (by decide) (by decide),
      State.fld_setFld_apart _ _ hep (by rfl) (by decide) (by decide)]
    exact State.fld_setFld_same _ _ _ hregs (by decide)
  · have hkey : keyOf F.COL_LAG.LAG_LAST.off i ≠ keyOf R.COL_LAGGARD i := keyOf_ne (by decide) (by decide) (by decide)
    rw [State.laggardNoted, State.fld_setFld_other _ hlag hkey, State.fld_setFld_other _ hep hkey,
      State.fld_setFld_other _ hregs hkey]

end

/-- What the release of a lap with ST_OK leaves, this package own ticks behind the lap's first arrival. -/
structure Released (s t : State) (i : Nat) (c : Comm) (a : Arrive) (own : Nat) : Prop where
  mem : t.mem = s.mem
  ueDue : t.ueDue = s.ueDue
  comms : t.comms = [(i, c.lapEnded a.lap)]
  laggard : t.fld F.COL_LAGGARD.ENDPOINT i = a.lastEp % 2 ^ 16
  lag : t.fld F.COL_LAG.LAG_LAST i = own
  harts : t.harts = s.harts.map fun e => (e.1, finishWake c.comm ST.OK e.2)

/-- What is sent before is no part of what a release leaves. -/
theorem Released.of_sent {t u : State} {i : Nat} {c : Comm} {a : Arrive} {own : Nat} (hsent : SendStep s t)
    (h : Released t u i c a own) : Released s u i c a own :=
  { h with
    mem := h.mem.trans hsent.mem
    ueDue := h.ueDue.trans hsent.ueDue
    harts := by rw [h.harts, hsent.harts] }

theorem CountStep.comms {s t : State} (h : CountStep s t) : t.comms = s.comms := by rw [h.eq]
theorem CountStep.harts {s t : State} (h : CountStep s t) : t.harts = s.harts := by rw [h.eq]

/-- A lap has ended in the state that has its lags noted and then wakes the waiting contexts. -/
theorem Released.of_noted {t : State} {i own : Nat} {c c' : Comm} {a : Arrive} (hcomms : s.comms = [(i, c')])
    (hnoted : CountStep (s.setComm i (c.lapEnded a.lap)) t)
    (hlaggard : t.fld F.COL_LAGGARD.ENDPOINT i = a.lastEp % 2 ^ 16) (hlag : t.fld F.COL_LAG.LAG_LAST i = own) :
    Released s (t.finishWoken c.comm) i c a own where
  mem := hnoted.mem
  ueDue := hnoted.ueDue
  comms := hnoted.comms.trans (by rw [State.setComm, hcomms, assocSet_single])
  laggard := hlaggard
  lag := hlag
  harts := congrArg (List.map _) hnoted.harts

theorem State.lapReleased_released {i own : Nat} {c c' : Comm} {a : Arrive} (lag lap : Nat) (hregs : mapWf regReset s.regs = true)
    (hcomms : s.comms = [(i, c')]) (hown : own < 2 ^ 24) : Released s (s.lapReleased i c a own lag lap) i c a own := by
  have hlag := State.lagNoted_step (s := s.setComm i (c.lapEnded a.lap)) i a.lastEp own
  have hlast := State.lagNoted_last (s := s.setComm i (c.lapEnded a.lap)) i hregs a.lastEp hown
  obtain ⟨hlaggard, hkept⟩ := State.laggardNoted_regs i (hlag.wf hregs) a.lastEp lag lap
  exact Released.of_noted hcomms (hlag.trans (State.laggardNoted_step i a.lastEp lag lap)) hlaggard (hkept.trans hlast)

/-- A release travels down and ends the lap here. -/
theorem State.releaseDown_released {i : Nat} {c c' : Comm} {a : Arrive} (hregs : mapWf regReset s.regs = true)
    (hcomms : s.comms = [(i, c')]) (hok : a.status = ST.OK) :
    Released s (s.releaseDown i c a) i c a (Nat.min (2 ^ 24 - 1) (c.ownTick - a.firstTick)) := by
  have hown : Nat.min (2 ^ 24 - 1) (c.ownTick - a.firstTick) < 2 ^ 24 := Nat.lt_of_le_of_lt (Nat.min_le_left _ _) (by decide)
  obtain ⟨t, hsent, heq⟩ := State.releaseDown_eq (s := s) i c a
  rw [heq, State.releaseHere_of_ok hok]
  exact Released.of_sent hsent (State.lapReleased_released _ _ (hsent.wf hregs) (hsent.comms.trans hcomms) hown)

/-! ### RELEASE and ARRIVE received (R413) -/

section
variable {port : BitVec 5} {pk : Packet} {i : Nat} {c : Comm} (hd : s.delivers port pk) (ht : pk.type = PT.COL_CTL)
  (hcomm : s.commOf (fieldAt pk.data 0 2) = some (i, c))
include hd ht hcomm

theorem exec_release (hsub : pk.sub = 6) : exec (.release port pk) s = done (s.releaseDown i c (Arrive.ofBytes pk.data)) := by
  refine congrArg done ((State.onColCtl_of_delivers hd ht hsub _).trans ?_)
  simp only [hcomm]

/-- An ARRIVE from another group counts at the root. -/
theorem exec_arrive_of_far (hsub : pk.sub = 5) (hfar : pk.src.toNat / 64 ≠ s.self / 64) :
    exec (.arrive port pk) s = done (s.joinRoot i c (Arrive.ofBytes pk.data)) := by
  have hnode : pk.src.toNat / 4 ≠ s.self / 4 := by omega
  refine congrArg done ((State.onColCtl_of_delivers hd ht hsub _).trans ?_)
  simp only [hcomm, if_neg hnode, if_neg hfar]

end

/-- The ARRIVE that makes the arrivals at the root as many as the members releases the finish line. -/
theorem State.joinRoot_of_last {i : Nat} {c : Comm} {a : Arrive} (hall : (a.joinTo c.atRoot).count = c.members.length) :
    s.joinRoot i c a = (s.setComm i { c with atRoot := some (a.joinTo c.atRoot) }).releaseDown i
      { c with atRoot := some (a.joinTo c.atRoot) } (a.joinTo c.atRoot) := by
  simp only [State.joinRoot, hall, if_true]

/-- Settles O35: a RELEASE, and the ARRIVE that completes the line at the root, end in the one release of R257. -/
theorem finishLineReleases : Obligations.FinishLineReleases := by
  unfold Obligations.FinishLineReleases
  intro s port pk i c hm hq hd ht hcomm hcomms a released
  obtain ⟨⟨hregs, -⟩, -⟩ := State.mapsCanonical_iff.mp hm
  constructor
  · intro hsub hok _ _ _
    have hrel := State.releaseDown_released (c := c) hregs hcomms hok
    exact ⟨_, (exec_release hd ht hcomm hsub).trans (done_of (hrel.ueDue.trans hq)), hrel.mem, hrel.comms, hrel.laggard, hrel.lag,
      hrel.harts⟩
  · intro own hsub hmembers _ hroot hfar hown ha hok
    have hall : (a.joinTo c.atRoot).count = c.members.length := by
      simp [hroot, Arrive.joinTo, Arrive.join, hmembers, hown, ha]
    have hset : (s.setComm i { c with atRoot := some (a.joinTo c.atRoot) }).comms
        = [(i, { c with atRoot := some (a.joinTo c.atRoot) })] := by
      rw [State.setComm, hcomms, assocSet_single]
    have hexec := exec_arrive_of_far hd ht hcomm hsub hfar
    rw [State.joinRoot_of_last hall] at hexec
    rw [hroot] at hexec hset
    have hrel := State.releaseDown_released (c := { c with atRoot := some (a.joinTo (some own)) })
      (s := s.setComm i { c with atRoot := some (a.joinTo (some own)) }) hregs hset hok
    exact ⟨_, hexec.trans (done_of (hrel.ueDue.trans hq)), hrel.mem, hrel.comms, hrel.laggard, hrel.lag, hrel.harts⟩

end Sys2Proof.Machine
end
